-- ==== Sys2Proof/Word.lean ====
section
/-! DEFINITION. The word types of the NV4860 sled warden: bytes, 32-bit words, and the numbered things of the spec
(gables, domains, ports, engines). Nothing here computes. -/

namespace Sys2Proof

/-- One byte. -/
abbrev Byte := BitVec 8

/-- A 32-bit word: registers, Hatch general registers, Stipple data registers, addresses. -/
abbrev Word := BitVec 32

/-- A gable G0 to G7 (spec/11, "Descriptors and windows"). G0 is the operator's. -/
abbrev Gable := Fin 8

/-- A Thatch holder: 0 to 7 are gables, 8 is the Otireno engine (spec/12 R221). -/
abbrev Holder := Fin 9

/-- A Purlin port P0 or P1 (spec/14). -/
abbrev Port := Fin 2

/-- A Burin engine B0 to B3 (spec/13). -/
abbrev EngineNo := Fin 4

/-- A pad group PGA to PGD (spec/05, "Pad groups and hold"). -/
abbrev PadGroup := Fin 4

/-- A memory bank BK0 to BK15 (spec/09). -/
abbrev BankNo := Fin 16

/-- A switchable domain 0 to 23 in the order of Table PWR-1 (spec/05). -/
abbrev Dom := Fin 24

end Sys2Proof
end

