-- ==== Sys2Proof/Syntax.lean ====
section
/-! DEFINITION. The commands of the block: one constructor of `Instr` per row of spec/opcode_table.json, with the
operands the model gives it (notes/assumptions/7.md), and the types of those operands. -/

namespace Sys2Proof

/-- Register-register operand forms of the Graver ALU (spec/08 Table ISA-4 format HR, Table ISA-8 major 0x1 and
Table ISA-13 XOP 0x5 and 0x8). -/
inductive AluForm where
  | hatch (rd ra rb : Fin 16) (s : Bool)
  | stipple (d sr : Fin 8)
  deriving DecidableEq, Repr

/-- CMP: Hatch names RA and RB, Stipple dD and dS. -/
inductive CmpForm where
  | hatch (ra rb : Fin 16)
  | stipple (d sr : Fin 8)
  deriving DecidableEq, Repr

/-- Immediate operand forms: Hatch HI, Stipple major 0x2 (six bits), Stipple extended XOP 0x3 (sixteen bits). -/
inductive ImmForm where
  | hatch (rd ra : Fin 16) (s : Bool) (imm : BitVec 16)
  | short (d : Fin 8) (imm : BitVec 6)
  | long (d : Fin 8) (imm : BitVec 16)
  deriving DecidableEq, Repr

/-- CMPI: Hatch names RA only (RD and S are 0). -/
inductive CmpImmForm where
  | hatch (ra : Fin 16) (imm : BitVec 16)
  | short (d : Fin 8) (imm : BitVec 6)
  | long (d : Fin 8) (imm : BitVec 16)
  deriving DecidableEq, Repr

/-- ORI and XORI have no six-bit Stipple form (spec/08 Table ISA-10). -/
inductive LogicImmForm where
  | hatch (rd ra : Fin 16) (s : Bool) (imm : BitVec 16)
  | long (d : Fin 8) (imm : BitVec 16)
  deriving DecidableEq, Repr

/-- Hatch addressing modes (spec/08 R162). -/
inductive HatchMode where
  | base
  | disp (imm : BitVec 12)
  | postInc
  | preDec
  | index (ri : Fin 16) (sh : BitVec 2)
  deriving DecidableEq, Repr

/-- Stipple addressing modes of majors 0x4 and 0x5 (spec/08 Table ISA-8). -/
inductive StippleMode where
  | base
  | postInc
  | preDec
  deriving DecidableEq, Repr

/-- Access sizes. -/
inductive Size where
  | byte
  | half
  | word
  deriving DecidableEq, Repr

/-- Stipple load and store forms: major 0x4 and XOP 0x4. -/
inductive StippleMem where
  | short (size : Size) (mode : StippleMode) (sx : Bool) (dt ab : Fin 8)
  | long (size : Size) (sx : Bool) (dt ab : Fin 8) (disp : BitVec 12)
  deriving DecidableEq, Repr

/-- Conditional branches: Hatch HB, Stipple major 0x6, Stipple XOP 0x6. -/
inductive BccForm where
  | hatch (cond : BitVec 4) (disp : BitVec 22)
  | short (cond : BitVec 4) (disp : BitVec 8)
  | long (cond : BitVec 4) (disp : BitVec 20)
  deriving DecidableEq, Repr

/-- Direct calls: Hatch HJ, Stipple major 0x8, Stipple XOP 0x7. -/
inductive CallForm where
  | hatch (disp : BitVec 26)
  | short (disp : BitVec 12)
  | long (disp : BitVec 20)
  deriving DecidableEq, Repr

/-- One register, of the mode named: JR, CALLR, MFF, MTF. -/
inductive RegForm where
  | hatch (r : Fin 16)
  | stipple (d : Fin 8)
  deriving DecidableEq, Repr

/-- ADDA and CMPA: an immediate or a second address register (spec/08 Table ISA-11). -/
inductive AddrForm where
  | imm (a : Fin 8) (imm : BitVec 7)
  | reg (x y : Fin 8)
  deriving DecidableEq, Repr

/-- MOVA: from an address register or the low half of a data register. -/
inductive MovaForm where
  | fromAddr (x y : Fin 8)
  | fromData (x y : Fin 8)
  deriving DecidableEq, Repr

/-- The two permits (spec/03 R49). -/
inductive Permit where
  | meas
  | xmit
  deriving DecidableEq, Repr

/-- The oscillators that are qualified (spec/04 R66). -/
inductive Osc where
  | xt32
  | frc
  | extref
  deriving DecidableEq, Repr

/-- A DMA channel of a Burin engine (spec/13 R250). -/
inductive DmaDir where
  | tx
  | rx
  deriving DecidableEq, Repr

/-- One conversion of the ADC (spec/04 R84, spec/16 R302): the voltage at an AIN ball in uV, or the die temperature in
0.0625 C above -64 C, and the converter's error in LSB, which Table ELE-7 bounds. Channels 8 to 11 read the supplies that
State holds. -/
structure AdcSample where
  input : Nat
  err   : Int
  deriving DecidableEq, Repr

/-- One access of the Thatch aperture. -/
inductive Access where
  | load
  | store (v : Word)
  deriving DecidableEq, Repr

/-- Causes of R259 for a discarded frame. -/
inductive DiscardCause where
  | fcs
  | other
  deriving DecidableEq, Repr

/-- A received frame: the port, and the bytes between SFD and EFD (spec/14 Table PUR-3), none where a character between
them was a violation. -/
structure Frame where
  port : Port
  body : Option (List Byte)
  deriving DecidableEq, Repr

/-- A group of the 8b/10b code that a port receives, and its receiver's running disparity before it (spec/14 R253). -/
structure CodeGroup where
  port  : Port
  plus  : Bool
  group : BitVec 10
  deriving DecidableEq, Repr

/-- A response to a Read of Status (spec/02 R33): whether its CRC holds, its acknowledgement, and whether VDone is seen. -/
structure PollReply where
  crcOk : Bool
  ack   : BitVec 2
  vdone : Bool
  deriving DecidableEq, Repr

/-- What the NVM device holds and declares (spec/15 R275): its density in bytes when a valid SFDP signature is found,
whether it declares 1-1-4 with the quad-enable requirement met, whether it is 4-byte addressed only, and its bytes,
sparse; a byte not listed is erased (0xFF). -/
structure Nvm where
  sfdp    : Bool
  density : Nat
  quad    : Bool
  addr4   : Bool
  bytes   : List (Nat × Byte)
  deriving DecidableEq, Repr

/-- A vendor key (spec/15 R279): mask ROM holds its hash, and its revocation fuse is intact or blown. The spec does not
say where the key itself comes from, so it stands beside its hash (notes/assumptions/9.md). -/
structure VendorKey where
  key    : List Byte
  hash   : List Byte
  intact : Bool
  deriving DecidableEq, Repr

/-- The fuse record of a bank's spare column (spec/09, "Repair and failed banks"). -/
structure FuseRecord where
  bank   : BankNo
  spare  : Fin 4
  valid  : Bool
  column : BitVec 7
  parity : Bool
  deriving DecidableEq, Repr

/-- What the board and the part's fuses present at a cold start: the NVM if it was replaced since, whether the reads of the
two slots completed (check 2 of spec/15 Table PLT-5), the vendor keys by KEY_ID, the FAILED fuses and the repair records
(spec/09 R181; a spare without a record is unfused), the fused trim codes, the supplies, and the level of the TEST ball
(spec/16 R308). -/
structure Board where
  nvm        : Option Nvm
  readOkA    : Bool
  readOkB    : Bool
  vendorKeys : List VendorKey
  failed     : BitVec 16
  fuses      : List FuseRecord
  frcCode    : BitVec 9
  lrcCode    : BitVec 8
  moscCode   : BitVec 8
  vsysMv     : Nat
  testHigh   : Bool
  deriving DecidableEq, Repr

/-- The commands. Each constructor is the row of spec/opcode_table.json that LAWS.json names. -/
inductive Instr where
  -- registers (00)
  | registerWrite (g : Gable) (addr v : Word)
  -- supply path and brownout (02)
  | vinOkFall (vin : Nat)
  | vinOkAssert (vin : Nat)
  | buckInRegulation
  | vinPathCarrying
  | vinOvervoltage (vin : Nat)
  | vinOvClear (vin : Nat)
  | avsDisable (v : Word)
  | avsSet (g : Gable)
  | avsResponse (crcOk : Bool) (ack : BitVec 2) (status : BitVec 5) (data : BitVec 16)
  | avsStatusPoll (r : PollReply) (status : BitVec 5) (data : BitVec 16)
  | avsAttemptTimeout
  | avsPollPeriod
  | statusAlert
  | brace (vsys : Nat)
  | braceComplete
  | warnRelease (vsys : Nat)
  | unbrace
  | stormEnd
  | brownoutReset (vsys : Nat)
  | coldStart (b : Board)
  -- darkness and Gutter (03)
  | shelterIn (vst vbat : Nat)
  | shelterEnd (vst : Nat)
  | shelterCellLoss
  | dormantLockout (vst : Nat)
  | dormantRelease (vst : Nat)
  | gutterStart (vst : Nat)
  | gutterStop (vst : Nat)
  | chargeTargetReached
  | permitAssert (p : Permit) (vst : Nat)
  | permitDeassert (p : Permit) (vst : Nat)
  | dusk (vst : Nat)
  | duskRearm (vst : Nat)
  | gutThrWrite (v : Word)
  | automaticSeed (vst vbat : Nat)
  | seedStore (g : Gable)
  | seedEnd (vst vbat : Nat)
  | seedTimeout
  -- clocks, timers, ADC (04)
  | qualificationWindow (t : Osc) (count : Nat)
  | xt32QualTimeout
  | frcQualRetry
  | oscMonitorWindow (t : Osc) (count : Nat)
  | xt32Enable (v : Word)
  | extrefEnable (v : Word)
  | trimWindow (count : Nat)
  | trimSourceWrite (v : Word)
  | sscUpdate
  | clkGateWrite (g : Gable) (v : Word)
  | rtcSourceChange
  | rtcSet (v : Word)
  | rtcSetApply
  | rtcAlarm
  | moscTimerStart (g : Gable) (n : Fin 4) (v : Word)
  | moscTimerStop (g : Gable) (n : Fin 4) (v : Word)
  | moscTimerExpiry (n : Fin 4)
  | pclkTimerStart (g : Gable) (v : Word)
  | pclkTimerStop (g : Gable) (v : Word)
  | pclkTimerExpiry (g : Gable)
  | adcConversionRequest (g : Gable) (v : Word)
  | adcRequestComplete (samples : List AdcSample)
  -- domains, pads, wake, residency (05)
  | domainSwitchDone
  | bankZeroDone (b : BankNo)
  | warmReset (v : Word)
  | padRelease (g : Gable) (v : Word)
  | vioLoss (p : PadGroup)
  | vioReturn (p : PadGroup)
  | wakePinAccept (n : Fin 8) (level : Bool)
  | wkEdgeCount (n : Fin 8) (rising : Bool)
  | wake (src : Fin 18)
  | wakeUnmask (g : Gable) (v : Word)
  | linkHoldExpiry
  | offGraceExpiry
  | residencySnapshot (g : Gable) (v : Word)
  | residencyClear
  | enterProfile (g : Gable)
  | setDomains (g : Gable)
  | flushCacheGable (g : Gable)
  | checkpoint (g : Gable)
  | padReleaseAssist (g : Gable)
  | padReleaseTimeout (g : Gable)
  | plateUpdate (g : Gable)
  | plateProgramDone (nvmOk : Bool)
  | braceTest (g : Gable)
  | customerService (g : Gable)
  -- Ridge (06)
  | dispatch
  | ridgeWord
  | ridgeTokenAcquired
  | ridgeVreqDone
  | ridgeTmrDelayExpiry
  | ridgeWaitCondition
  | ridgeWaitTimeout
  | ridgeCommit (v : Word)
  | ridgeCommitChecked
  | ridgeCommitTimeout
  -- store buffer, cache, events, switcher (07, 10, 11)
  | storeCommit
  | lineFill
  | eventEntry
  | gableSwitch
  | frameStart
  | budgetExhausted (g : Gable)
  | quantumExpiry
  | boostExpiry (g : Gable)
  | gableRestart (g : Gable)
  | gableSelfRestart (g : Gable) (v : Word)
  -- banks (09)
  | eccWriteback (b : BankNo)
  | bankGrant (b : BankNo)
  | scrubRead
  | cwinWrite (g : Gable) (n : Fin 8) (v : Word)
  | bankBist (v : Word)
  | bistDone (pass : Bool)
  -- line cache operations (10)
  | lcClean (g : Gable) (addr : Word)
  | lcInvalidate (g : Gable) (addr : Word)
  | lcCleanInvalidate (g : Gable) (addr : Word)
  -- Thatch (12)
  | alloc (h : Holder) (arg v : Word)
  | free (h : Holder) (arg : Word)
  | retain (h : Holder) (arg : Word)
  | transfer (h : Holder) (arg v : Word)
  | cancel (h : Holder)
  | thtSelWrite (g : Gable) (v : Word)
  | thatchWaitTimeout (h : Holder)
  | waitAck (g : Gable)
  | thatchSnapshot
  | apertureAccess (g : Gable) (off : BitVec 12) (size : Size) (a : Access)
  -- Burin (13)
  | burinWord (n : EngineNo) (pins : Byte)
  | burinFifoWaitEnd (n : EngineNo) (pins : Byte)
  | burinDelayExpiry (n : EngineNo) (pins : Byte)
  | burinWaitCondition (n : EngineNo) (pins : Byte)
  | burinWaitTimeout (n : EngineNo) (pins : Byte)
  | burinParkTimeout (n : EngineNo)
  | burinCommit (v : Word)
  | burinCommitChecked
  | burinCommitExchange
  | burinCommitTimeout
  | burinStart (g : Gable) (n : EngineNo) (v : Word)
  | burinHalt (g : Gable) (n : EngineNo)
  | flushTx (g : Gable) (n : EngineNo)
  | flushRx (g : Gable) (n : EngineNo)
  | swfSet (g : Gable) (n : EngineNo)
  | swfClr (g : Gable) (n : EngineNo)
  | burTxfWrite (g : Gable) (n : EngineNo) (v : Word)
  | burRxfRead (g : Gable) (n : EngineNo)
  | burinDmaAccess (n : EngineNo) (dir : DmaDir)
  | burinDmaEnd (n : EngineNo) (dir : DmaDir)
  -- Purlin and Otireno (14)
  | ts1 (p : Port) (rate role : BitVec 2) (tkt : BitVec 16)
  | ts2 (p : Port) (rate role : BitVec 2) (tkt own : BitVec 16)
  | sofH (p : Port) (sfn : Byte)
  | sofT (p : Port) (sfn : Byte)
  | linkTrained (p : Port)
  | retrain (p : Port)
  | lossOfLink (p : Port)
  | superframe (p : Port)
  | slp (p : Port)
  | linkSleep (p : Port)
  | lineActivity (p : Port)
  | openSession (f : Frame) (noise : List Byte)
  | lockoutExpiry (g : Gable)
  | close (f : Frame)
  | ping (f : Frame)
  | readReg (f : Frame)
  | writeReg (f : Frame)
  | winRead (f : Frame)
  | winWrite (f : Frame)
  | msgSend (f : Frame)
  | replyTimeout (g : Gable) (p : Port)
  | purReply (g : Gable) (v : Word)
  | msgqRead (g : Gable)
  | credit (p : Port) (epoch : Byte) (cum : BitVec 16)
  | busyDeadline (g : Gable) (p : Port)
  | sessionIdleTimeout (g : Gable) (p : Port)
  | swap (p : Port) (tkt : BitVec 16)
  | swapReq (p : Port) (tkt : BitVec 16) (backoff : Nat)
  | swapAck (p : Port) (tkt : BitVec 16)
  | swapTimeout (p : Port)
  | backoffEnd (p : Port) (tkt : BitVec 16)
  -- recovery and tamper (15, 16)
  | recoveryErase (f : Frame)
  | recoveryReboot (f : Frame)
  | tampStrobe (high : Bool)
  -- Graver instructions (08)
  | undefinedEncoding
  | add (f : AluForm)
  | addc (f : AluForm)
  | sub (f : AluForm)
  | subc (f : AluForm)
  | neg (d sr : Fin 8)
  | cmp (f : CmpForm)
  | and (f : AluForm)
  | or (f : AluForm)
  | xor (f : AluForm)
  | not (d sr : Fin 8)
  | mov (d sr : Fin 8)
  | movi (d : Fin 8) (imm : BitVec 6)
  | shl (f : AluForm)
  | shr (f : AluForm)
  | sar (f : AluForm)
  | ror (f : AluForm)
  | shi (rd ra : Fin 16) (s : Bool) (op : BitVec 2) (count : BitVec 5)
  | shli (d : Fin 8) (imm : BitVec 6)
  | shri (d : Fin 8) (imm : BitVec 6)
  | sari (d : Fin 8) (imm : BitVec 6)
  | mul (f : AluForm)
  | mulhu (f : AluForm)
  | mulhs (f : AluForm)
  | divu (f : AluForm)
  | divs (f : AluForm)
  | remu (f : AluForm)
  | rems (f : AluForm)
  | sltu (rd ra rb : Fin 16) (s : Bool)
  | slt (rd ra rb : Fin 16) (s : Bool)
  | addi (f : ImmForm)
  | subi (d : Fin 8) (imm : BitVec 16)
  | andi (f : ImmForm)
  | ori (f : LogicImmForm)
  | xori (f : LogicImmForm)
  | cmpi (f : CmpImmForm)
  | lui (rd : Fin 16) (imm : BitVec 16)
  | movid (d : Fin 8) (imm : BitVec 16)
  | movhd (d : Fin 8) (imm : BitVec 16)
  | movia (a : Fin 8) (imm : BitVec 16)
  | movib (imm : BitVec 16)
  | ldw (rt rb : Fin 16) (m : HatchMode)
  | ldh (rt rb : Fin 16) (m : HatchMode)
  | ldhu (rt rb : Fin 16) (m : HatchMode)
  | ldb (rt rb : Fin 16) (m : HatchMode)
  | ldbu (rt rb : Fin 16) (m : HatchMode)
  | stw (rt rb : Fin 16) (m : HatchMode)
  | sth (rt rb : Fin 16) (m : HatchMode)
  | stb (rt rb : Fin 16) (m : HatchMode)
  | ld (f : StippleMem)
  | st (f : StippleMem)
  | bcc (f : BccForm)
  | bra (disp : BitVec 12)
  | jmp (disp : BitVec 26)
  | call (f : CallForm)
  | jr (f : RegForm)
  | callr (f : RegForm)
  | ret
  | nop
  | fence
  | isync
  | wfe
  | trap (imm : Byte)
  | rft
  | mff (f : RegForm)
  | mtf (f : RegForm)
  | adda (f : AddrForm)
  | suba (x y : Fin 8)
  | cmpa (f : AddrForm)
  | mova (f : MovaForm)
  | movd (x y : Fin 8)
  | movb (y : Fin 8)
  | movdb (x : Fin 8)
  | mac (m : Fin 2) (a b : Fin 8)
  | msu (m : Fin 2) (a b : Fin 8)
  | macm (m : Fin 2) (mode : StippleMode) (d ab : Fin 8)
  | aadd (m : Fin 2) (sr : Fin 8)
  | aaddm (m : Fin 2) (mode : StippleMode) (ab : Fin 8)
  | ash (m : Fin 2) (right : Bool) (count : BitVec 4)
  | aclr (m : Fin 2)
  | ald (m : Fin 2) (n : Fin 8)
  | asat (m : Fin 2) (n : Fin 8)
  | amvl (m : Fin 2) (n : Fin 8)
  | amvg (m : Fin 2) (n : Fin 8)
  | aneg (m : Fin 2)
  -- rows at the table's end
  | seedAllowanceReturn
  | vbatOkRise (vbat : Nat)
  | vbatOkFall (vbat : Nat)
  | openCircuitSample (tegVoc pvVoc : Nat)
  | moscTrimCorrection (faster : Bool)
  | vcLimitOnset (limiting : Bool)
  | linkpllLock
  | proofPageWriteDone (readBackOk : Bool)
  | residencyWrap (i : Fin 77)
  | discardedFrame (p : Port) (body : Option (List Byte))
  | characterViolation (c : CodeGroup)
  deriving DecidableEq, Repr

end Sys2Proof
end

