-- ==== Sys2Proof/Decode.lean ====
section
/-! DEFINITION. The commands that the opcode table's bits spell. No row of spec/opcode_table.json gives bits: its rows
are events, register writes, frames and core instructions by name, so no word spells a command (the core's own encodings
are of instructions in memory, and the model is given them decoded: notes/assumptions/7.md). -/

namespace Sys2Proof

/-- The command that an opcode-table word spells: none, because no row of the table has bits. -/
def decodeTableWord (_nbits _w : Nat) : Option Instr := none

end Sys2Proof
end

