-- ==== Sys2Proof/Config.lean ====
section
/-! DEFINITION. What an implementation fixes and what the spec leaves open: opaque constants, none of which has a
body, so that no proof and no evaluation sees a value of them (notes/assumptions/6.md). -/

namespace Sys2Proof.Config

/-- The byte at a bank address of a bank whose contents are undefined (spec/09 R186): its first argument is the epoch
of the bank's undefined contents, its second the bank address. A free value. -/
opaque freeByte : Nat → Nat → BitVec 8

/-- Whether the check bits of a never written 64-bit word of such a bank decode as uncorrectable (spec/09 R186).
A free value of the epoch and the word number. -/
opaque freeUncorrectable : Nat → Nat → Bool

/-- The level at the pins of a pad group that no output drives (spec/05, PWR_GPIO_IN): a free value of the time and
the group. -/
opaque freePins : Nat → Nat → BitVec 12

/-- A 32-bit value that the spec does not state: a free value of the model's counter. -/
opaque freeWord : Nat → BitVec 32

/-- Which way a value is rounded where the spec gives its units and not how it is rounded to them, or where a value
to be rounded to the nearest lies halfway: a free value of the model's counter (spec/03 GUT_MPPT, spec/04 R84 and the
qualification procedure's correction). -/
opaque freeRoundUp : Nat → Bool

/-- The drop in mV of the switch between VST or VBAT and VSYS (spec/02 Table SUP-1: 2 ohms times a load that the model
does not hold): a free value of the model's counter (notes/assumptions/42.md). -/
opaque freeDropMv : Nat → Nat

/-- Whether a parked Burin engine makes its gate busy: spec/04 Table CLK-3 says that it does not, spec/13 R243 that a
parked engine counts as not halted for gate busy status, and the spec settles it nowhere (notes/assumptions/20.md). -/
opaque parkedBusy : Bool

end Sys2Proof.Config
end

