-- ==== Sys2Proof/Machine/RegNames.lean ====
section
/-! DEFINITION. The names of the warden's registers: one constructor of `Reg` per register, register array or banked
register of the register tables of spec/02 to spec/15. A banked register carries the gable whose copy it is. -/

namespace Sys2Proof.Machine

/-- A register. Each constructor's comment gives the spec's name, its address and the rules that govern it. -/
inductive Reg where
  /-- SUP_STAT, 0x40010000 (spec/02 R24,R25,R26,R29,R34,R35). -/
  | supStat
  /-- SUP_EVT, 0x40010004 (spec/02 R25,R26,R35,R37,R38). -/
  | supEvt
  /-- SUP_CFG, 0x40010008 (spec/02 R35,R24,R313). -/
  | supCfg
  /-- SUP_VCORE, 0x4001000C (spec/02 R313,R31). -/
  | supVcore
  /-- SUP_AVS_CFG, 0x40010010 (spec/02 R29,R32,R318). -/
  | supAvsCfg
  /-- SUP_AVS_STATUS, 0x40010014 (spec/02 R32). -/
  | supAvsStatus
  /-- SUP_AVS_FAIL, 0x40010018 (spec/02 R33). -/
  | supAvsFail
  /-- SUP_BRACE_COUNT, 0x4001001C (spec/02 R37). -/
  | supBraceCount
  /-- SUP_BRACE_STAT, 0x40010020 (spec/02 R37,R38). -/
  | supBraceStat
  /-- GUT_STAT, 0x40010100 (spec/03 R49,R43,R53,R60). -/
  | gutStat
  /-- GUT_EVT, 0x40010104 (spec/03 R46,R49,R53). -/
  | gutEvt
  /-- GUT_CFG, 0x40010108 (spec/03 R43,R44,R45). -/
  | gutCfg
  /-- GUT_THR, 0x4001010C (spec/03 R61). -/
  | gutThr
  /-- GUT_SEED, 0x40010110 (spec/03 R44,R46). -/
  | gutSeed
  /-- GUT_MPPT, 0x40010114 (spec/03 R43). -/
  | gutMppt
  /-- CLK_STAT, 0x40020000 (spec/04 R64,R66,R68). -/
  | clkStat
  /-- CLK_EVT, 0x40020004 (spec/04 R67,R68,R69,R72). -/
  | clkEvt
  /-- CLK_CFG, 0x40020008 (spec/04 R64,R66,R67). -/
  | clkCfg
  /-- CLK_QUAL_XT, 0x4002000C (spec/04 R66). -/
  | clkQualXt
  /-- CLK_QUAL_FRC, 0x40020010 (spec/04 R66). -/
  | clkQualFrc
  /-- CLK_EXTREF, 0x40020014 (spec/04 R66). -/
  | clkExtref
  /-- CLK_FRC_TRIM, 0x40020018 (spec/04 R63,R69,R70). -/
  | clkFrcTrim
  /-- CLK_SSC, 0x4002001C (spec/04 R71). -/
  | clkSsc
  /-- CLK_GATE, 0x40020020 (spec/04 R72,R73). -/
  | clkGate
  /-- CLK_GATE_BUSY, 0x40020024 (spec/04 R72). -/
  | clkGateBusy
  /-- CLK_GATE_REFUSED, 0x40020028 (spec/04 R72). -/
  | clkGateRefused
  /-- CLK_TRIMS, 0x4002002C (spec/04 R63). -/
  | clkTrims
  /-- TMR_RTC_SEC, 0x400B0000 (spec/04 R78). -/
  | tmrRtcSec
  /-- TMR_RTC_FRAC, 0x400B0004 (spec/04 R78). -/
  | tmrRtcFrac (g : Gable)
  /-- TMR_RTC_SET, 0x400B0008 (spec/04 R79). -/
  | tmrRtcSet
  /-- TMR_RTC_CTL, 0x400B000C (spec/04 R79,R78). -/
  | tmrRtcCtl
  /-- TMR_RTC_ALM_SEC, 0x400B0010 (spec/04 R80). -/
  | tmrRtcAlmSec
  /-- TMR_RTC_ALM_FRAC, 0x400B0014 (spec/04 R80). -/
  | tmrRtcAlmFrac
  /-- TMR_RTC_ALM_CTL, 0x400B0018 (spec/04 R80). -/
  | tmrRtcAlmCtl
  /-- TMR_S_LOAD, 0x400B0040 + 0x10 per entry (spec/04 R81). -/
  | tmrSLoad (n : Fin 4)
  /-- TMR_S_CTL, 0x400B0044 + 0x10 per entry (spec/04 R81). -/
  | tmrSCtl (n : Fin 4)
  /-- TMR_S_COUNT, 0x400B0048 + 0x10 per entry (spec/04 R81). -/
  | tmrSCount (n : Fin 4)
  /-- TMR_F_LOAD, 0x400B0100 (spec/04 R82). -/
  | tmrFLoad (g : Gable)
  /-- TMR_F_CTL, 0x400B0104 (spec/04 R82). -/
  | tmrFCtl (g : Gable)
  /-- TMR_F_COUNT, 0x400B0108 (spec/04 R82). -/
  | tmrFCount (g : Gable)
  /-- SNS_CONV, 0x400A0000 (spec/04 R83). -/
  | snsConv (g : Gable)
  /-- SNS_RESULT, 0x400A0004 (spec/04 R83,R84). -/
  | snsResult (g : Gable)
  /-- SNS_AIN_OWN, 0x400A0008 (spec/04 R83). -/
  | snsAinOwn
  /-- SNS_PEND, 0x400A000C (spec/04 R84). -/
  | snsPend
  /-- PWR_STAT, 0x40030000 (spec/05 R91,R93,R105). -/
  | pwrStat
  /-- PWR_CFG, 0x40030004 (spec/05 R91,R93,R105). -/
  | pwrCfg
  /-- PWR_GREQ, 0x40030008 (spec/05 R91). -/
  | pwrGreq
  /-- PWR_DOM_LO, 0x4003000C (spec/05 R86,R90,R113). -/
  | pwrDomLo
  /-- PWR_DOM_HI, 0x40030010 (spec/05 R86,R90,R113). -/
  | pwrDomHi
  /-- PWR_RESET, 0x40030014 (spec/05 R108). -/
  | pwrReset
  /-- PWR_RESET_CAUSE, 0x40030018 (spec/05 R40,R57,R108). -/
  | pwrResetCause
  /-- PWR_PAD_STAT, 0x40030020 (spec/05 R96,R97,R98). -/
  | pwrPadStat
  /-- PWR_PAD_RELEASE, 0x40030024 (spec/05 R97). -/
  | pwrPadRelease
  /-- PWR_GPIO_OUT, 0x40030030 + 0x10 per entry (spec/05 R96). -/
  | pwrGpioOut (n : Fin 4)
  /-- PWR_GPIO_OE, 0x40030034 + 0x10 per entry (spec/05 R96). -/
  | pwrGpioOe (n : Fin 4)
  /-- PWR_GPIO_IN, 0x40030038 + 0x10 per entry (spec/05 R96). -/
  | pwrGpioIn (n : Fin 4)
  /-- PWR_WAKE_EN, 0x40030080 (spec/05 R102,R105). -/
  | pwrWakeEn
  /-- PWR_WAKE_PEND, 0x40030084 (spec/05 R102). -/
  | pwrWakePend
  /-- PWR_WAKE_MASKED, 0x40030088 (spec/05 R103,R104). -/
  | pwrWakeMasked
  /-- PWR_WAKE_STORM, 0x4003008C (spec/05 R103). -/
  | pwrWakeStorm
  /-- PWR_WKF, 0x40030090 + 0x4 per entry (spec/05 R100,R101). -/
  | pwrWkf (n : Fin 8)
  /-- PWR_WKCNT, 0x400300B0 + 0x4 per entry (spec/05 R101). -/
  | pwrWkcnt (n : Fin 8)
  /-- PWR_RES_CTL, 0x40030100 (spec/05 R107). -/
  | pwrResCtl
  /-- PWR_RES_STAT, 0x40030104 (spec/05 R106,R107). -/
  | pwrResStat (g : Gable)
  /-- PWR_RES_SNAP, 0x40030200 + 0x4 per entry (spec/05 R107). -/
  | pwrResSnap (g : Gable) (i : Fin 154)
  /-- RDG_STAT, 0x40000000 (spec/06 R111,R124). -/
  | rdgStat
  /-- RDG_VER, 0x40000004 (spec/06 R133). -/
  | rdgVer
  /-- RDG_CUST_ID, 0x40000008 (spec/06 R130,R132). -/
  | rdgCustId
  /-- RDG_SVC_IMPL_LO, 0x4000000C (spec/06 R133). -/
  | rdgSvcImplLo
  /-- RDG_SVC_IMPL_HI, 0x40000010 (spec/06 R133). -/
  | rdgSvcImplHi
  /-- RDG_SVC_CUST, 0x40000014 (spec/06 R130). -/
  | rdgSvcCust
  /-- RDG_CALL, 0x40000020 (spec/06 R125). -/
  | rdgCall (g : Gable)
  /-- RDG_ARG_0, 0x40000024 (spec/06 R125). -/
  | rdgArg0 (g : Gable)
  /-- RDG_ARG_1, 0x40000028 (spec/06 R125). -/
  | rdgArg1 (g : Gable)
  /-- RDG_RESULT, 0x4000002C (spec/06 R125,R126). -/
  | rdgResult (g : Gable)
  /-- RDG_EVT, 0x40000030 (spec/06 R113,R121,R129,R127). -/
  | rdgEvt
  /-- RDG_FAULT, 0x40000034 (spec/06 R121). -/
  | rdgFault
  /-- RDG_COMMIT, 0x40000040 (spec/06 R129). -/
  | rdgCommit
  /-- RDG_COMMIT_STAT, 0x40000044 (spec/06 R129). -/
  | rdgCommitStat
  /-- RDG_ECNT, 0x40000080 + 0x4 per entry (spec/06 R119). -/
  | rdgEcnt (n : Fin 16)
  /-- GAB_TRAP_BASE, 0x40050800 (spec/07 R144). -/
  | gabTrapBase (g : Gable)
  /-- GAB_EPC, 0x40050804 (spec/07 R141). -/
  | gabEpc (g : Gable)
  /-- GAB_TCAUSE, 0x40050808 (spec/07 R141,R149). -/
  | gabTcause (g : Gable)
  /-- GAB_TADDR, 0x4005080C (spec/07 R141). -/
  | gabTaddr (g : Gable)
  /-- GAB_TSTAT, 0x40050810 (spec/07 R141,R143). -/
  | gabTstat (g : Gable)
  /-- GAB_EVT_EN_LO, 0x40050820 (spec/07 R148). -/
  | gabEvtEnLo (g : Gable)
  /-- GAB_EVT_EN_HI, 0x40050824 (spec/07 R148). -/
  | gabEvtEnHi (g : Gable)
  /-- GAB_EVT_PEND_LO, 0x40050828 (spec/07 R148). -/
  | gabEvtPendLo (g : Gable)
  /-- GAB_EVT_PEND_HI, 0x4005082C (spec/07 R148). -/
  | gabEvtPendHi (g : Gable)
  /-- GAB_PERF_CTL, 0x40050840 (spec/07 R151). -/
  | gabPerfCtl (g : Gable)
  /-- GAB_PERF, 0x40050844 + 0x4 per entry (spec/07 R151,R138). -/
  | gabPerf (g : Gable) (k : Fin 8)
  /-- BNK_STAT, 0x40040000 (spec/09 R181). -/
  | bnkStat
  /-- BNK_OWN_LO, 0x40040004 (spec/09 R19). -/
  | bnkOwnLo
  /-- BNK_OWN_HI, 0x40040008 (spec/09 R19). -/
  | bnkOwnHi
  /-- BNK_CFG, 0x4004000C (spec/09 R186). -/
  | bnkCfg
  /-- BNK_SCRUB, 0x40040010 (spec/09 R171). -/
  | bnkScrub
  /-- BNK_ECC_LAST, 0x40040014 (spec/09 R168,R169,R170,R175). -/
  | bnkEccLast
  /-- BNK_PROMO_CNT, 0x40040018 (spec/09 R172). -/
  | bnkPromoCnt
  /-- BNK_BIST, 0x4004001C (spec/09 R183). -/
  | bnkBist
  /-- BNK_REPAIR, 0x40040040 + 0x4 per entry (spec/09 R181). -/
  | bnkRepair (n : Fin 16)
  /-- BNK_ECC_CNT, 0x40040080 + 0x4 per entry (spec/09 R168,R169). -/
  | bnkEccCnt (n : Fin 16)
  /-- BNK_CWIN_OWN, 0x400400C0 (spec/09 R179). -/
  | bnkCwinOwn
  /-- BNK_CWIN, 0x40040100 + 0x4 per entry (spec/09 R178,R180). -/
  | bnkCwin (n : Fin 8)
  /-- LC_PART_LO, 0x40040800 (spec/10 R191). -/
  | lcPartLo
  /-- LC_PART_HI, 0x40040804 (spec/10 R191). -/
  | lcPartHi
  /-- LC_GCTL, 0x40040810 (spec/10 R194,R197). -/
  | lcGctl (g : Gable)
  /-- LC_OP, 0x40040814 (spec/10 R201). -/
  | lcOp (g : Gable)
  /-- LC_STAT, 0x40040818 (spec/10 R194). -/
  | lcStat (g : Gable)
  /-- LC_CNT, 0x40040820 + 0x4 per entry (spec/10 R189,R196,R197). -/
  | lcCnt (g : Gable) (k : Fin 5)
  /-- GAB_ID, 0x40050000 (spec/11 R152). -/
  | gabId (g : Gable)
  /-- GAB_CTL, 0x40050004 (spec/11 R219). -/
  | gabCtl (g : Gable)
  /-- GAB_FAULT, 0x40050008 (spec/11 R5,R6,R217). -/
  | gabFault (g : Gable)
  /-- GAB_FAULT_ADDR, 0x4005000C (spec/11 R217). -/
  | gabFaultAddr (g : Gable)
  /-- GAB_RSVD_CNT, 0x40050010 (spec/11 R4). -/
  | gabRsvdCnt (g : Gable)
  /-- GAB_USE, 0x40050014 (spec/11 R207). -/
  | gabUse (g : Gable)
  /-- GAB_SLACK_US, 0x40050018 (spec/11 R207). -/
  | gabSlackUs (g : Gable)
  /-- GAB_BOOST_STAT, 0x4005001C (spec/11 R213). -/
  | gabBoostStat (g : Gable)
  /-- GAB_FRAME, 0x40050020 (spec/11 R207). -/
  | gabFrame
  /-- GAB_RSV, 0x40050024 (spec/11 R207,R206). -/
  | gabRsv
  /-- GAB_SCHED_CFG, 0x40050028 (spec/11 R208). -/
  | gabSchedCfg
  /-- GAB_HEALTH, 0x4005002C (spec/11 R217). -/
  | gabHealth
  /-- GAB_SCHED, 0x40050100 + 0x40 per entry (spec/11 R206). -/
  | gabSched (n : Fin 8)
  /-- GAB_RESTART, 0x40050104 + 0x40 per entry (spec/11 R217). -/
  | gabRestart (n : Fin 8)
  /-- GAB_SVC_LO, 0x40050108 + 0x40 per entry (spec/11 R125). -/
  | gabSvcLo (n : Fin 8)
  /-- GAB_SVC_HI, 0x4005010C + 0x40 per entry (spec/11 R125). -/
  | gabSvcHi (n : Fin 8)
  /-- GAB_SVC_CUST, 0x40050110 + 0x40 per entry (spec/11 R125). -/
  | gabSvcCust (n : Fin 8)
  /-- GAB_WIN, 0x40050120 + 0x40 per entry (spec/11 R202,R203). -/
  | gabWin (g : Gable) (i : Fin 8)
  /-- THT_OP, 0x40060000 (spec/12 R223,R224). -/
  | thtOp (g : Gable)
  /-- THT_ARG, 0x40060004 (spec/12 R223). -/
  | thtArg (g : Gable)
  /-- THT_RESULT, 0x40060008 (spec/12 R223,R224). -/
  | thtResult (g : Gable)
  /-- THT_HANDLE, 0x4006000C (spec/12 R223). -/
  | thtHandle (g : Gable)
  /-- THT_WAIT, 0x40060010 (spec/12 R226,R227). -/
  | thtWait (g : Gable)
  /-- THT_WAIT_HANDLE, 0x40060014 (spec/12 R226). -/
  | thtWaitHandle (g : Gable)
  /-- THT_SEL, 0x40060018 (spec/12 R224,R231). -/
  | thtSel (g : Gable)
  /-- THT_MISUSE, 0x4006001C (spec/12 R225). -/
  | thtMisuse (g : Gable)
  /-- THT_GCFG, 0x40060020 (spec/12 R225). -/
  | thtGcfg (g : Gable)
  /-- THT_QUOTA, 0x40060030 + 0x4 per entry (spec/12 R222). -/
  | thtQuota (g : Gable) (p : Fin 4)
  /-- THT_CFG, 0x40060040 (spec/12 R227,R234). -/
  | thtCfg
  /-- THT_POOL_0, 0x40060050 + 0x8 per entry (spec/12 R220). -/
  | thtPool0 (n : Fin 4)
  /-- THT_POOL_1, 0x40060054 + 0x8 per entry (spec/12 R220). -/
  | thtPool1 (n : Fin 4)
  /-- THT_LINKQ, 0x40060080 + 0x4 per entry (spec/12 R234). -/
  | thtLinkq (n : Fin 4)
  /-- THT_STAT_CTL, 0x40060090 (spec/12 R229). -/
  | thtStatCtl
  /-- THT_STAT_0, 0x400600A0 + 0x8 per entry (spec/12 R229). -/
  | thtStat0 (n : Fin 4)
  /-- THT_STAT_1, 0x400600A4 + 0x8 per entry (spec/12 R229,R224). -/
  | thtStat1 (n : Fin 4)
  /-- BUR_VER, 0x40070000 (spec/13 R252). -/
  | burVer
  /-- BUR_CUST_ID, 0x40070004 (spec/13 R252,R246). -/
  | burCustId
  /-- BUR_COMMIT, 0x40070010 (spec/13 R244). -/
  | burCommit
  /-- BUR_COMMIT_STAT, 0x40070014 (spec/13 R244). -/
  | burCommitStat
  /-- BUR_EVT, 0x40070018 (spec/13 R244,R245,R246). -/
  | burEvt
  /-- BUR_CTL, 0x40070100 + 0x80 per entry (spec/13 R247). -/
  | burCtl (n : Fin 4)
  /-- BUR_STAT, 0x40070104 + 0x80 per entry (spec/13 R241,R243). -/
  | burStat (n : Fin 4)
  /-- BUR_CFG, 0x40070108 + 0x80 per entry (spec/13 R239,R243). -/
  | burCfg (n : Fin 4)
  /-- BUR_PINCFG, 0x4007010C + 0x80 per entry (spec/13 R238). -/
  | burPincfg (n : Fin 4)
  /-- BUR_PINMAP_0, 0x40070110 + 0x80 per entry (spec/13 R235). -/
  | burPinmap0 (n : Fin 4)
  /-- BUR_PINMAP_1, 0x40070114 + 0x80 per entry (spec/13 R235). -/
  | burPinmap1 (n : Fin 4)
  /-- BUR_TXF, 0x40070118 + 0x80 per entry (spec/13 R249). -/
  | burTxf (n : Fin 4)
  /-- BUR_RXF, 0x4007011C + 0x80 per entry (spec/13 R249). -/
  | burRxf (n : Fin 4)
  /-- BUR_FIFO, 0x40070120 + 0x80 per entry (spec/13 R249). -/
  | burFifo (n : Fin 4)
  /-- BUR_FLAG, 0x40070124 + 0x80 per entry (spec/13 R237). -/
  | burFlag (n : Fin 4)
  /-- BUR_SHIFT, 0x40070128 + 0x80 per entry (spec/13 R239). -/
  | burShift (n : Fin 4)
  /-- BUR_COUNT, 0x4007012C + 0x80 per entry (spec/13 R239). -/
  | burCount (n : Fin 4)
  /-- BUR_CRC_CFG, 0x40070130 + 0x80 per entry (spec/13 R240). -/
  | burCrcCfg (n : Fin 4)
  /-- BUR_CRC_POLY, 0x40070134 + 0x80 per entry (spec/13 R240). -/
  | burCrcPoly (n : Fin 4)
  /-- BUR_CRC_INIT, 0x40070138 + 0x80 per entry (spec/13 R240). -/
  | burCrcInit (n : Fin 4)
  /-- BUR_CRC_CHK, 0x4007013C + 0x80 per entry (spec/13 R240). -/
  | burCrcChk (n : Fin 4)
  /-- BUR_CRC, 0x40070140 + 0x80 per entry (spec/13 R240). -/
  | burCrc (n : Fin 4)
  /-- BUR_DMA_CTL, 0x40070144 + 0x80 per entry (spec/13 R250). -/
  | burDmaCtl (n : Fin 4)
  /-- BUR_DMA_TXA, 0x40070148 + 0x80 per entry (spec/13 R250). -/
  | burDmaTxa (n : Fin 4)
  /-- BUR_DMA_TXC, 0x4007014C + 0x80 per entry (spec/13 R250). -/
  | burDmaTxc (n : Fin 4)
  /-- BUR_DMA_RXA, 0x40070150 + 0x80 per entry (spec/13 R250). -/
  | burDmaRxa (n : Fin 4)
  /-- BUR_DMA_RXC, 0x40070154 + 0x80 per entry (spec/13 R250). -/
  | burDmaRxc (n : Fin 4)
  /-- BUR_DMA_STAT, 0x40070158 + 0x80 per entry (spec/13 R250). -/
  | burDmaStat (n : Fin 4)
  /-- BUR_FAULT, 0x4007015C + 0x80 per entry (spec/13 R241). -/
  | burFault (n : Fin 4)
  /-- PUR_CFG, 0x40080000 (spec/14 R269). -/
  | purCfg
  /-- PUR_PCFG, 0x40080100 + 0x40 per entry (spec/14 R254,R260,R311). -/
  | purPcfg (n : Fin 2)
  /-- PUR_PCTL, 0x40080104 + 0x40 per entry (spec/14 R254,R263). -/
  | purPctl (n : Fin 2)
  /-- PUR_PSTAT, 0x40080108 + 0x40 per entry (spec/14 R254,R263). -/
  | purPstat (n : Fin 2)
  /-- PUR_PEVT, 0x4008010C + 0x40 per entry (spec/14 R254,R255,R256,R263). -/
  | purPevt (n : Fin 2)
  /-- PUR_PCRED, 0x40080110 + 0x40 per entry (spec/14 R260,R261). -/
  | purPcred (n : Fin 2)
  /-- PUR_PERR, 0x40080114 + 0x40 per entry (spec/14 R253,R255,R259). -/
  | purPerr (n : Fin 2)
  /-- PUR_PSEC, 0x40080118 + 0x40 per entry (spec/14 R268). -/
  | purPsec (n : Fin 2)
  /-- PUR_SESS, 0x40080800 (spec/14 R265,R271). -/
  | purSess (g : Gable)
  /-- PUR_SEQ_P_0, 0x40080804 (spec/14 R268). -/
  | purSeqP0 (g : Gable)
  /-- PUR_SEQ_P_1, 0x40080808 (spec/14 R268). -/
  | purSeqP1 (g : Gable)
  /-- PUR_LOCK, 0x4008080C (spec/14 R267). -/
  | purLock (g : Gable)
  /-- PUR_MSGQ, 0x40080810 (spec/14 R273). -/
  | purMsgq (g : Gable)
  /-- PUR_MSGQ_STAT, 0x40080814 (spec/14 R273). -/
  | purMsgqStat (g : Gable)
  /-- PUR_REPLY_H, 0x40080818 (spec/14 R273). -/
  | purReplyH (g : Gable)
  /-- PUR_REPLY, 0x4008081C (spec/14 R273). -/
  | purReply (g : Gable)
  /-- SI_STEP, 0x40090000 (spec/15 R282). -/
  | siStep
  /-- PLT_ABI, 0x40090004 (spec/15 R282). -/
  | pltAbi
  /-- PLT_LADLE, 0x40090008 (spec/15 R282). -/
  | pltLadle
  /-- PLT_BOOT, 0x4009000C (spec/15 R275,R276,R281,R286). -/
  | pltBoot
  /-- PLT_SEQ, 0x40090010 (spec/15 R276). -/
  | pltSeq
  /-- PLT_ARB, 0x40090014 (spec/15 R280). -/
  | pltArb
  /-- PLT_BOOT_TIME, 0x40090018 (spec/15 R285). -/
  | pltBootTime
  /-- PLT_UPD_STAT, 0x40090020 (spec/15 R289). -/
  | pltUpdStat
  /-- PLT_CKPT, 0x40090030 (spec/15 R292). -/
  | pltCkpt (g : Gable)
  /-- PLT_CKPT_LEN, 0x40090034 (spec/15 R292). -/
  | pltCkptLen (g : Gable)
  /-- PLT_CKPT_REG, 0x40090038 (spec/15 R292). -/
  | pltCkptReg (g : Gable)
  /-- PLT_RCV_CTL, 0x40090040 (spec/15 R287). -/
  | pltRcvCtl
  /-- PRF_STAT, 0x40090800 (spec/15 R291). -/
  | prfStat
  deriving DecidableEq, Repr

/-- Field types of Table SCO-4 (spec/00). -/
inductive FieldType where
  | rw
  | ro
  | w1c
  | w1s
  | wo
  | rc
  deriving DecidableEq, Repr

/-- One row of a register's field table: bits `hi` to `lo`, its type, whether its Reset is "Plate", its reset value (the
default that R284 gives for a Plate field that SHADOW does not list), and the encodings `vlo` to `vhi` that are not
reserved. -/
structure Field where
  name  : String
  hi    : Nat
  lo    : Nat
  ty    : FieldType
  plate : Bool
  dflt  : Nat
  vlo   : Nat
  vhi   : Nat
  deriving DecidableEq, Repr

/-- Who an access line grants a register to (spec/00, "Register blocks"). -/
inductive Who where
  | nobody
  | all
  | g0
  | alarmOwner
  | timerOwner (n : Fin 4)
  | wakePinOwner (n : Fin 8)
  | groupOwner (n : PadGroup)
  | anyGroupOwner
  | engineOwner (n : EngineNo)
  | engineOwnerOrG0 (n : EngineNo)
  | bankOwnerOrG0 (n : BankNo)
  | cwinOwnerOrG0 (n : Fin 8)
  | gable (g : Gable)
  | snapshot (i : Fin 154)
  | recovery
  | perBit
  deriving DecidableEq, Repr

/-- The domain a register lies in, as far as an access depends on it (spec/05 R86). -/
inductive RegDomain where
  | always
  | core
  | cache
  | pool
  | bur
  | link
  | sens
  | oscf
  deriving DecidableEq, Repr

end Sys2Proof.Machine
end

