-- ==== Sys2Proof/Machine/RegTable.lean ====
section
/-! DEFINITION. The register tables: address, fields, access line and domain of every register, transcribed from the
register tables of spec/02 to spec/15 (numbers as the spec gives them). -/

namespace Sys2Proof.Machine

/-- A field with no Plate value. -/
def fld (name : String) (hi lo : Nat) (ty : FieldType) (dflt : Nat := 0) (vlo : Nat := 0)
    (vhi : Nat := 2 ^ 32 - 1) : Field := ⟨name, hi, lo, ty, false, dflt, vlo, vhi⟩

/-- A field whose Reset is "Plate". -/
def fldP (name : String) (hi lo : Nat) (ty : FieldType) (dflt : Nat := 0) (vlo : Nat := 0)
    (vhi : Nat := 2 ^ 32 - 1) : Field := ⟨name, hi, lo, ty, true, dflt, vlo, vhi⟩

/-- Four slots of BUR_PINMAP (spec/13 Table BUR-7). -/
def pinmapFields : List Field :=
    (List.range 4).flatMap (fun k =>
      [fldP "GROUP" (8 * k + 1) (8 * k) .ro, fldP "PIN" (8 * k + 5) (8 * k + 2) .ro 0 0 11,
       fldP "VALID" (8 * k + 7) (8 * k + 7) .ro])

/-- The address of a register; a banked register has one address for all its copies. -/
def Reg.addr : Reg → Nat
  | .supStat => 0x40010000
  | .supEvt => 0x40010004
  | .supCfg => 0x40010008
  | .supVcore => 0x4001000C
  | .supAvsCfg => 0x40010010
  | .supAvsStatus => 0x40010014
  | .supAvsFail => 0x40010018
  | .supBraceCount => 0x4001001C
  | .supBraceStat => 0x40010020
  | .gutStat => 0x40010100
  | .gutEvt => 0x40010104
  | .gutCfg => 0x40010108
  | .gutThr => 0x4001010C
  | .gutSeed => 0x40010110
  | .gutMppt => 0x40010114
  | .clkStat => 0x40020000
  | .clkEvt => 0x40020004
  | .clkCfg => 0x40020008
  | .clkQualXt => 0x4002000C
  | .clkQualFrc => 0x40020010
  | .clkExtref => 0x40020014
  | .clkFrcTrim => 0x40020018
  | .clkSsc => 0x4002001C
  | .clkGate => 0x40020020
  | .clkGateBusy => 0x40020024
  | .clkGateRefused => 0x40020028
  | .clkTrims => 0x4002002C
  | .tmrRtcSec => 0x400B0000
  | .tmrRtcFrac _ => 0x400B0004
  | .tmrRtcSet => 0x400B0008
  | .tmrRtcCtl => 0x400B000C
  | .tmrRtcAlmSec => 0x400B0010
  | .tmrRtcAlmFrac => 0x400B0014
  | .tmrRtcAlmCtl => 0x400B0018
  | .tmrSLoad n => 0x400B0040 + 0x10 * n.val
  | .tmrSCtl n => 0x400B0044 + 0x10 * n.val
  | .tmrSCount n => 0x400B0048 + 0x10 * n.val
  | .tmrFLoad _ => 0x400B0100
  | .tmrFCtl _ => 0x400B0104
  | .tmrFCount _ => 0x400B0108
  | .snsConv _ => 0x400A0000
  | .snsResult _ => 0x400A0004
  | .snsAinOwn => 0x400A0008
  | .snsPend => 0x400A000C
  | .pwrStat => 0x40030000
  | .pwrCfg => 0x40030004
  | .pwrGreq => 0x40030008
  | .pwrDomLo => 0x4003000C
  | .pwrDomHi => 0x40030010
  | .pwrReset => 0x40030014
  | .pwrResetCause => 0x40030018
  | .pwrPadStat => 0x40030020
  | .pwrPadRelease => 0x40030024
  | .pwrGpioOut n => 0x40030030 + 0x10 * n.val
  | .pwrGpioOe n => 0x40030034 + 0x10 * n.val
  | .pwrGpioIn n => 0x40030038 + 0x10 * n.val
  | .pwrWakeEn => 0x40030080
  | .pwrWakePend => 0x40030084
  | .pwrWakeMasked => 0x40030088
  | .pwrWakeStorm => 0x4003008C
  | .pwrWkf n => 0x40030090 + 0x4 * n.val
  | .pwrWkcnt n => 0x400300B0 + 0x4 * n.val
  | .pwrResCtl => 0x40030100
  | .pwrResStat _ => 0x40030104
  | .pwrResSnap _ i => 0x40030200 + 0x4 * i.val
  | .rdgStat => 0x40000000
  | .rdgVer => 0x40000004
  | .rdgCustId => 0x40000008
  | .rdgSvcImplLo => 0x4000000C
  | .rdgSvcImplHi => 0x40000010
  | .rdgSvcCust => 0x40000014
  | .rdgCall _ => 0x40000020
  | .rdgArg0 _ => 0x40000024
  | .rdgArg1 _ => 0x40000028
  | .rdgResult _ => 0x4000002C
  | .rdgEvt => 0x40000030
  | .rdgFault => 0x40000034
  | .rdgCommit => 0x40000040
  | .rdgCommitStat => 0x40000044
  | .rdgEcnt n => 0x40000080 + 0x4 * n.val
  | .gabTrapBase _ => 0x40050800
  | .gabEpc _ => 0x40050804
  | .gabTcause _ => 0x40050808
  | .gabTaddr _ => 0x4005080C
  | .gabTstat _ => 0x40050810
  | .gabEvtEnLo _ => 0x40050820
  | .gabEvtEnHi _ => 0x40050824
  | .gabEvtPendLo _ => 0x40050828
  | .gabEvtPendHi _ => 0x4005082C
  | .gabPerfCtl _ => 0x40050840
  | .gabPerf _ i => 0x40050844 + 0x4 * i.val
  | .bnkStat => 0x40040000
  | .bnkOwnLo => 0x40040004
  | .bnkOwnHi => 0x40040008
  | .bnkCfg => 0x4004000C
  | .bnkScrub => 0x40040010
  | .bnkEccLast => 0x40040014
  | .bnkPromoCnt => 0x40040018
  | .bnkBist => 0x4004001C
  | .bnkRepair n => 0x40040040 + 0x4 * n.val
  | .bnkEccCnt n => 0x40040080 + 0x4 * n.val
  | .bnkCwinOwn => 0x400400C0
  | .bnkCwin n => 0x40040100 + 0x4 * n.val
  | .lcPartLo => 0x40040800
  | .lcPartHi => 0x40040804
  | .lcGctl _ => 0x40040810
  | .lcOp _ => 0x40040814
  | .lcStat _ => 0x40040818
  | .lcCnt _ i => 0x40040820 + 0x4 * i.val
  | .gabId _ => 0x40050000
  | .gabCtl _ => 0x40050004
  | .gabFault _ => 0x40050008
  | .gabFaultAddr _ => 0x4005000C
  | .gabRsvdCnt _ => 0x40050010
  | .gabUse _ => 0x40050014
  | .gabSlackUs _ => 0x40050018
  | .gabBoostStat _ => 0x4005001C
  | .gabFrame => 0x40050020
  | .gabRsv => 0x40050024
  | .gabSchedCfg => 0x40050028
  | .gabHealth => 0x4005002C
  | .gabSched n => 0x40050100 + 0x40 * n.val
  | .gabRestart n => 0x40050104 + 0x40 * n.val
  | .gabSvcLo n => 0x40050108 + 0x40 * n.val
  | .gabSvcHi n => 0x4005010C + 0x40 * n.val
  | .gabSvcCust n => 0x40050110 + 0x40 * n.val
  | .gabWin g i => 0x40050120 + 0x40 * g.val + 4 * i.val
  | .thtOp _ => 0x40060000
  | .thtArg _ => 0x40060004
  | .thtResult _ => 0x40060008
  | .thtHandle _ => 0x4006000C
  | .thtWait _ => 0x40060010
  | .thtWaitHandle _ => 0x40060014
  | .thtSel _ => 0x40060018
  | .thtMisuse _ => 0x4006001C
  | .thtGcfg _ => 0x40060020
  | .thtQuota _ i => 0x40060030 + 0x4 * i.val
  | .thtCfg => 0x40060040
  | .thtPool0 n => 0x40060050 + 0x8 * n.val
  | .thtPool1 n => 0x40060054 + 0x8 * n.val
  | .thtLinkq n => 0x40060080 + 0x4 * n.val
  | .thtStatCtl => 0x40060090
  | .thtStat0 n => 0x400600A0 + 0x8 * n.val
  | .thtStat1 n => 0x400600A4 + 0x8 * n.val
  | .burVer => 0x40070000
  | .burCustId => 0x40070004
  | .burCommit => 0x40070010
  | .burCommitStat => 0x40070014
  | .burEvt => 0x40070018
  | .burCtl n => 0x40070100 + 0x80 * n.val
  | .burStat n => 0x40070104 + 0x80 * n.val
  | .burCfg n => 0x40070108 + 0x80 * n.val
  | .burPincfg n => 0x4007010C + 0x80 * n.val
  | .burPinmap0 n => 0x40070110 + 0x80 * n.val
  | .burPinmap1 n => 0x40070114 + 0x80 * n.val
  | .burTxf n => 0x40070118 + 0x80 * n.val
  | .burRxf n => 0x4007011C + 0x80 * n.val
  | .burFifo n => 0x40070120 + 0x80 * n.val
  | .burFlag n => 0x40070124 + 0x80 * n.val
  | .burShift n => 0x40070128 + 0x80 * n.val
  | .burCount n => 0x4007012C + 0x80 * n.val
  | .burCrcCfg n => 0x40070130 + 0x80 * n.val
  | .burCrcPoly n => 0x40070134 + 0x80 * n.val
  | .burCrcInit n => 0x40070138 + 0x80 * n.val
  | .burCrcChk n => 0x4007013C + 0x80 * n.val
  | .burCrc n => 0x40070140 + 0x80 * n.val
  | .burDmaCtl n => 0x40070144 + 0x80 * n.val
  | .burDmaTxa n => 0x40070148 + 0x80 * n.val
  | .burDmaTxc n => 0x4007014C + 0x80 * n.val
  | .burDmaRxa n => 0x40070150 + 0x80 * n.val
  | .burDmaRxc n => 0x40070154 + 0x80 * n.val
  | .burDmaStat n => 0x40070158 + 0x80 * n.val
  | .burFault n => 0x4007015C + 0x80 * n.val
  | .purCfg => 0x40080000
  | .purPcfg n => 0x40080100 + 0x40 * n.val
  | .purPctl n => 0x40080104 + 0x40 * n.val
  | .purPstat n => 0x40080108 + 0x40 * n.val
  | .purPevt n => 0x4008010C + 0x40 * n.val
  | .purPcred n => 0x40080110 + 0x40 * n.val
  | .purPerr n => 0x40080114 + 0x40 * n.val
  | .purPsec n => 0x40080118 + 0x40 * n.val
  | .purSess _ => 0x40080800
  | .purSeqP0 _ => 0x40080804
  | .purSeqP1 _ => 0x40080808
  | .purLock _ => 0x4008080C
  | .purMsgq _ => 0x40080810
  | .purMsgqStat _ => 0x40080814
  | .purReplyH _ => 0x40080818
  | .purReply _ => 0x4008081C
  | .siStep => 0x40090000
  | .pltAbi => 0x40090004
  | .pltLadle => 0x40090008
  | .pltBoot => 0x4009000C
  | .pltSeq => 0x40090010
  | .pltArb => 0x40090014
  | .pltBootTime => 0x40090018
  | .pltUpdStat => 0x40090020
  | .pltCkpt _ => 0x40090030
  | .pltCkptLen _ => 0x40090034
  | .pltCkptReg _ => 0x40090038
  | .pltRcvCtl => 0x40090040
  | .prfStat => 0x40090800

/-- The field table of a register. Bits in no field are reserved (R4). -/
def Reg.fields : Reg → List Field
  | .supStat =>
    [fld "SRC" 1 0 .ro,
     fld "VIN_OK" 2 2 .ro,
     fld "VIN_OV" 3 3 .ro,
     fld "WARN" 4 4 .ro,
     fld "BRACED" 5 5 .ro,
     fld "STORM" 6 6 .ro,
     fld "VCORE_SRC" 7 7 .ro,
     fld "VC_LIMIT" 8 8 .ro,
     fld "AVS_TOKEN" 9 9 .ro]
  | .supEvt =>
    [fld "SRC_CHG" 0 0 .w1c,
     fld "VIN_LOST" 1 1 .w1c,
     fld "VIN_OV_EVT" 2 2 .w1c,
     fld "BRACE" 3 3 .w1c,
     fld "UNBRACE" 4 4 .w1c,
     fld "STORM_IN" 5 5 .w1c,
     fld "STORM_OUT" 6 6 .w1c,
     fld "VC_LIMIT_EVT" 7 7 .w1c]
  | .supCfg => [fldP "TWARN" 4 0 .rw 8 0 22, fldP "VST_CHG" 6 5 .rw, fldP "VCORE_DEF" 7 7 .ro]
  | .supVcore => [fldP "CODE" 7 0 .ro 40 0 110, fld "INT_CODE" 15 8 .ro 40, fld "DONE" 16 16 .ro 1]
  | .supAvsCfg => [fldP "RAIL" 3 0 .rw 0 0 14, fldP "CLK" 5 4 .rw 0 0 2, fldP "POLL" 15 8 .rw, fldP "EN" 16 16 .rw]
  | .supAvsStatus => [fld "LAST_DATA" 15 0 .ro, fld "LAST_STATUS" 20 16 .ro, fld "LAST_ACK" 22 21 .ro]
  | .supAvsFail => [fld "FAIL" 0 0 .w1c, fld "CAUSE" 3 1 .ro, fld "COUNT" 15 8 .ro]
  | .supBraceCount => [fld "COUNT" 31 0 .ro]
  | .supBraceStat => [fld "LAST_US" 15 0 .ro, fld "STORMS" 23 16 .ro]
  | .gutStat =>
    [fld "MEAS_OK" 0 0 .ro,
     fld "XMIT_OK" 1 1 .ro,
     fld "BOOST_RUN" 2 2 .ro,
     fld "TEG_ACT" 3 3 .ro,
     fld "PV_ACT" 4 4 .ro,
     fld "DUSK" 5 5 .ro,
     fld "SEED_RUN" 6 6 .ro,
     fld "SEEDS_LEFT" 8 7 .ro,
     fld "VBAT_OK" 9 9 .ro,
     fld "DARK_RESUME" 10 10 .ro]
  | .gutEvt =>
    [fld "MEAS_RISE" 0 0 .w1c,
     fld "MEAS_FALL" 1 1 .w1c,
     fld "XMIT_RISE" 2 2 .w1c,
     fld "XMIT_FALL" 3 3 .w1c,
     fld "DUSK_EVT" 4 4 .w1c,
     fld "SEED_DONE" 5 5 .w1c,
     fld "SEED_FAIL" 6 6 .w1c]
  | .gutCfg =>
    [fldP "POLICY" 0 0 .ro,
     fldP "TEG_EN" 1 1 .rw 1,
     fldP "PV_EN" 2 2 .rw 1,
     fldP "PV_FRAC" 4 3 .rw 2,
     fldP "AUTO_SEED" 5 5 .rw]
  | .gutThr =>
    [fldP "T_DIE" 5 0 .rw 6 4 7,
     fldP "T_SHELTER" 11 6 .rw 16 12 28,
     fldP "T_DUSK" 17 12 .rw 24 16 40,
     fldP "T_MEAS" 23 18 .rw 28 16 52,
     fldP "T_XMIT" 29 24 .rw 40 16 56]
  | .gutSeed => [fldP "TARGET" 4 0 .ro 4 0 30, fldP "PERIOD" 15 8 .ro 30 1 255, fld "LEFT" 17 16 .ro]
  | .gutMppt => [fld "PV_VOC" 8 0 .ro, fld "PV_VOP" 17 9 .ro, fld "TEG_VOC" 27 18 .ro]
  | .clkStat =>
    [fld "XT32_Q" 0 0 .ro,
     fld "LRC_TRIM" 1 1 .ro,
     fld "FRC_ON" 2 2 .ro,
     fld "FRC_Q" 3 3 .ro,
     fld "EXTREF_Q" 4 4 .ro,
     fld "LINKPLL_LOCK" 5 5 .ro,
     fld "RTC_SRC" 6 6 .ro,
     fld "QREF" 7 7 .ro,
     fld "TRIM_ACT" 9 8 .ro]
  | .clkEvt =>
    [fld "XT32_Q_EVT" 0 0 .w1c,
     fld "XT32_FAIL" 1 1 .w1c,
     fld "XT32_LOST" 2 2 .w1c,
     fld "FRC_Q_EVT" 3 3 .w1c,
     fld "FRC_FAIL" 4 4 .w1c,
     fld "EXTREF_Q_EVT" 5 5 .w1c,
     fld "EXTREF_FAIL" 6 6 .w1c,
     fld "EXTREF_LOST" 7 7 .w1c,
     fld "TRIM_BAD" 8 8 .w1c,
     fld "GATE_REF" 9 9 .w1c]
  | .clkCfg => [fldP "XT32_EN" 0 0 .rw, fldP "EXTREF_EN" 1 1 .rw, fldP "QREF_LRC" 2 2 .rw, fldP "RTC_LRC" 3 3 .rw]
  | .clkQualXt => [fldP "WIN" 9 0 .rw 256 16 1023, fldP "TOL" 13 10 .rw 8 1 15, fldP "TIMEOUT" 23 16 .rw 100 1 255]
  | .clkQualFrc => [fldP "WIN" 11 0 .rw 1024 256 4095, fldP "TOL" 15 12 .rw 4 1 15, fldP "TRIES" 17 16 .rw 3 1 3]
  | .clkExtref => [fldP "FREQ" 15 0 .rw 0 1000 50000, fldP "TOL" 19 16 .rw 4 1 15]
  | .clkFrcTrim => [fldP "SRC" 1 0 .rw 0 0 2, fldP "PORT" 2 2 .rw, fld "FREEZE" 3 3 .rw, fld "CODE" 12 4 .ro 256]
  | .clkSsc => [fldP "DEPTH" 4 0 .rw 0 0 16, fldP "RATE" 9 5 .rw 3 1 20]
  | .clkGate =>
    [fldP "EN_0_2" 2 0 .ro,
     fldP "EN_3_6" 6 3 .rw,
     fldP "EN_7_10" 10 7 .ro,
     fldP "EN_11" 11 11 .rw,
     fldP "EN_12" 12 12 .ro,
     fldP "EN_13_15" 15 13 .rw]
  | .clkGateBusy => [fld "BUSY" 15 0 .ro]
  | .clkGateRefused => [fld "REFUSED" 0 0 .w1c, fld "CHILD" 7 4 .ro, fld "PARENT" 11 8 .ro, fld "WHO" 15 12 .ro]
  | .clkTrims => [fld "LRC_CODE" 7 0 .ro 128, fld "MOSC_CODE" 15 8 .ro 128]
  | .tmrRtcSec => [fld "SEC" 31 0 .ro]
  | .tmrRtcFrac _ => [fld "FRAC" 15 0 .ro]
  | .tmrRtcSet => [fld "SEC" 31 0 .rw]
  | .tmrRtcCtl =>
    [fld "SET" 0 0 .wo,
     fld "VALID" 1 1 .ro,
     fld "RESTARTED" 2 2 .ro 1,
     fld "SRC" 3 3 .ro,
     fld "KEY" 15 8 .wo]
  | .tmrRtcAlmSec => [fld "SEC" 31 0 .rw]
  | .tmrRtcAlmFrac => [fld "FRAC" 15 0 .rw]
  | .tmrRtcAlmCtl => [fld "ARM" 0 0 .rw, fld "FIRED" 1 1 .w1c]
  | .tmrSLoad _ => [fld "LOAD" 31 0 .rw]
  | .tmrSCtl _ => [fld "START" 0 0 .wo, fld "STOP" 1 1 .wo, fld "MODE" 2 2 .rw, fld "RUN" 3 3 .ro]
  | .tmrSCount _ => [fld "COUNT" 31 0 .ro]
  | .tmrFLoad _ => [fld "LOAD" 31 0 .rw]
  | .tmrFCtl _ => [fld "START" 0 0 .wo, fld "STOP" 1 1 .wo, fld "MODE" 2 2 .rw, fld "RUN" 3 3 .ro]
  | .tmrFCount _ => [fld "COUNT" 31 0 .ro]
  | .snsConv _ => [fld "CH" 3 0 .wo 0 0 12, fld "GO" 4 4 .wo, fld "AVG" 7 5 .wo 0 0 4]
  | .snsResult _ => [fld "VALUE" 11 0 .ro, fld "CH" 15 12 .ro, fld "PEND" 16 16 .ro, fld "DONE" 17 17 .w1c]
  | .snsAinOwn => [fldP "OWN" 31 0 .ro 4294967295]
  | .snsPend => [fld "PEND" 7 0 .ro]
  | .pwrStat => [fldP "SCHEME" 0 0 .ro, fld "GSTATE" 3 1 .ro, fld "HOLDOFF" 4 4 .ro, fld "OFF_PEND" 5 5 .ro]
  | .pwrCfg => [fldP "SCHEME" 0 0 .ro, fldP "OFF_GRACE" 15 8 .rw 20, fldP "LINK_HOLD" 19 16 .rw 2 1 15]
  | .pwrGreq => [fld "REQ" 23 0 .ro]
  | .pwrDomLo => [fld "DOM" 31 0 .ro]
  | .pwrDomHi => [fld "DOM" 15 0 .ro]
  | .pwrReset => [fld "WARM" 0 0 .wo, fld "KEY" 15 8 .wo]
  | .pwrResetCause => [fld "CAUSE" 2 0 .ro]
  | .pwrPadStat =>
    [fld "HELD_A" 0 0 .ro 1,
     fld "BY_DOM_A" 1 1 .ro,
     fld "BY_BRACE_A" 2 2 .ro,
     fld "VIO_OK_A" 3 3 .ro 1,
     fld "HELD_B" 4 4 .ro 1,
     fld "BY_DOM_B" 5 5 .ro,
     fld "BY_BRACE_B" 6 6 .ro,
     fld "VIO_OK_B" 7 7 .ro 1,
     fld "HELD_C" 8 8 .ro 1,
     fld "BY_DOM_C" 9 9 .ro,
     fld "BY_BRACE_C" 10 10 .ro,
     fld "VIO_OK_C" 11 11 .ro 1,
     fld "HELD_D" 12 12 .ro 1,
     fld "BY_DOM_D" 13 13 .ro,
     fld "BY_BRACE_D" 14 14 .ro,
     fld "VIO_OK_D" 15 15 .ro 1,
     fld "REL_REF" 19 16 .w1c]
  | .pwrPadRelease => [fld "REL" 3 0 .wo]
  | .pwrGpioOut _ => [fldP "PIN" 11 0 .rw]
  | .pwrGpioOe _ => [fldP "PIN" 11 0 .rw]
  | .pwrGpioIn _ => [fld "PIN" 11 0 .ro]
  | .pwrWakeEn => [fldP "EN" 15 0 .rw, fld "PUR_EN" 17 16 .ro]
  | .pwrWakePend => [fld "PEND" 17 0 .w1c]
  | .pwrWakeMasked => [fld "MASKED" 15 0 .w1c]
  | .pwrWakeStorm => [fldP "N" 7 0 .rw 16 1 255, fldP "W" 15 8 .rw 10 1 255]
  | .pwrWkf _ => [fldP "FILT" 7 0 .rw 2 1 255, fldP "MODE" 9 8 .rw, fldP "CNT_EDGE" 11 10 .rw 0 0 2]
  | .pwrWkcnt _ => [fld "COUNT" 15 0 .rc, fld "OVF" 16 16 .rc]
  | .pwrResCtl => [fld "TAKE" 0 0 .wo, fld "CLR" 1 1 .wo]
  | .pwrResStat _ => [fld "VALID" 0 0 .ro, fld "WRAP" 1 1 .ro]
  | .pwrResSnap _ _ => [fld "CNT" 31 0 .ro]
  | .rdgStat =>
    [fld "ADDR" 8 0 .ro,
     fld "STATE" 11 9 .ro,
     fld "DEPTH" 14 12 .ro,
     fld "SVC" 23 16 .ro,
     fld "CALLER" 26 24 .ro]
  | .rdgVer => [fldP "MAJOR" 31 24 .ro, fldP "MINOR" 23 16 .ro, fldP "PATCH" 15 8 .ro]
  | .rdgCustId => [fldP "ID" 31 0 .ro]
  | .rdgSvcImplLo => [fld "ZERO" 0 0 .ro, fldP "IMPL" 31 1 .ro]
  | .rdgSvcImplHi => [fldP "IMPL" 31 0 .ro]
  | .rdgSvcCust => [fldP "CUST" 31 0 .ro]
  | .rdgCall _ => [fld "SVC" 7 0 .wo]
  | .rdgArg0 _ => [fld "ARG" 31 0 .rw]
  | .rdgArg1 _ => [fld "ARG" 31 0 .rw]
  | .rdgResult _ => [fld "CODE" 7 0 .ro, fld "SLOT" 9 8 .ro, fld "DONE" 16 16 .w1c]
  | .rdgEvt =>
    [fld "STACK" 0 0 .w1c,
     fld "DOM_REF" 1 1 .w1c,
     fld "COMMIT_DONE" 2 2 .w1c,
     fld "COMMIT_REJ" 3 3 .w1c,
     fld "COMMIT_TO" 4 4 .w1c,
     fld "TEST_DONE" 5 5 .w1c]
  | .rdgFault => [fld "ADDR" 8 0 .ro, fld "CAUSE" 10 9 .ro]
  | .rdgCommit => [fld "GO" 0 0 .wo, fld "KEY" 15 8 .wo, fld "STATE" 18 16 .ro, fldP "TO" 31 24 .rw 10 1 255]
  | .rdgCommitStat => [fld "FAIL_ADDR" 8 0 .ro, fld "FAIL_WHY" 12 9 .ro]
  | .rdgEcnt _ => [fld "COUNT" 31 0 .ro]
  | .gabTrapBase _ => [fldP "BASE" 31 8 .rw]
  | .gabEpc _ => [fld "EPC" 31 0 .rw]
  | .gabTcause _ => [fld "CAUSE" 3 0 .ro, fld "CODE" 15 8 .ro, fld "LINE" 21 16 .ro]
  | .gabTaddr _ => [fld "ADDR" 31 0 .ro]
  | .gabTstat _ => [fld "TRAP_ACT" 0 0 .w1c, fld "EVT_MASK" 1 1 .rw 1, fld "PREV_MASK" 2 2 .ro]
  | .gabEvtEnLo _ => [fldP "EN" 31 0 .rw]
  | .gabEvtEnHi _ => [fldP "EN" 31 0 .rw]
  | .gabEvtPendLo _ => [fld "PEND" 31 0 .w1c]
  | .gabEvtPendHi _ => [fld "PEND" 31 0 .w1c]
  | .gabPerfCtl _ => [fld "EN" 0 0 .rw 1, fld "CLR" 1 1 .wo, fld "OVF" 15 8 .w1c]
  | .gabPerf _ _ => [fld "COUNT" 31 0 .ro]
  | .bnkStat => [fld "FAILED" 15 0 .ro, fld "FUSE_ERR" 31 16 .ro]
  | .bnkOwnLo => [fldP "OWN" 31 0 .ro 4294967295]
  | .bnkOwnHi => [fldP "OWN" 31 0 .ro 4294967295]
  | .bnkCfg => [fldP "ZERO" 15 0 .rw 65535]
  | .bnkScrub => [fldP "EN" 0 0 .rw, fldP "PERIOD" 15 8 .rw 10 1 255]
  | .bnkEccLast =>
    [fld "WORD" 17 0 .ro,
     fld "REQ" 20 18 .ro,
     fld "UE" 21 21 .ro,
     fld "POISON" 22 22 .w1c,
     fld "ALIAS_DROP" 23 23 .w1c,
     fld "VALID" 30 30 .w1c,
     fld "CLR_CNT" 31 31 .wo]
  | .bnkPromoCnt => [fld "COUNT" 31 0 .ro]
  | .bnkBist => [fld "BANK" 3 0 .rw, fld "GO" 4 4 .wo, fld "RUN" 5 5 .ro, fld "PASS" 6 6 .ro, fld "DONE" 7 7 .w1c]
  | .bnkRepair _ =>
    [fld "COL_0" 6 0 .ro,
     fld "V_0" 7 7 .ro,
     fld "COL_1" 14 8 .ro,
     fld "V_1" 15 15 .ro,
     fld "COL_2" 22 16 .ro,
     fld "V_2" 23 23 .ro,
     fld "COL_3" 30 24 .ro,
     fld "V_3" 31 31 .ro]
  | .bnkEccCnt _ => [fld "CE" 15 0 .ro, fld "UE" 31 16 .ro]
  | .bnkCwinOwn => [fldP "OWN" 31 0 .ro]
  | .bnkCwin _ => [fldP "BASE" 17 0 .rw, fldP "LEN" 31 18 .rw 0 0 8192]
  | .lcPartLo =>
    [fldP "CNT_0" 5 0 .ro 0 0 48,
     fldP "CNT_1" 11 6 .ro 0 0 48,
     fldP "CNT_2" 17 12 .ro 0 0 48,
     fldP "CNT_3" 23 18 .ro 0 0 48]
  | .lcPartHi =>
    [fldP "CNT_4" 5 0 .ro 0 0 48,
     fldP "CNT_5" 11 6 .ro 0 0 48,
     fldP "CNT_6" 17 12 .ro 0 0 48,
     fldP "CNT_7" 23 18 .ro 0 0 48]
  | .lcGctl _ => [fldP "PF_EN" 0 0 .rw 1, fldP "DIST" 2 1 .rw 1, fldP "STREAM_EN" 3 3 .rw 1, fld "CLR" 4 4 .wo]
  | .lcOp _ => [fld "OP" 1 0 .wo 0 1 3, fld "LINE" 31 5 .wo]
  | .lcStat _ => [fld "VALID" 5 0 .ro, fld "DIRTY" 11 6 .ro, fld "STREAMING" 12 12 .ro]
  | .lcCnt _ _ => [fld "COUNT" 31 0 .ro]
  | .gabId _ => [fld "GABLE" 2 0 .ro, fldP "ISA" 3 3 .ro]
  | .gabCtl _ => [fld "RESTART" 0 0 .wo, fld "KEY" 15 8 .wo]
  | .gabFault _ =>
    [fld "CODE" 7 0 .ro,
     fld "COUNT" 15 8 .ro,
     fld "RESTARTED" 16 16 .w1c,
     fld "RESTARTS" 30 24 .ro,
     fld "CLR" 31 31 .wo]
  | .gabFaultAddr _ => [fld "ADDR" 31 0 .ro]
  | .gabRsvdCnt _ => [fld "COUNT" 31 0 .rc]
  | .gabUse _ => [fld "USED" 9 0 .ro, fld "REMAIN" 19 10 .ro, fld "RELEASED" 29 20 .ro, fld "BOOSTED" 30 30 .ro]
  | .gabSlackUs _ => [fld "COUNT" 31 0 .ro]
  | .gabBoostStat _ => [fld "BOOSTS" 15 0 .ro, fld "EXPIRED" 31 16 .ro]
  | .gabFrame => [fld "TICK" 9 0 .ro, fld "FRAME" 31 10 .ro]
  | .gabRsv => [fldP "LINK_RSV" 9 0 .ro 0 0 1000, fld "LEFT" 19 10 .ro]
  | .gabSchedCfg => [fldP "QUANTUM" 7 0 .ro 0 1 255]
  | .gabHealth => [fld "STATE" 15 0 .ro]
  | .gabSched _ =>
    [fldP "BUDGET" 9 0 .ro 0 0 1000,
     fldP "URG" 11 10 .ro,
     fldP "SLACK_OK" 12 12 .ro,
     fldP "BOOST_MAX" 23 16 .ro 0 1 255]
  | .gabRestart _ => [fldP "POLICY" 1 0 .ro 0 0 1, fldP "DELAY" 15 8 .ro, fldP "LIMIT" 23 16 .ro 0 1 255]
  | .gabSvcLo _ => [fldP "SVC" 31 0 .ro]
  | .gabSvcHi _ => [fldP "SVC" 31 0 .ro]
  | .gabSvcCust _ => [fldP "SVC" 31 0 .ro]
  | .gabWin _ i =>
    if i.val % 2 = 0 then
      [fldP "R" 0 0 .ro, fldP "W" 1 1 .ro, fldP "X" 2 2 .ro, fldP "VALID" 3 3 .ro, fldP "BASE" 31 12 .ro]
    else [fldP "LIMIT" 31 12 .ro]
  | .thtOp _ => [fld "OP" 2 0 .wo 0 1 5, fld "WAIT" 3 3 .wo, fld "TGT" 7 4 .wo 0 0 7, fld "TO" 15 8 .wo]
  | .thtArg _ => [fld "ARG" 31 0 .rw]
  | .thtResult _ => [fld "CODE" 7 0 .ro, fld "QUEUED" 8 8 .ro, fld "REFCNT" 23 16 .ro, fld "POOL" 25 24 .ro]
  | .thtHandle _ => [fld "HANDLE" 31 0 .ro]
  | .thtWait _ => [fld "STATE" 1 0 .ro, fld "CODE" 15 8 .ro, fld "POOL" 17 16 .ro, fld "ACK" 31 31 .wo]
  | .thtWaitHandle _ => [fld "HANDLE" 31 0 .ro]
  | .thtSel _ => [fld "SEL" 31 0 .rw]
  | .thtMisuse _ => [fld "COUNT" 31 0 .rc]
  | .thtGcfg _ => [fldP "STRICT" 0 0 .ro]
  | .thtQuota _ _ => [fldP "QUOTA" 15 0 .ro, fld "CHARGED" 31 16 .ro]
  | .thtCfg =>
    [fldP "MODE" 0 0 .ro,
     fldP "LINK_POOL" 2 1 .ro,
     fldP "LINK_EN" 3 3 .ro,
     fldP "WAIT_TO" 15 8 .ro 10 1 255]
  | .thtPool0 _ => [fldP "BASE" 20 0 .ro]
  | .thtPool1 _ =>
    [fldP "COUNT" 15 0 .ro 0 1 32768,
     fldP "LOG2SIZE" 19 16 .ro 0 6 12,
     fldP "MODE" 20 20 .ro,
     fldP "FALLBACK" 21 21 .ro,
     fldP "VALID" 22 22 .ro]
  | .thtLinkq _ => [fldP "QUOTA" 15 0 .ro, fld "CHARGED" 31 16 .ro]
  | .thtStatCtl => [fld "TAKE" 0 0 .wo]
  | .thtStat0 _ => [fld "FREE" 15 0 .ro, fld "ALLOCATED" 31 16 .ro]
  | .thtStat1 _ => [fld "RETURNING" 15 0 .ro, fld "WAITERS" 23 16 .ro, fld "BAD" 31 24 .ro]
  | .burVer => [fldP "MAJOR" 31 24 .ro, fldP "MINOR" 23 16 .ro, fldP "PATCH" 15 8 .ro]
  | .burCustId => [fldP "ID" 31 0 .ro]
  | .burCommit => [fld "GO" 0 0 .wo, fld "KEY" 15 8 .wo, fld "STATE" 18 16 .ro, fldP "TO" 31 24 .rw 10 1 255]
  | .burCommitStat => [fld "FAIL_ADDR" 9 0 .ro, fld "FAIL_WHY" 13 10 .ro, fld "HOLD" 19 16 .ro, fld "CUST" 23 20 .ro]
  | .burEvt => [fld "COMMIT_DONE" 0 0 .w1c, fld "COMMIT_REJ" 1 1 .w1c, fld "COMMIT_TO" 2 2 .w1c]
  | .burCtl _ =>
    [fld "START" 0 0 .wo,
     fld "HALT" 1 1 .wo,
     fld "FLUSH_TX" 2 2 .wo,
     fld "FLUSH_RX" 3 3 .wo,
     fld "SWF_SET" 4 4 .wo,
     fld "SWF_CLR" 5 5 .wo,
     fld "ADDR" 25 16 .wo]
  | .burStat _ =>
    [fld "PC" 9 0 .ro,
     fld "STATE" 12 10 .ro,
     fld "SWF" 13 13 .ro,
     fld "DEPTH" 16 14 .ro,
     fld "CUST" 17 17 .ro]
  | .burCfg _ =>
    [fldP "DIV" 15 0 .rw,
     fld "LSBF" 16 16 .rw,
     fld "OBITS" 21 17 .rw,
     fld "IBITS" 26 22 .rw,
     fldP "GATED" 27 27 .ro]
  | .burPincfg _ => [fld "OUT_BASE" 2 0 .rw, fld "OUT_W" 6 3 .rw 0 0 8, fldP "OD" 15 8 .ro]
  | .burPinmap0 _ => pinmapFields
  | .burPinmap1 _ => pinmapFields
  | .burTxf _ => [fld "TX" 31 0 .wo]
  | .burRxf _ => [fld "RX" 31 0 .rc]
  | .burFifo _ => [fld "TX_LVL" 4 0 .ro, fld "RX_LVL" 12 8 .ro, fld "TX_OVF" 16 16 .w1c, fld "RX_UNF" 17 17 .w1c]
  | .burFlag _ => [fld "FLAG" 31 1 .w1c]
  | .burShift _ => [fld "SHIFT" 31 0 .ro]
  | .burCount _ => [fld "X" 15 0 .ro, fld "BITS_OUT" 21 16 .ro, fld "BITS_IN" 29 24 .ro]
  | .burCrcCfg _ => [fld "WIDTH" 1 0 .rw 0 0 2, fld "REFL" 2 2 .rw]
  | .burCrcPoly _ => [fld "POLY" 31 0 .rw]
  | .burCrcInit _ => [fld "INIT" 31 0 .rw]
  | .burCrcChk _ => [fld "CHK" 31 0 .rw]
  | .burCrc _ => [fld "CRC" 31 0 .ro]
  | .burDmaCtl _ => [fld "TX_EN" 0 0 .rw, fld "RX_EN" 1 1 .rw]
  | .burDmaTxa _ => [fld "ADDR" 31 0 .rw]
  | .burDmaTxc _ => [fld "COUNT" 15 0 .rw]
  | .burDmaRxa _ => [fld "ADDR" 31 0 .rw]
  | .burDmaRxc _ => [fld "COUNT" 15 0 .rw]
  | .burDmaStat _ =>
    [fld "TX_DONE" 0 0 .w1c,
     fld "TX_ERR" 1 1 .w1c,
     fld "RX_DONE" 2 2 .w1c,
     fld "RX_ERR" 3 3 .w1c,
     fld "UE" 4 4 .w1c,
     fld "CODE" 15 8 .ro]
  | .burFault _ => [fld "ADDR" 9 0 .ro, fld "CAUSE" 11 10 .ro, fld "VALID" 12 12 .w1c]
  | .purCfg => [fldP "IDLE_TO" 7 0 .rw 60, fld "BARE" 8 8 .ro]
  | .purPcfg _ =>
    [fldP "EN" 0 0 .rw,
     fldP "RATE_MAX" 2 1 .rw,
     fldP "ROLE" 4 3 .rw 0 0 2,
     fldP "REF" 5 5 .rw,
     fldP "CRED" 15 8 .ro]
  | .purPctl _ => [fld "RETRAIN" 0 0 .wo, fld "SWAP" 1 1 .wo]
  | .purPstat _ =>
    [fld "LSTATE" 2 0 .ro,
     fld "ROLE" 3 3 .ro,
     fld "RATE" 5 4 .ro,
     fld "SWAP" 8 6 .ro,
     fld "FROZEN" 9 9 .ro,
     fld "SFN" 23 16 .ro]
  | .purPevt _ =>
    [fld "TRAINED" 0 0 .w1c,
     fld "LOST" 1 1 .w1c,
     fld "SWAP_DONE" 2 2 .w1c,
     fld "SWAP_FAIL" 3 3 .w1c,
     fld "SLEEP_IN" 4 4 .w1c,
     fld "SLEEP_OUT" 5 5 .w1c]
  | .purPcred _ => [fld "ADV" 7 0 .ro, fld "FREE" 15 8 .ro, fld "HELD" 23 16 .ro, fld "EPOCH" 31 24 .ro]
  | .purPerr _ => [fld "CODE_ERR" 7 0 .rc, fld "FCS_ERR" 15 8 .rc, fld "DISCARD" 23 16 .rc, fld "LOSTS" 31 24 .rc]
  | .purPsec _ => [fld "BADTAG" 15 0 .rc, fld "REPLAY" 31 16 .rc]
  | .purSess _ => [fld "OPEN_P0" 0 0 .ro, fld "OPEN_P1" 1 1 .ro, fld "REPLY_P0" 2 2 .ro, fld "REPLY_P1" 3 3 .ro]
  | .purSeqP0 _ => [fld "SEQ" 31 0 .ro]
  | .purSeqP1 _ => [fld "SEQ" 31 0 .ro]
  | .purLock _ => [fld "FAILS" 3 0 .ro, fld "LOCKED" 4 4 .ro, fld "LEVEL" 11 8 .ro, fld "REMAIN" 31 16 .ro]
  | .purMsgq _ => [fld "HANDLE" 31 0 .rc]
  | .purMsgqStat _ => [fld "COUNT" 3 0 .ro]
  | .purReplyH _ => [fld "HANDLE" 31 0 .rw]
  | .purReply _ => [fld "GO" 0 0 .wo, fld "PORT" 1 1 .wo, fld "CODE" 15 8 .ro]
  | .siStep => [fld "STEP" 15 0 .ro 2816]
  | .pltAbi => [fldP "ABI" 31 0 .ro]
  | .pltLadle => [fld "MAJOR" 31 24 .ro 2, fld "MINOR" 23 16 .ro 1]
  | .pltBoot =>
    [fld "SLOT" 0 0 .ro,
     fld "MODE" 1 1 .ro,
     fld "ADDR4" 2 2 .ro,
     fld "NO_SFDP" 3 3 .ro,
     fld "FIRST_USE" 4 4 .ro,
     fld "BARE" 5 5 .ro,
     fld "FAIL_A" 15 8 .ro,
     fld "FAIL_B" 23 16 .ro]
  | .pltSeq => [fld "SEQ" 31 0 .ro]
  | .pltArb => [fld "ARB_PLATE" 15 0 .ro, fld "ARB_RDG" 23 16 .ro, fld "ARB_BUR" 31 24 .ro]
  | .pltBootTime => [fld "US" 31 0 .ro]
  | .pltUpdStat => [fld "STATE" 1 0 .ro, fld "CODE" 15 8 .ro, fld "DONE" 16 16 .w1c]
  | .pltCkpt _ => [fld "VALID" 0 0 .ro, fld "HALF" 1 1 .ro, fld "GEN" 31 16 .ro]
  | .pltCkptLen _ => [fld "LEN" 31 0 .ro]
  | .pltCkptReg _ => [fld "BASE" 15 0 .ro, fld "PAGES" 31 16 .ro]
  | .pltRcvCtl => [fld "ERASE" 0 0 .wo, fld "REBOOT" 1 1 .wo, fld "KEY" 15 8 .wo, fld "SECTOR" 24 16 .wo]
  | .prfStat => [fld "BUSY" 0 0 .ro, fld "WORN" 15 8 .ro, fld "EV_HEAD" 22 16 .ro, fld "DK_HEAD" 29 24 .ro]

/-- Who may read a register. A register that only has fields to write is read by whoever may write it and reads 0
(Table SCO-4). -/
def Reg.readers : Reg → Who
  | .supStat => .all
  | .supEvt => .all
  | .supCfg => .all
  | .supVcore => .all
  | .supAvsCfg => .all
  | .supAvsStatus => .all
  | .supAvsFail => .all
  | .supBraceCount => .all
  | .supBraceStat => .all
  | .gutStat => .all
  | .gutEvt => .all
  | .gutCfg => .all
  | .gutThr => .all
  | .gutSeed => .all
  | .gutMppt => .all
  | .clkStat => .all
  | .clkEvt => .all
  | .clkCfg => .all
  | .clkQualXt => .all
  | .clkQualFrc => .all
  | .clkExtref => .all
  | .clkFrcTrim => .all
  | .clkSsc => .all
  | .clkGate => .all
  | .clkGateBusy => .all
  | .clkGateRefused => .all
  | .clkTrims => .all
  | .tmrRtcSec => .all
  | .tmrRtcFrac _ => .all
  | .tmrRtcSet => .g0
  | .tmrRtcCtl => .all
  | .tmrRtcAlmSec => .all
  | .tmrRtcAlmFrac => .all
  | .tmrRtcAlmCtl => .all
  | .tmrSLoad _ => .all
  | .tmrSCtl _ => .all
  | .tmrSCount _ => .all
  | .tmrFLoad _ => .all
  | .tmrFCtl _ => .all
  | .tmrFCount _ => .all
  | .snsConv _ => .all
  | .snsResult _ => .all
  | .snsAinOwn => .all
  | .snsPend => .g0
  | .pwrStat => .all
  | .pwrCfg => .all
  | .pwrGreq => .all
  | .pwrDomLo => .all
  | .pwrDomHi => .all
  | .pwrReset => .g0
  | .pwrResetCause => .all
  | .pwrPadStat => .all
  | .pwrPadRelease => .anyGroupOwner
  | .pwrGpioOut n => .groupOwner n
  | .pwrGpioOe n => .groupOwner n
  | .pwrGpioIn n => .groupOwner n
  | .pwrWakeEn => .all
  | .pwrWakePend => .all
  | .pwrWakeMasked => .all
  | .pwrWakeStorm => .all
  | .pwrWkf _ => .all
  | .pwrWkcnt n => .wakePinOwner n
  | .pwrResCtl => .all
  | .pwrResStat _ => .all
  | .pwrResSnap _ i => .snapshot i
  | .rdgStat => .g0
  | .rdgVer => .all
  | .rdgCustId => .all
  | .rdgSvcImplLo => .all
  | .rdgSvcImplHi => .all
  | .rdgSvcCust => .all
  | .rdgCall _ => .all
  | .rdgArg0 _ => .all
  | .rdgArg1 _ => .all
  | .rdgResult _ => .all
  | .rdgEvt => .g0
  | .rdgFault => .g0
  | .rdgCommit => .g0
  | .rdgCommitStat => .g0
  | .rdgEcnt _ => .g0
  | .gabTrapBase _ => .all
  | .gabEpc _ => .all
  | .gabTcause _ => .all
  | .gabTaddr _ => .all
  | .gabTstat _ => .all
  | .gabEvtEnLo _ => .all
  | .gabEvtEnHi _ => .all
  | .gabEvtPendLo _ => .all
  | .gabEvtPendHi _ => .all
  | .gabPerfCtl _ => .all
  | .gabPerf _ _ => .all
  | .bnkStat => .all
  | .bnkOwnLo => .all
  | .bnkOwnHi => .all
  | .bnkCfg => .all
  | .bnkScrub => .all
  | .bnkEccLast => .g0
  | .bnkPromoCnt => .g0
  | .bnkBist => .g0
  | .bnkRepair _ => .all
  | .bnkEccCnt n => .bankOwnerOrG0 n
  | .bnkCwinOwn => .all
  | .bnkCwin n => .cwinOwnerOrG0 n
  | .lcPartLo => .all
  | .lcPartHi => .all
  | .lcGctl _ => .all
  | .lcOp _ => .all
  | .lcStat _ => .all
  | .lcCnt _ _ => .all
  | .gabId _ => .all
  | .gabCtl _ => .all
  | .gabFault _ => .all
  | .gabFaultAddr _ => .all
  | .gabRsvdCnt _ => .all
  | .gabUse _ => .all
  | .gabSlackUs _ => .all
  | .gabBoostStat _ => .all
  | .gabFrame => .all
  | .gabRsv => .all
  | .gabSchedCfg => .all
  | .gabHealth => .g0
  | .gabSched n => .gable n
  | .gabRestart n => .gable n
  | .gabSvcLo n => .gable n
  | .gabSvcHi n => .gable n
  | .gabSvcCust n => .gable n
  | .gabWin g _ => .gable g
  | .thtOp _ => .all
  | .thtArg _ => .all
  | .thtResult _ => .all
  | .thtHandle _ => .all
  | .thtWait _ => .all
  | .thtWaitHandle _ => .all
  | .thtSel _ => .all
  | .thtMisuse _ => .all
  | .thtGcfg _ => .all
  | .thtQuota _ _ => .all
  | .thtCfg => .all
  | .thtPool0 _ => .all
  | .thtPool1 _ => .all
  | .thtLinkq _ => .g0
  | .thtStatCtl => .g0
  | .thtStat0 _ => .g0
  | .thtStat1 _ => .g0
  | .burVer => .all
  | .burCustId => .all
  | .burCommit => .g0
  | .burCommitStat => .g0
  | .burEvt => .g0
  | .burCtl n => .engineOwner n
  | .burStat n => .engineOwnerOrG0 n
  | .burCfg n => .engineOwner n
  | .burPincfg n => .engineOwner n
  | .burPinmap0 n => .engineOwner n
  | .burPinmap1 n => .engineOwner n
  | .burTxf n => .engineOwner n
  | .burRxf n => .engineOwner n
  | .burFifo n => .engineOwner n
  | .burFlag n => .engineOwner n
  | .burShift n => .engineOwner n
  | .burCount n => .engineOwner n
  | .burCrcCfg n => .engineOwner n
  | .burCrcPoly n => .engineOwner n
  | .burCrcInit n => .engineOwner n
  | .burCrcChk n => .engineOwner n
  | .burCrc n => .engineOwner n
  | .burDmaCtl n => .engineOwner n
  | .burDmaTxa n => .engineOwner n
  | .burDmaTxc n => .engineOwner n
  | .burDmaRxa n => .engineOwner n
  | .burDmaRxc n => .engineOwner n
  | .burDmaStat n => .engineOwner n
  | .burFault n => .engineOwnerOrG0 n
  | .purCfg => .all
  | .purPcfg _ => .g0
  | .purPctl _ => .g0
  | .purPstat _ => .all
  | .purPevt _ => .g0
  | .purPcred _ => .all
  | .purPerr _ => .g0
  | .purPsec _ => .g0
  | .purSess _ => .all
  | .purSeqP0 _ => .all
  | .purSeqP1 _ => .all
  | .purLock _ => .all
  | .purMsgq _ => .all
  | .purMsgqStat _ => .all
  | .purReplyH _ => .all
  | .purReply _ => .all
  | .siStep => .all
  | .pltAbi => .all
  | .pltLadle => .all
  | .pltBoot => .all
  | .pltSeq => .all
  | .pltArb => .g0
  | .pltBootTime => .all
  | .pltUpdStat => .g0
  | .pltCkpt _ => .all
  | .pltCkptLen _ => .all
  | .pltCkptReg _ => .all
  | .pltRcvCtl => .recovery
  | .prfStat => .g0

/-- Who may write a register; `perBit` where the access line grants bits (R310). -/
def Reg.writers : Reg → Who
  | .supStat => .nobody
  | .supEvt => .g0
  | .supCfg => .g0
  | .supVcore => .nobody
  | .supAvsCfg => .g0
  | .supAvsStatus => .nobody
  | .supAvsFail => .g0
  | .supBraceCount => .nobody
  | .supBraceStat => .nobody
  | .gutStat => .nobody
  | .gutEvt => .g0
  | .gutCfg => .g0
  | .gutThr => .g0
  | .gutSeed => .nobody
  | .gutMppt => .nobody
  | .clkStat => .nobody
  | .clkEvt => .g0
  | .clkCfg => .g0
  | .clkQualXt => .g0
  | .clkQualFrc => .g0
  | .clkExtref => .g0
  | .clkFrcTrim => .g0
  | .clkSsc => .g0
  | .clkGate => .perBit
  | .clkGateBusy => .nobody
  | .clkGateRefused => .g0
  | .clkTrims => .nobody
  | .tmrRtcSec => .nobody
  | .tmrRtcFrac _ => .nobody
  | .tmrRtcSet => .g0
  | .tmrRtcCtl => .g0
  | .tmrRtcAlmSec => .alarmOwner
  | .tmrRtcAlmFrac => .alarmOwner
  | .tmrRtcAlmCtl => .alarmOwner
  | .tmrSLoad n => .timerOwner n
  | .tmrSCtl n => .timerOwner n
  | .tmrSCount _ => .nobody
  | .tmrFLoad _ => .all
  | .tmrFCtl _ => .all
  | .tmrFCount _ => .nobody
  | .snsConv _ => .all
  | .snsResult _ => .all
  | .snsAinOwn => .nobody
  | .snsPend => .nobody
  | .pwrStat => .nobody
  | .pwrCfg => .g0
  | .pwrGreq => .nobody
  | .pwrDomLo => .nobody
  | .pwrDomHi => .nobody
  | .pwrReset => .g0
  | .pwrResetCause => .nobody
  | .pwrPadStat => .perBit
  | .pwrPadRelease => .perBit
  | .pwrGpioOut n => .groupOwner n
  | .pwrGpioOe n => .groupOwner n
  | .pwrGpioIn _ => .nobody
  | .pwrWakeEn => .perBit
  | .pwrWakePend => .perBit
  | .pwrWakeMasked => .perBit
  | .pwrWakeStorm => .g0
  | .pwrWkf n => .wakePinOwner n
  | .pwrWkcnt _ => .nobody
  | .pwrResCtl => .perBit
  | .pwrResStat _ => .nobody
  | .pwrResSnap _ _ => .nobody
  | .rdgStat => .nobody
  | .rdgVer => .nobody
  | .rdgCustId => .nobody
  | .rdgSvcImplLo => .nobody
  | .rdgSvcImplHi => .nobody
  | .rdgSvcCust => .nobody
  | .rdgCall _ => .all
  | .rdgArg0 _ => .all
  | .rdgArg1 _ => .all
  | .rdgResult _ => .all
  | .rdgEvt => .g0
  | .rdgFault => .nobody
  | .rdgCommit => .g0
  | .rdgCommitStat => .nobody
  | .rdgEcnt _ => .nobody
  | .gabTrapBase _ => .all
  | .gabEpc _ => .all
  | .gabTcause _ => .nobody
  | .gabTaddr _ => .nobody
  | .gabTstat _ => .all
  | .gabEvtEnLo _ => .all
  | .gabEvtEnHi _ => .all
  | .gabEvtPendLo _ => .all
  | .gabEvtPendHi _ => .all
  | .gabPerfCtl _ => .all
  | .gabPerf _ _ => .nobody
  | .bnkStat => .nobody
  | .bnkOwnLo => .nobody
  | .bnkOwnHi => .nobody
  | .bnkCfg => .g0
  | .bnkScrub => .g0
  | .bnkEccLast => .g0
  | .bnkPromoCnt => .nobody
  | .bnkBist => .g0
  | .bnkRepair _ => .nobody
  | .bnkEccCnt _ => .nobody
  | .bnkCwinOwn => .nobody
  | .bnkCwin n => .cwinOwnerOrG0 n
  | .lcPartLo => .nobody
  | .lcPartHi => .nobody
  | .lcGctl _ => .all
  | .lcOp _ => .all
  | .lcStat _ => .nobody
  | .lcCnt _ _ => .nobody
  | .gabId _ => .nobody
  | .gabCtl _ => .all
  | .gabFault _ => .all
  | .gabFaultAddr _ => .nobody
  | .gabRsvdCnt _ => .nobody
  | .gabUse _ => .nobody
  | .gabSlackUs _ => .nobody
  | .gabBoostStat _ => .nobody
  | .gabFrame => .nobody
  | .gabRsv => .nobody
  | .gabSchedCfg => .nobody
  | .gabHealth => .nobody
  | .gabSched _ => .nobody
  | .gabRestart _ => .nobody
  | .gabSvcLo _ => .nobody
  | .gabSvcHi _ => .nobody
  | .gabSvcCust _ => .nobody
  | .gabWin _ _ => .nobody
  | .thtOp _ => .all
  | .thtArg _ => .all
  | .thtResult _ => .nobody
  | .thtHandle _ => .nobody
  | .thtWait _ => .all
  | .thtWaitHandle _ => .nobody
  | .thtSel _ => .all
  | .thtMisuse _ => .nobody
  | .thtGcfg _ => .nobody
  | .thtQuota _ _ => .nobody
  | .thtCfg => .nobody
  | .thtPool0 _ => .nobody
  | .thtPool1 _ => .nobody
  | .thtLinkq _ => .nobody
  | .thtStatCtl => .g0
  | .thtStat0 _ => .nobody
  | .thtStat1 _ => .nobody
  | .burVer => .nobody
  | .burCustId => .nobody
  | .burCommit => .g0
  | .burCommitStat => .nobody
  | .burEvt => .g0
  | .burCtl n => .engineOwner n
  | .burStat _ => .nobody
  | .burCfg n => .engineOwner n
  | .burPincfg n => .engineOwner n
  | .burPinmap0 _ => .nobody
  | .burPinmap1 _ => .nobody
  | .burTxf n => .engineOwner n
  | .burRxf _ => .nobody
  | .burFifo n => .engineOwner n
  | .burFlag n => .engineOwner n
  | .burShift _ => .nobody
  | .burCount _ => .nobody
  | .burCrcCfg n => .engineOwner n
  | .burCrcPoly n => .engineOwner n
  | .burCrcInit n => .engineOwner n
  | .burCrcChk n => .engineOwner n
  | .burCrc _ => .nobody
  | .burDmaCtl n => .engineOwner n
  | .burDmaTxa n => .engineOwner n
  | .burDmaTxc n => .engineOwner n
  | .burDmaRxa n => .engineOwner n
  | .burDmaRxc n => .engineOwner n
  | .burDmaStat n => .engineOwner n
  | .burFault n => .engineOwner n
  | .purCfg => .g0
  | .purPcfg _ => .g0
  | .purPctl _ => .g0
  | .purPstat _ => .nobody
  | .purPevt _ => .g0
  | .purPcred _ => .nobody
  | .purPerr _ => .nobody
  | .purPsec _ => .nobody
  | .purSess _ => .nobody
  | .purSeqP0 _ => .nobody
  | .purSeqP1 _ => .nobody
  | .purLock _ => .nobody
  | .purMsgq _ => .nobody
  | .purMsgqStat _ => .nobody
  | .purReplyH _ => .all
  | .purReply _ => .all
  | .siStep => .nobody
  | .pltAbi => .nobody
  | .pltLadle => .nobody
  | .pltBoot => .nobody
  | .pltSeq => .nobody
  | .pltArb => .nobody
  | .pltBootTime => .nobody
  | .pltUpdStat => .g0
  | .pltCkpt _ => .nobody
  | .pltCkptLen _ => .nobody
  | .pltCkptReg _ => .nobody
  | .pltRcvCtl => .recovery
  | .prfStat => .nobody

/-- The domain that must be ON for an access (R86). The chapters place a block's registers with the block; the blocks
the chapters do not place (SUP_, GUT_, CLK_, BNK_, PLT_ and the GAB_ registers below 0x4005_0800) are taken to be always
reachable (DEDUCED, notes/assumptions/10.md). -/
def Reg.domain : Reg → RegDomain
  | .supStat => .always
  | .supEvt => .always
  | .supCfg => .always
  | .supVcore => .always
  | .supAvsCfg => .always
  | .supAvsStatus => .always
  | .supAvsFail => .always
  | .supBraceCount => .always
  | .supBraceStat => .always
  | .gutStat => .always
  | .gutEvt => .always
  | .gutCfg => .always
  | .gutThr => .always
  | .gutSeed => .always
  | .gutMppt => .always
  | .clkStat => .always
  | .clkEvt => .always
  | .clkCfg => .always
  | .clkQualXt => .always
  | .clkQualFrc => .always
  | .clkExtref => .always
  | .clkFrcTrim => .always
  | .clkSsc => .always
  | .clkGate => .always
  | .clkGateBusy => .always
  | .clkGateRefused => .always
  | .clkTrims => .always
  | .tmrRtcSec => .always
  | .tmrRtcFrac _ => .always
  | .tmrRtcSet => .always
  | .tmrRtcCtl => .always
  | .tmrRtcAlmSec => .always
  | .tmrRtcAlmFrac => .always
  | .tmrRtcAlmCtl => .always
  | .tmrSLoad _ => .always
  | .tmrSCtl _ => .always
  | .tmrSCount _ => .always
  | .tmrFLoad _ => .oscf
  | .tmrFCtl _ => .oscf
  | .tmrFCount _ => .oscf
  | .snsConv _ => .sens
  | .snsResult _ => .sens
  | .snsAinOwn => .sens
  | .snsPend => .sens
  | .pwrStat => .always
  | .pwrCfg => .always
  | .pwrGreq => .always
  | .pwrDomLo => .always
  | .pwrDomHi => .always
  | .pwrReset => .always
  | .pwrResetCause => .always
  | .pwrPadStat => .always
  | .pwrPadRelease => .always
  | .pwrGpioOut _ => .core
  | .pwrGpioOe _ => .core
  | .pwrGpioIn _ => .core
  | .pwrWakeEn => .always
  | .pwrWakePend => .always
  | .pwrWakeMasked => .always
  | .pwrWakeStorm => .always
  | .pwrWkf _ => .always
  | .pwrWkcnt _ => .always
  | .pwrResCtl => .always
  | .pwrResStat _ => .always
  | .pwrResSnap _ _ => .always
  | .rdgStat => .always
  | .rdgVer => .always
  | .rdgCustId => .always
  | .rdgSvcImplLo => .always
  | .rdgSvcImplHi => .always
  | .rdgSvcCust => .always
  | .rdgCall _ => .always
  | .rdgArg0 _ => .always
  | .rdgArg1 _ => .always
  | .rdgResult _ => .always
  | .rdgEvt => .always
  | .rdgFault => .always
  | .rdgCommit => .always
  | .rdgCommitStat => .always
  | .rdgEcnt _ => .always
  | .gabTrapBase _ => .core
  | .gabEpc _ => .core
  | .gabTcause _ => .core
  | .gabTaddr _ => .core
  | .gabTstat _ => .core
  | .gabEvtEnLo _ => .core
  | .gabEvtEnHi _ => .core
  | .gabEvtPendLo _ => .core
  | .gabEvtPendHi _ => .core
  | .gabPerfCtl _ => .core
  | .gabPerf _ _ => .core
  | .bnkStat => .always
  | .bnkOwnLo => .always
  | .bnkOwnHi => .always
  | .bnkCfg => .always
  | .bnkScrub => .always
  | .bnkEccLast => .always
  | .bnkPromoCnt => .always
  | .bnkBist => .always
  | .bnkRepair _ => .always
  | .bnkEccCnt _ => .always
  | .bnkCwinOwn => .always
  | .bnkCwin _ => .always
  | .lcPartLo => .cache
  | .lcPartHi => .cache
  | .lcGctl _ => .cache
  | .lcOp _ => .cache
  | .lcStat _ => .cache
  | .lcCnt _ _ => .cache
  | .gabId _ => .always
  | .gabCtl _ => .always
  | .gabFault _ => .always
  | .gabFaultAddr _ => .always
  | .gabRsvdCnt _ => .always
  | .gabUse _ => .always
  | .gabSlackUs _ => .always
  | .gabBoostStat _ => .always
  | .gabFrame => .always
  | .gabRsv => .always
  | .gabSchedCfg => .always
  | .gabHealth => .always
  | .gabSched _ => .always
  | .gabRestart _ => .always
  | .gabSvcLo _ => .always
  | .gabSvcHi _ => .always
  | .gabSvcCust _ => .always
  | .gabWin _ _ => .always
  | .thtOp _ => .pool
  | .thtArg _ => .pool
  | .thtResult _ => .pool
  | .thtHandle _ => .pool
  | .thtWait _ => .pool
  | .thtWaitHandle _ => .pool
  | .thtSel _ => .pool
  | .thtMisuse _ => .pool
  | .thtGcfg _ => .pool
  | .thtQuota _ _ => .pool
  | .thtCfg => .pool
  | .thtPool0 _ => .pool
  | .thtPool1 _ => .pool
  | .thtLinkq _ => .pool
  | .thtStatCtl => .pool
  | .thtStat0 _ => .pool
  | .thtStat1 _ => .pool
  | .burVer => .bur
  | .burCustId => .bur
  | .burCommit => .bur
  | .burCommitStat => .bur
  | .burEvt => .bur
  | .burCtl _ => .bur
  | .burStat _ => .bur
  | .burCfg _ => .bur
  | .burPincfg _ => .bur
  | .burPinmap0 _ => .bur
  | .burPinmap1 _ => .bur
  | .burTxf _ => .bur
  | .burRxf _ => .bur
  | .burFifo _ => .bur
  | .burFlag _ => .bur
  | .burShift _ => .bur
  | .burCount _ => .bur
  | .burCrcCfg _ => .bur
  | .burCrcPoly _ => .bur
  | .burCrcInit _ => .bur
  | .burCrcChk _ => .bur
  | .burCrc _ => .bur
  | .burDmaCtl _ => .bur
  | .burDmaTxa _ => .bur
  | .burDmaTxc _ => .bur
  | .burDmaRxa _ => .bur
  | .burDmaRxc _ => .bur
  | .burDmaStat _ => .bur
  | .burFault _ => .bur
  | .purCfg => .link
  | .purPcfg _ => .link
  | .purPctl _ => .link
  | .purPstat _ => .link
  | .purPevt _ => .link
  | .purPcred _ => .link
  | .purPerr _ => .link
  | .purPsec _ => .link
  | .purSess _ => .link
  | .purSeqP0 _ => .link
  | .purSeqP1 _ => .link
  | .purLock _ => .link
  | .purMsgq _ => .link
  | .purMsgqStat _ => .link
  | .purReplyH _ => .link
  | .purReply _ => .link
  | .siStep => .always
  | .pltAbi => .always
  | .pltLadle => .always
  | .pltBoot => .always
  | .pltSeq => .always
  | .pltArb => .always
  | .pltBootTime => .always
  | .pltUpdStat => .always
  | .pltCkpt _ => .always
  | .pltCkptLen _ => .always
  | .pltCkptReg _ => .always
  | .pltRcvCtl => .always
  | .prfStat => .always

/-- The registers of one block as gable `g` sees them. -/
def supRegs (_ : Gable) : List Reg :=
  [.supStat, .supEvt, .supCfg, .supVcore, .supAvsCfg, .supAvsStatus, .supAvsFail, .supBraceCount, .supBraceStat]

/-- The registers of one block as gable `g` sees them. -/
def gutRegs (_ : Gable) : List Reg :=
  [.gutStat, .gutEvt, .gutCfg, .gutThr, .gutSeed, .gutMppt]

/-- The registers of one block as gable `g` sees them. -/
def clkRegs (_ : Gable) : List Reg :=
  [.clkStat, .clkEvt, .clkCfg, .clkQualXt, .clkQualFrc, .clkExtref, .clkFrcTrim, .clkSsc, .clkGate, .clkGateBusy, .clkGateRefused, .clkTrims]

/-- The registers of one block as gable `g` sees them. -/
def tmrRegs (g : Gable) : List Reg :=
  [.tmrRtcSec, .tmrRtcFrac g, .tmrRtcSet, .tmrRtcCtl, .tmrRtcAlmSec, .tmrRtcAlmFrac, .tmrRtcAlmCtl] ++
  (List.finRange 4).map Reg.tmrSLoad ++
  (List.finRange 4).map Reg.tmrSCtl ++
  (List.finRange 4).map Reg.tmrSCount ++
  [.tmrFLoad g, .tmrFCtl g, .tmrFCount g]

/-- The registers of one block as gable `g` sees them. -/
def snsRegs (g : Gable) : List Reg :=
  [.snsConv g, .snsResult g, .snsAinOwn, .snsPend]

/-- The registers of one block as gable `g` sees them. -/
def pwrRegs (g : Gable) : List Reg :=
  [.pwrStat, .pwrCfg, .pwrGreq, .pwrDomLo, .pwrDomHi, .pwrReset, .pwrResetCause, .pwrPadStat, .pwrPadRelease] ++
  (List.finRange 4).map Reg.pwrGpioOut ++
  (List.finRange 4).map Reg.pwrGpioOe ++
  (List.finRange 4).map Reg.pwrGpioIn ++
  [.pwrWakeEn, .pwrWakePend, .pwrWakeMasked, .pwrWakeStorm] ++
  (List.finRange 8).map Reg.pwrWkf ++
  (List.finRange 8).map Reg.pwrWkcnt ++
  [.pwrResCtl, .pwrResStat g] ++
  (List.finRange 154).map (Reg.pwrResSnap g)

/-- The registers of one block as gable `g` sees them. -/
def rdgRegs (g : Gable) : List Reg :=
  [.rdgStat, .rdgVer, .rdgCustId, .rdgSvcImplLo, .rdgSvcImplHi, .rdgSvcCust, .rdgCall g, .rdgArg0 g, .rdgArg1 g, .rdgResult g, .rdgEvt, .rdgFault, .rdgCommit, .rdgCommitStat] ++
  (List.finRange 16).map Reg.rdgEcnt

/-- The registers of one block as gable `g` sees them. -/
def gabRegs (g : Gable) : List Reg :=
  [.gabTrapBase g, .gabEpc g, .gabTcause g, .gabTaddr g, .gabTstat g, .gabEvtEnLo g, .gabEvtEnHi g, .gabEvtPendLo g, .gabEvtPendHi g, .gabPerfCtl g] ++
  (List.finRange 8).map (Reg.gabPerf g) ++
  [.gabId g, .gabCtl g, .gabFault g, .gabFaultAddr g, .gabRsvdCnt g, .gabUse g, .gabSlackUs g, .gabBoostStat g, .gabFrame, .gabRsv, .gabSchedCfg, .gabHealth] ++
  (List.finRange 8).map Reg.gabSched ++
  (List.finRange 8).map Reg.gabRestart ++
  (List.finRange 8).map Reg.gabSvcLo ++
  (List.finRange 8).map Reg.gabSvcHi ++
  (List.finRange 8).map Reg.gabSvcCust ++
  (List.finRange 8).flatMap (fun k => (List.finRange 8).map (Reg.gabWin k))

/-- The registers of one block as gable `g` sees them. -/
def bnkRegs (_ : Gable) : List Reg :=
  [.bnkStat, .bnkOwnLo, .bnkOwnHi, .bnkCfg, .bnkScrub, .bnkEccLast, .bnkPromoCnt, .bnkBist] ++
  (List.finRange 16).map Reg.bnkRepair ++
  (List.finRange 16).map Reg.bnkEccCnt ++
  [.bnkCwinOwn] ++
  (List.finRange 8).map Reg.bnkCwin

/-- The registers of one block as gable `g` sees them. -/
def lcRegs (g : Gable) : List Reg :=
  [.lcPartLo, .lcPartHi, .lcGctl g, .lcOp g, .lcStat g] ++
  (List.finRange 5).map (Reg.lcCnt g)

/-- The registers of one block as gable `g` sees them. -/
def thtRegs (g : Gable) : List Reg :=
  [.thtOp g, .thtArg g, .thtResult g, .thtHandle g, .thtWait g, .thtWaitHandle g, .thtSel g, .thtMisuse g, .thtGcfg g] ++
  (List.finRange 4).map (Reg.thtQuota g) ++
  [.thtCfg] ++
  (List.finRange 4).map Reg.thtPool0 ++
  (List.finRange 4).map Reg.thtPool1 ++
  (List.finRange 4).map Reg.thtLinkq ++
  [.thtStatCtl] ++
  (List.finRange 4).map Reg.thtStat0 ++
  (List.finRange 4).map Reg.thtStat1

/-- The registers of one block as gable `g` sees them. -/
def burRegs (_ : Gable) : List Reg :=
  [.burVer, .burCustId, .burCommit, .burCommitStat, .burEvt] ++
  (List.finRange 4).map Reg.burCtl ++
  (List.finRange 4).map Reg.burStat ++
  (List.finRange 4).map Reg.burCfg ++
  (List.finRange 4).map Reg.burPincfg ++
  (List.finRange 4).map Reg.burPinmap0 ++
  (List.finRange 4).map Reg.burPinmap1 ++
  (List.finRange 4).map Reg.burTxf ++
  (List.finRange 4).map Reg.burRxf ++
  (List.finRange 4).map Reg.burFifo ++
  (List.finRange 4).map Reg.burFlag ++
  (List.finRange 4).map Reg.burShift ++
  (List.finRange 4).map Reg.burCount ++
  (List.finRange 4).map Reg.burCrcCfg ++
  (List.finRange 4).map Reg.burCrcPoly ++
  (List.finRange 4).map Reg.burCrcInit ++
  (List.finRange 4).map Reg.burCrcChk ++
  (List.finRange 4).map Reg.burCrc ++
  (List.finRange 4).map Reg.burDmaCtl ++
  (List.finRange 4).map Reg.burDmaTxa ++
  (List.finRange 4).map Reg.burDmaTxc ++
  (List.finRange 4).map Reg.burDmaRxa ++
  (List.finRange 4).map Reg.burDmaRxc ++
  (List.finRange 4).map Reg.burDmaStat ++
  (List.finRange 4).map Reg.burFault

/-- The registers of one block as gable `g` sees them. -/
def purRegs (g : Gable) : List Reg :=
  [.purCfg] ++
  (List.finRange 2).map Reg.purPcfg ++
  (List.finRange 2).map Reg.purPctl ++
  (List.finRange 2).map Reg.purPstat ++
  (List.finRange 2).map Reg.purPevt ++
  (List.finRange 2).map Reg.purPcred ++
  (List.finRange 2).map Reg.purPerr ++
  (List.finRange 2).map Reg.purPsec ++
  [.purSess g, .purSeqP0 g, .purSeqP1 g, .purLock g, .purMsgq g, .purMsgqStat g, .purReplyH g, .purReply g]

/-- The registers of one block as gable `g` sees them. -/
def pltRegs (g : Gable) : List Reg :=
  [.siStep, .pltAbi, .pltLadle, .pltBoot, .pltSeq, .pltArb, .pltBootTime, .pltUpdStat, .pltCkpt g, .pltCkptLen g, .pltCkptReg g, .pltRcvCtl, .prfStat]

/-- The registers of the 64 KiB block that holds an address, as gable `g` sees them (Table SCO-6). -/
def blockRegs (g : Gable) (addr : Nat) : List Reg :=
  match addr / 0x10000 with
  | 0x4000 => rdgRegs g
  | 0x4001 => supRegs g ++ gutRegs g
  | 0x4002 => clkRegs g
  | 0x4003 => pwrRegs g
  | 0x4004 => bnkRegs g ++ lcRegs g
  | 0x4005 => gabRegs g
  | 0x4006 => thtRegs g
  | 0x4007 => burRegs g
  | 0x4008 => purRegs g
  | 0x4009 => pltRegs g
  | 0x400A => snsRegs g
  | 0x400B => tmrRegs g
  | _ => []

/-- The register at an address as gable `g` sees it, if a register has that address. -/
def Reg.atAddr? (g : Gable) (addr : Nat) : Option Reg :=
  (blockRegs g addr).find? (fun r => r.addr == addr)

end Sys2Proof.Machine
end

