-- ==== Sys2Proof/Machine/State.lean ====
section
/-! DEFINITION. The state of the warden, as plain data: every register, memory, queue and hidden piece of state the spec
gives it, the commands that wait, and the state after reset. -/

namespace Sys2Proof.Machine

/-- No command of this block stops the machine: an access the spec forbids is a core exception that the core takes
(spec/07 R141), a code in GAB_FAULT (spec/00 R4 to R6), or a code in a result (Table SCO-5). So no fault has a
constructor. -/
inductive Fault where
  deriving DecidableEq, Repr

/-- Why a command has no meaning. -/
inductive Refusal where
  /-- Raised by an arm of `exec` whose command has no meaning yet, with its mnemonic. Safe. -/
  | notModelled (mnemonic : String)
  deriving DecidableEq, Repr

/-! ## Small types -/

/-- Domain states (spec/05 R86). -/
inductive DomState where
  | on
  | ret
  | off
  deriving DecidableEq, Repr

/-- Global states of the Profile scheme (spec/05 R91), least deep first. -/
inductive GState where
  | run
  | idle
  | sleep
  | deep
  | off
  | trans
  deriving DecidableEq, Repr

/-- What powers the warden's logic: after a cold start; BARE (spec/15 R286); waiting for a cold start, with the cause
that PWR_RESET_CAUSE will show; OFF (spec/05 R93); SHELTER (spec/03 R57); the DORMANT lockout (spec/03 R56). -/
inductive Life where
  | up
  | bare
  | waiting (cause : BitVec 3)
  | off
  | shelter
  | lockout
  deriving DecidableEq, Repr

/-- The Soffit buck (spec/02 Table SUP-3). -/
inductive Buck where
  | off
  | softStart
  | regulated
  deriving DecidableEq, Repr

/-- Progress of Brace (spec/02 Table SUP-4). -/
inductive BracePhase where
  | released
  | running
  | complete
  deriving DecidableEq, Repr

/-- Who asked for an AVSBus request (spec/02 R33, R313, R318). -/
inductive AvsOrigin where
  | service (g : Gable)
  | ridge
  | coldStart
  | poll
  deriving DecidableEq, Repr

/-- The AVSBus commands that the warden issues (spec/02 R32). No rule says when it reads the target rail voltage, so
`readVoltage` is never on the bus (notes/assumptions/37.md). -/
inductive AvsCmd where
  | writeCommit
  | readVoltage
  | readStatus
  deriving DecidableEq, Repr

/-- The request on the AVSBus (spec/02 R32, R33): the command that its present frame carries, the rail that SUP_AVS_CFG.RAIL
selected as it began, its code, which gives the millivolts, its attempt 0 to 2, and whether its response was good and
VDone is being polled. `ending` marks a request that ends with E_DLOST once the frame on the bus completes (R317). A status
poll has origin `poll`. -/
structure AvsReq where
  cmd     : AvsCmd
  rail    : BitVec 4
  code    : Byte
  attempt : Nat
  origin  : AvsOrigin
  polling : Bool
  ending  : Bool
  deriving DecidableEq, Repr

/-- The supply path's hidden state (spec/02). `vcMv` is the internal converter's output in mV, which slews toward its
code (R318 and below); `vcoreDef` is set until FRC is first qualified after a cold start (R313). `braceAt` is the T_WARN
crossing that started Brace, or the start of a test brace, and `testAt` the latter (R37, R127); `braceReal` marks a
brace that a fall of VSYS started or took over; `unbraces` are the times of the last real unbraces (R38); `stormPrior`
holds the domain states and the global state before a storm, until the warden has returned to them. `darkPending` marks
that a darkness ends with the next cold start, `darkShelter` that it was SHELTER to its end, `darkRtcLost` that the RTC
stopped (R60), `noCell` that it is handled as DORMANT for want of a cell (R58). -/
structure Supply where
  buck        : Buck
  handover    : Bool
  brace       : BracePhase
  braceAt     : Nat
  braceTest   : Option Gable
  braceReal   : Bool
  testAt      : Nat
  unbraces    : List Nat
  stormPrior  : Option (Vector DomState 24 × GState)
  avs         : Option AvsReq
  pollWait    : Bool
  avsSetWait  : Option (Gable × Byte)
  darkPending : Bool
  darkShelter : Bool
  darkRtcLost : Bool
  noCell      : Bool
  vcMv        : Nat
  vcoreDef    : Bool
  deriving DecidableEq, Repr

/-- The seed island's settings (spec/03 R45). -/
structure SeedIsland where
  autoSeed : Bool
  shelter  : Bool
  target   : BitVec 5
  period   : Byte
  deriving DecidableEq, Repr

/-- Gutter's hidden state (spec/03). -/
structure Gutter where
  duskArmed : Bool
  seedAt    : Option Nat
  seeds     : List Nat
  darkSeeds : Nat
  island    : SeedIsland
  deriving DecidableEq, Repr

/-- Qualification of one oscillator (spec/04 R66): idle, in its n-th attempt, waiting for a retry, or qualified. -/
inductive QualPhase where
  | idle
  | attempt (n : Nat)
  | retryWait
  | qualified
  deriving DecidableEq, Repr

/-- A pending ADC request (spec/04 R83). -/
structure AdcReq where
  ch  : BitVec 4
  avg : BitVec 3
  deriving DecidableEq, Repr

/-- The clock block's hidden state (spec/04). `adcNow` is the gable whose request converts. `rtcEdge` tells that the last
RTC count crossed a second (R64); `pclkAcc` is the fraction of a PCLK cycle, in 1,600ths, that has passed since the last
whole one (R71). -/
structure Clocks where
  xt         : QualPhase
  frc        : QualPhase
  ext        : QualPhase
  trimFrozen : Bool
  sscInForce : Word
  rtcFrac    : BitVec 16
  rtcPhase   : Nat
  rtcAcc     : Nat
  rtcSetPend : Option Word
  rtcEdge    : Bool
  pclkAcc    : Nat
  adc        : Vector (Option AdcReq) 8
  adcLast    : Gable
  adcNow     : Option Gable
  deriving DecidableEq, Repr

/-- One domain switch still to complete (spec/05 R90). -/
structure Switch where
  dom    : Dom
  target : DomState
  deriving DecidableEq, Repr

/-- The power logic's hidden state (spec/05). The head of `switching` is under way unless `paused` (R112). `preBanks`
are the bank states that R94 returns. `slept` tells that SLEEP or DEEP was entered and the return has not completed
(R94). `wkPin` are the levels of the WK pins, `wkRun` the consecutive LRC samples of each that differed from its
accepted level `wkLevel`, `lrcAcc` the part of an LRC cycle that has passed, in millionths (R100). `wokeLevel` marks the
level-active sources that woke the warden, `levelDue` those unmasked while asserted that have still to wake it once more
(R104). `tampHigh` is the level of the last tamper strobe, `tampOpen` the loop's state by two consecutive strobes
(spec/16 R301). -/
structure Power where
  dom       : Vector DomState 24
  switching : List Switch
  paused    : Bool
  preBanks  : Vector DomState 16
  greq      : Vector GState 8
  gstate    : GState
  target    : Option GState
  offAt     : Option Nat
  graceDone : Bool
  holdAt    : Option Nat
  wakeCount : Vector Nat 16
  wakeOpen  : Vector Nat 16
  wokeLevel : BitVec 16
  levelDue  : BitVec 16
  wkLevel   : BitVec 8
  wkPin     : BitVec 8
  wkRun     : Vector Nat 8
  lrcAcc    : Nat
  slept     : Bool
  wakeSeen  : Bool
  tampLatch : Bool
  tampHigh  : Bool
  tampOpen  : Bool
  heldOut   : Vector (BitVec 12) 4
  heldOe    : Vector (BitVec 12) 4
  deriving DecidableEq, Repr

/-- One gable's snapshot latch (spec/05 R107). -/
structure Snapshot where
  valid : Bool
  cnt   : Vector (BitVec 48) 77
  deriving DecidableEq, Repr

/-- The residency counters (spec/05 R106, R107): 3 per domain (ON, RET, OFF), then RUN, IDLE, SLEEP, DEEP, TRANS.
`passed` marks the counters that passed 2^48 - 1 since the last clear. -/
structure Residency where
  cnt       : Vector (BitVec 48) 77
  clearedAt : Nat
  wrap      : Bool
  passed    : BitVec 77
  snap      : Vector Snapshot 8
  deriving DecidableEq, Repr

/-- A microcode store or one bank of it: the words that are not zero, by word number (spec/06 R110, spec/13 R236). -/
abbrev Store := List (Nat × BitVec 128)

/-- Where in a word Ridge stands (spec/06 R111): between words, waiting for the AVSBus token in phase 1, switching
domains in phase 3, waiting for the token or for a voltage in phase 6, delaying or waiting in phase 8, at a DISPATCH word,
ended by BRACE, waiting for an EVT action in phase 2, in a routine that the warden completes as a whole
(notes/assumptions/8.md), or in such a service that ended while it was suspended. -/
inductive RidgePhase where
  | boundary
  | token
  | domains
  | vreqToken
  | vreq
  | delay (ticks : Nat)
  | waiting (ticks : Option Nat)
  | atDispatch
  | braced
  | action
  | native
  | finish (code : Byte)
  deriving DecidableEq, Repr

/-- Which routine runs (spec/06 Table RDG-4). -/
inductive Routine where
  | dispatch
  | init
  | trigger (entry : BitVec 9)
  | service (g : Gable) (svc : Byte)
  deriving DecidableEq, Repr

/-- Ridge's routine state, which Brace saves (spec/06 R112). -/
structure RidgeCtx where
  addr    : BitVec 9
  stack   : List (BitVec 9)
  origin  : BitVec 9
  routine : Routine
  phase   : RidgePhase
  deriving DecidableEq, Repr

/-- Refusals that hold for the next word (spec/06 R113 to R115). -/
structure Refs where
  gate : Bool
  dom  : Bool
  pad  : Bool
  deriving DecidableEq, Repr

/-- A gable's call slot (spec/06 R125, R126). -/
inductive Slot where
  | free
  | pending (age : Nat) (svc : Byte)
  | running (svc : Byte)
  deriving DecidableEq, Repr

/-- Ridge (spec/06). `vreqPend` marks a voltage request that failed in the word that executes, so that VREQ_FAIL is true
from that word's end (R116); `stormOut` that a storm's end waits for a DISPATCH word (Table RDG-4). -/
structure Ridge where
  vendor   : Store
  live     : Store
  staging  : Store
  ctx      : RidgeCtx
  suspend  : Option RidgeCtx
  refs     : Refs
  refsNext : Refs
  vreqFail : Bool
  vreqPend : Bool
  actErr   : Bool
  lastAct  : Byte
  slots    : Vector Slot 8
  discard  : Vector Bool 8
  callSeq  : Nat
  stormOut : Bool
  duskTrig : Bool
  domWake  : Bool
  commitAt : Nat
  deriving DecidableEq, Repr

/-- How a buffered store acts on the bank (spec/09 R174). -/
inductive StoreKind where
  | plain
  | bitSet
  | bitClear
  deriving DecidableEq, Repr

/-- A store-buffer entry: the bank address it reaches after translation (spec/09 R177), its size and data, its gable, and
the circular window it came through. -/
structure SbEntry where
  gable : Gable
  addr  : Nat
  size  : Size
  data  : Word
  kind  : StoreKind
  ring  : Option (Fin 8)
  deriving DecidableEq, Repr

/-- The architectural context of a gable (spec/08 Table ISA-1). A Hatch gable uses `g`; a Stipple gable `d`, `a`, `acc`
and `bnk`. -/
structure Ctx where
  g     : Vector Word 16
  d     : Vector Word 8
  a     : Vector (BitVec 16) 8
  acc   : Vector (BitVec 40) 2
  bnk   : BitVec 16
  flags : BitVec 6
  pc    : Word
  wfe   : Bool
  deriving DecidableEq, Repr

/-- A line of the instruction line buffer (spec/07, "Fetch-ahead and prediction"): its line address, the gable that
fetched it, and its words that are bad (spec/10 R198). -/
structure IlbLine where
  line  : Nat
  gable : Gable
  bad   : BitVec 4
  deriving DecidableEq, Repr

/-- The Graver core (spec/07): who holds it, whether Ridge or Brace halts it, the ILB (latest line first), the store
buffer (oldest first), the contexts. -/
structure Core where
  running : Option Gable
  halted  : Bool
  ilb     : List IlbLine
  sb      : List SbEntry
  ctx     : Vector Ctx 8
  deriving DecidableEq, Repr

/-- A boost (spec/11 R212, R213): its order of receipt and the ticks it has run. -/
structure Boost where
  order : Nat
  ran   : Nat
  deriving DecidableEq, Repr

/-- Scheduling state of one gable (spec/11 R207 to R217). `stopAt` is when it last stopped. `waited` counts the ticks
that it has been runnable without running, `spent` marks that its last turn ran out and no other of its class has begun
one since, and `slack` that it has run in slack in this frame. -/
structure GabState where
  stopped     : Bool
  stopAt      : Nat
  restartPend : Bool
  autoCount   : Nat
  used        : Nat
  remain      : Nat
  released    : Nat
  overrun     : Nat
  turn        : Nat
  waited      : Nat
  spent       : Bool
  slack       : Bool
  boost       : Option Boost
  deriving DecidableEq, Repr

/-- The frame (spec/11 R207): its tick and number, what is left of the link reserve, and the next boost's order (R208). -/
structure SchedFrame where
  tick     : Nat
  num      : BitVec 22
  rsvLeft  : Nat
  boostSeq : Nat
  deriving DecidableEq, Repr

/-- A line of the cache (spec/10). `tag` is address bits [31:5]; `pf` marks a prefetched line that no demand access has
used yet; bit k of `bad` marks its k-th 8-byte word bad (R198); byte i is bits [8i+7:8i] of `data`. -/
structure Line where
  valid : Bool
  tag   : Nat
  gable : Gable
  dirty : Bool
  ref   : Bool
  pf    : Bool
  bad   : BitVec 4
  data  : BitVec 256
  deriving DecidableEq, Repr

/-- A stride detector (spec/10 R196). -/
structure Detector where
  last   : Option Nat
  stride : Int
  count  : Nat
  deriving DecidableEq, Repr

/-- A streaming detector (spec/10 R194): the line being written and the bytes of it that were, the direction, the count
of full-line stores, and whether allocation is stopped. -/
structure Stream where
  line    : Option Nat
  bytes   : BitVec 32
  dir     : Int
  count   : Nat
  stopped : Bool
  deriving DecidableEq, Repr

/-- A prefetch (spec/10 R195, R197): `started` once a line engine carries out its transfer. -/
structure Transfer where
  line    : Nat
  gable   : Gable
  started : Bool
  deriving DecidableEq, Repr

/-- The line cache (spec/10). Stride detectors: 0 to 7 core fetch of gable n, 8 to 15 core data of gable n - 8, 16 the
window port, 17 to 20 Burin DMA of engine n - 17. Streaming detectors: 0 to 7 core data of gable n, 8 to 15 the window
port acting for gable n - 8, 16 to 19 Burin DMA of engine n - 16. `recent` is the line each gable referenced last
(R191), `winGable` the gable that the window port acts for. -/
structure Cache where
  lines     : Vector Line 48
  recent    : Vector Nat 8
  det       : Vector Detector 21
  stream    : Vector Stream 20
  winGable  : Option Gable
  transfers : List Transfer
  deriving DecidableEq, Repr

/-- State of a 64-bit bank word's check bits when they are not those of its data (spec/09). -/
inductive Ecc where
  | single
  | uncorrectable
  deriving DecidableEq, Repr

/-- Requesters of a bank in fixed priority (spec/09, "Arbitration"). -/
inductive Requester where
  | ridge
  | cache
  | thatch
  | window
  | dma (n : EngineNo)
  | core
  deriving DecidableEq, Repr

/-- A requester waiting at a bank with the consecutive decisions it has lost and its promotion (spec/09 R172). -/
structure Waiter where
  req      : Requester
  lost     : Nat
  promoted : Bool
  deriving DecidableEq, Repr

/-- Bank memory (spec/09): the bytes that differ from what an unlisted byte of their bank reads as, in rising address
order. -/
abbrev Memory := List Host.Cell

/-- The banks (spec/09). `undef` gives, for a bank whose contents are undefined (R186), the epoch of the free values that
its unlisted bytes read as; `known` the words of such banks that were written since. -/
structure Banks where
  mem   : Memory
  undef : Vector (Option Nat) 16
  known : List Nat
  ecc   : List (Nat × Ecc)
  wb    : List Nat
  scrub : Vector Nat 16
  arb   : Vector (List Waiter) 16
  rr    : Vector EngineNo 16
  bist  : Option BankNo
  deriving DecidableEq, Repr

/-- A Thatch wait (spec/12 R226, R227): its age, the payload asked for, and the ticks left until it times out. -/
structure ThtWait where
  age   : Nat
  bytes : Nat
  left  : Nat
  deriving DecidableEq, Repr

/-- Thatch (spec/12): free-list heads, charges, waits, BAD counts; `dlost` marks the gables whose THT_WAIT shows POOL's loss
once POOL is back, `tell` those whose line 26 waits for them to run (R232), `redo` those whose restart found POOL in RET.
The headers lie in bank memory (Table THT-1). -/
structure Thatch where
  head    : Vector (Option Nat) 4
  charge  : Vector (Vector Nat 4) 9
  waits   : Vector (Option ThtWait) 9
  waitSeq : Nat
  bad     : Vector Nat 4
  dlost   : Vector Bool 8
  tell    : Vector Bool 8
  redo    : Vector Bool 8
  deriving DecidableEq, Repr

/-- States of an engine as BUR_STAT_n.STATE codes them (spec/13 Table BUR-7). -/
inductive EngState where
  | halted
  | running
  | fifoWait
  | waitWord
  | permitGate
  | commitHold
  | parked
  deriving DecidableEq, Repr

/-- Where in a word an engine stands (spec/13 R237): before phase 1, waiting to pull in phase 2 for the TX
operation or for the automatic pull, holding in phase 4, waiting under NXT = WAIT, or waiting to push in phase 6 (of a
WAIT that ended by its timeout, or not). -/
inductive EngPhase where
  | start
  | pull
  | pullAuto
  | hold (ticks : Nat)
  | wait (ticks : Option Nat)
  | push (timeout : Bool)
  deriving DecidableEq, Repr

/-- A Burin engine (spec/13). `parkReq` is a park not yet met; `shiftedIn` and `shiftedOut` are the bits the word in
progress moved, in order; `sampled` is its pin sample. `keptOut` and `keptOe` hold the pin state from before the word in
progress, and in a phase 6 wait, when the pins show that, the state that the word gave them (R237). -/
structure Engine where
  st         : EngState
  before     : EngState
  phase      : EngPhase
  pc         : BitVec 10
  stack      : List (BitVec 10)
  shifter    : Word
  bitsOut    : BitVec 6
  bitsIn     : BitVec 6
  x          : BitVec 16
  crc        : Word
  txf        : List Word
  rxf        : List Word
  pinOut     : Byte
  pinOe      : Byte
  keptOut    : Byte
  keptOe     : Byte
  sampled    : Byte
  shiftedIn  : List Bool
  shiftedOut : List Bool
  autoPushed : Bool
  swf        : Bool
  parkReq    : Bool
  synced     : Bool
  deriving DecidableEq, Repr

/-- The Burin block (spec/13). -/
structure Burin where
  vendor   : Store
  live     : Store
  staging  : Store
  eng      : Vector Engine 4
  commitAt : Nat
  deriving DecidableEq, Repr

/-- Link states as PUR_PSTAT_n.LSTATE codes them (spec/14 Table PUR-6). -/
inductive LinkState where
  | down
  | training
  | trained
  | asleep
  | recovery
  deriving DecidableEq, Repr

/-- Swap states (spec/14 Table PUR-5). -/
inductive SwapState where
  | linked
  | reqSent
  | acked
  | backoff
  | swapping
  | reissue
  deriving DecidableEq, Repr

/-- What a port has queued to send (spec/14). A response carries opcode, flags, session, code, sequence number, data and
tag as in Table PUR-3. -/
inductive TxFrame where
  | ts1 (rate role : BitVec 2) (tkt : BitVec 16) (port : Port)
  | ts2 (rate role : BitVec 2) (tkt : BitVec 16) (port : Port)
  | sof (head : Bool) (sfn : Byte)
  | slp
  | credit (epoch : Byte) (cum : BitVec 16)
  | swapReq (tkt : BitVec 16)
  | swapAck (tkt : BitVec 16)
  | ping (data : List Byte)
  | openResp (sess : Gable) (code : Byte) (data : List Byte)
  | response (opc : BitVec 4) (flags : Byte) (sess : Gable) (code : Byte) (seq : Word) (data tag : List Byte)
  deriving DecidableEq, Repr

/-- A Purlin port (spec/14). `ticket` is its training ticket, `swapTicket` that of its SWAP_REQ; `ts1` and `ts2` count the
ordered sets of the present stage; `sofs` the start-of-frame sets at the period. The credit ledger: `cumOut` granted and
`epochOut` on the warden's receive side, `empty` the empty buffers held for the port, `fresh` those not yet returned by
CREDIT; `cumIn`, `epochIn` and `sentIn` on the sending side (R260, R261). `act` marks line activity seen in link sleep,
`regrant` that the next CREDIT is the reissue of a swap (R264), `reissued` that the new head of a swap has asked for its
own. `ctl` and `data` are the queues, `wire` what the last superframe sent, `line` its code groups with the IDLE fill, and
`plus` the running disparity after them (R253). -/
structure PortState where
  link       : LinkState
  head       : Bool
  rate       : BitVec 2
  peerRole   : BitVec 2
  ts1        : Nat
  ts2        : Nat
  sofs       : Nat
  ticket     : BitVec 16
  sfn        : Byte
  swap       : SwapState
  swapTicket : BitVec 16
  swapFor    : Nat
  cumOut     : BitVec 16
  epochOut   : Byte
  cumIn      : BitVec 16
  epochIn    : Byte
  sentIn     : BitVec 16
  empty      : List Nat
  fresh      : Nat
  sinceCred  : Nat
  act        : Bool
  regrant    : Bool
  reissued   : Bool
  ctl        : List TxFrame
  data       : List TxFrame
  wire       : List TxFrame
  line       : List (BitVec 10)
  plus       : Bool
  deriving DecidableEq, Repr

/-- A pending command of a session (spec/14 R268, R271): its opcode and sequence number, whether it waits for the bound
gable's reply, when it was received and in which order, and, when it waits for a transition between global states to
complete (R270), the command itself. -/
structure PendingCmd where
  opc   : BitVec 4
  seq   : Word
  reply : Bool
  at_   : Nat
  order : Nat
  frame : Option Frame
  deriving DecidableEq, Repr

/-- An open session (spec/14 R265 to R269). -/
structure Session where
  ks       : List Byte
  lastSeq  : Word
  cached   : Option TxFrame
  pending  : Option PendingCmd
  badTags  : Nat
  winPtr   : Word
  usedAt   : Nat
  recovery : Bool
  deriving DecidableEq, Repr

/-- An unfinished step 1 of OPEN (spec/14 R265, R266). -/
structure OpenStep where
  method : Byte
  nc     : List Byte
  nw     : List Byte
  at_    : Nat
  deriving DecidableEq, Repr

/-- A gable's lockout (spec/14 R267). -/
structure Lock where
  fails  : Nat
  level  : Nat
  since  : Option Nat
  deriving DecidableEq, Repr

/-- The link block (spec/14). `received` counts the accepted commands. -/
structure Purlin where
  ports : Vector PortState 2
  sess  : Vector (Vector (Option Session) 2) 8
  opens : Vector (Vector (Option OpenStep) 2) 8
  lock  : Vector Lock 8
  msgq  : Vector (List Nat) 8
  received : Nat
  deriving DecidableEq, Repr

/-- A Proof store page write begun or waiting (spec/15 R291): the page number, its 64 bytes, and the record it carries
when it is a log write. -/
structure PageWrite where
  page : Nat
  data : List Byte
  log  : Option (List Byte)
  deriving DecidableEq, Repr

/-- A running Plate update (spec/15 R288): the target slot and the image. -/
structure Update where
  slotB : Bool
  image : List Byte
  deriving DecidableEq, Repr

/-- The NVM, the Proof store outside its root, and the programmer (spec/15). -/
structure Nonvolatile where
  nvm    : Nvm
  upd    : Option Update
  proof  : Memory
  prfQ   : List PageWrite
  evHead : Nat
  dkHead : Nat
  evSeq  : BitVec 16
  dkSeq  : BitVec 16
  worn   : List Nat
  cut    : Bool
  erased : List Nat
  deriving DecidableEq, Repr

/-- A checkpoint region record (spec/15 R290). -/
structure Region where
  base  : Nat
  pages : Nat
  cred  : Word
  deriving DecidableEq, Repr

/-- A valid root copy of the Proof store (spec/15 R290). -/
structure RootCopy where
  opkHash  : List Byte
  recovery : List Byte
  arbPlate : Nat
  arbRdg   : Nat
  arbBur   : Nat
  gen      : Nat
  regions  : Vector Region 8
  deriving DecidableEq, Repr

/-- A gable descriptor (spec/15 Table PLT-3). -/
structure Desc where
  present   : Bool
  stipple   : Bool
  slackOk   : Bool
  strict    : Bool
  policy    : BitVec 2
  urg       : Nat
  budget    : Nat
  entry     : Word
  trapBase  : Word
  banks     : BitVec 16
  lines     : Nat
  boostMax  : Nat
  delay     : Nat
  limit     : Nat
  ckptPages : Nat
  svcLo     : Word
  svcHi     : Word
  svcCust   : Word
  subs      : BitVec 64
  evtEn     : BitVec 64
  win       : Vector Word 8
  engines   : BitVec 4
  groups    : BitVec 4
  wakes     : BitVec 16
  quota     : Vector Nat 4
  lcGctl    : Word
  ains      : BitVec 8
  deriving DecidableEq, Repr

/-- Purlin credentials of a gable (spec/14, "Sessions"; spec/15 Table PLT-2 KEYS). -/
inductive Cred where
  | key (k : List Byte)
  | password (salt verifier : List Byte)
  deriving DecidableEq, Repr

/-- What the Plate fixed at the last cold start and no command but COLD_START changes (spec/01 R17, spec/11 R203 and
R206): descriptors, link reserve, quantum, profile tables (RUN, IDLE, SLEEP, DEEP), credentials, the configuration shadow
(R284), the Thatch designation of banks, the booted slot and its SEQ, the checkpoint region bases; and the vendor keys
of the part. -/
structure Cfg where
  desc      : Vector Desc 8
  linkRsv   : Nat
  quantum   : Nat
  domScheme : Bool
  profiles  : Vector (BitVec 48) 4
  creds     : Vector (Option Cred) 8
  shadow    : List (Reg × Word)
  thtBanks  : BitVec 16
  slotB     : Bool
  seq       : Word
  regions   : Vector Region 8
  vendorKeys : List VendorKey
  deriving DecidableEq, Repr

/-- The stored register words that differ from their reset word. -/
abbrev RegFile := List (Reg × Word)

/-- The state of the warden. -/
structure State where
  pending : List Instr
  now     : Nat
  freeCtr : Nat
  rdata   : Word
  life    : Life
  vinMv   : Nat
  vstMv   : Nat
  vbatMv  : Nat
  vsysMv  : Nat
  regs    : RegFile
  supply  : Supply
  gutter  : Gutter
  clk     : Clocks
  power   : Power
  res     : Residency
  ridge   : Ridge
  core    : Core
  gabs    : Vector GabState 8
  frame   : SchedFrame
  cache   : Cache
  banks   : Banks
  thatch  : Thatch
  burin   : Burin
  purlin  : Purlin
  nv      : Nonvolatile
  root    : Vector (Option RootCopy) 2
  cfg     : Cfg
  deriving DecidableEq, Repr

/-! ## Reset -/

/-- A gable the Plate gives no descriptor. -/
def Desc.absent : Desc :=
  { present := false, stipple := false, slackOk := false, strict := false, policy := 0, urg := 0, budget := 0,
    entry := 0, trapBase := 0, banks := 0, lines := 0, boostMax := 0, delay := 0, limit := 0, ckptPages := 0,
    svcLo := 0, svcHi := 0, svcCust := 0, subs := 0, evtEn := 0, win := Vector.replicate 8 0, engines := 0,
    groups := 0, wakes := 0, quota := Vector.replicate 4 0, lcGctl := 0, ains := 0 }

/-- An empty region. -/
def Region.none : Region := { base := 0x40, pages := 0, cred := 0 }

/-- The configuration of a Plate that lists nothing (R284), with a QUANTUM of 1 (R312 forbids 0). -/
def Cfg.reset : Cfg :=
  { desc := Vector.replicate 8 Desc.absent, linkRsv := 0, quantum := 1, domScheme := false,
    profiles := Vector.replicate 4 0, creds := Vector.replicate 8 none, shadow := [], thtBanks := 0, slotB := false,
    seq := 0, regions := Vector.replicate 8 Region.none, vendorKeys := [] }

def Supply.reset : Supply :=
  { buck := .regulated, handover := false, brace := .released, braceAt := 0, braceTest := none, braceReal := false,
    testAt := 0, unbraces := [], stormPrior := none, avs := none, pollWait := false,
    avsSetWait := none, darkPending := false, darkShelter := false, darkRtcLost := false,
    noCell := false, vcMv := 600, vcoreDef := false }

/-- The seed island's ROM defaults (R45). -/
def SeedIsland.reset : SeedIsland := { autoSeed := false, shelter := false, target := 4, period := 30 }

def Gutter.reset : Gutter :=
  { duskArmed := false, seedAt := none, seeds := [], darkSeeds := 0, island := SeedIsland.reset }

def Clocks.reset : Clocks :=
  { xt := .idle, frc := .attempt 0, ext := .idle, trimFrozen := false, sscInForce := 0x60, rtcFrac := 0, rtcPhase := 0,
    rtcAcc := 0, rtcSetPend := none, rtcEdge := true, pclkAcc := 0, adc := Vector.replicate 8 none, adcLast := 7, adcNow := none }

def Power.reset : Power :=
  { dom := Vector.replicate 24 .on, switching := [], paused := false, preBanks := Vector.replicate 16 .on,
    greq := Vector.replicate 8 .run, gstate := .run, target := none, offAt := none, graceDone := false,
    holdAt := none,
    wakeCount := Vector.replicate 16 0, wakeOpen := Vector.replicate 16 0, wokeLevel := 0, levelDue := 0,
    wkLevel := 0, wkPin := 0, wkRun := Vector.replicate 8 0, lrcAcc := 0, slept := false,
    wakeSeen := false, tampLatch := false, tampHigh := false, tampOpen := false, heldOut := Vector.replicate 4 0,
    heldOe := Vector.replicate 4 0 }

def Residency.reset : Residency :=
  { cnt := Vector.replicate 77 0, clearedAt := 0, wrap := false, passed := 0,
    snap := Vector.replicate 8 { valid := false, cnt := Vector.replicate 77 0 } }

/-- Ridge as the boot ladle releases it: at the entry word of INIT, 0x000, with nothing on its stack; the dispatch origin
is 0x007 (spec/06 R122, Table RDG-4). -/
def RidgeCtx.reset : RidgeCtx :=
  { addr := 0, stack := [], origin := 7, routine := .dispatch, phase := .boundary }

def Refs.none : Refs := { gate := false, dom := false, pad := false }

/-- The vendor word that every Plate has: word 0x007 is DISPATCH (spec/06 Table RDG-6, check 8). -/
def dispatchWord : BitVec 128 := BitVec.ofNat 128 (8 * 2 ^ 124)

def Ridge.reset : Ridge :=
  { vendor := [(7, dispatchWord)], live := [], staging := [], ctx := RidgeCtx.reset, suspend := Option.none, refs := Refs.none,
    refsNext := Refs.none, vreqFail := false, vreqPend := false, actErr := false, lastAct := 0, slots := Vector.replicate 8 .free,
    discard := Vector.replicate 8 false, callSeq := 0, stormOut := false, duskTrig := false, domWake := false, commitAt := 0 }

/-- The context a gable starts with, but for its program counter (R152). -/
def Ctx.reset : Ctx :=
  { g := Vector.replicate 16 0, d := Vector.replicate 8 0, a := Vector.replicate 8 0, acc := Vector.replicate 2 0,
    bnk := 0, flags := 0, pc := 0, wfe := false }

def Core.reset : Core :=
  { running := none, halted := false, ilb := [], sb := [], ctx := Vector.replicate 8 Ctx.reset }

def GabState.reset : GabState :=
  { stopped := false, stopAt := 0, restartPend := false, autoCount := 0, used := 0, remain := 0, released := 0, overrun := 0,
    turn := 0, waited := 0, spent := false, slack := false, boost := none }

def SchedFrame.reset : SchedFrame :=
  { tick := 0, num := 0, rsvLeft := 0, boostSeq := 0 }

def Line.empty : Line :=
  { valid := false, tag := 0, gable := 0, dirty := false, ref := false, pf := false, bad := 0, data := 0 }

def Detector.reset : Detector := { last := none, stride := 0, count := 0 }

def Stream.reset : Stream := { line := none, bytes := 0, dir := 0, count := 0, stopped := false }

def Cache.reset : Cache :=
  { lines := Vector.replicate 48 Line.empty, recent := Vector.replicate 8 0,
    det := Vector.replicate 21 Detector.reset, stream := Vector.replicate 20 Stream.reset, winGable := none, transfers := [] }

def Banks.reset : Banks :=
  { mem := [], undef := Vector.replicate 16 none, known := [], ecc := [], wb := [], scrub := Vector.replicate 16 0,
    arb := Vector.replicate 16 [], rr := Vector.replicate 16 0, bist := none }

def Thatch.reset : Thatch :=
  { head := Vector.replicate 4 none, charge := Vector.replicate 9 (Vector.replicate 4 0),
    waits := Vector.replicate 9 none, waitSeq := 0, bad := Vector.replicate 4 0, dlost := Vector.replicate 8 false,
    tell := Vector.replicate 8 false, redo := Vector.replicate 8 false }

def Engine.reset : Engine :=
  { st := .halted, before := .halted, phase := .start, pc := 0, stack := [], shifter := 0, bitsOut := 0, bitsIn := 0,
    x := 0, crc := 0, txf := [], rxf := [], pinOut := 0, pinOe := 0, keptOut := 0, keptOe := 0, sampled := 0,
    shiftedIn := [], shiftedOut := [], autoPushed := false, swf := false, parkReq := false, synced := false }

def Burin.reset : Burin :=
  { vendor := [], live := [], staging := [], eng := Vector.replicate 4 Engine.reset, commitAt := 0 }

def PortState.reset : PortState :=
  { link := .down, head := false, rate := 0, peerRole := 0, ts1 := 0, ts2 := 0, sofs := 0, ticket := 0, sfn := 0,
    swap := .linked, swapTicket := 0, swapFor := 0, cumOut := 0, epochOut := 0, cumIn := 0, epochIn := 0, sentIn := 0,
    empty := [], fresh := 0, sinceCred := 0, act := false, regrant := false,
    reissued := false, ctl := [], data := [], wire := [], line := [], plus := false }

def Lock.reset : Lock := { fails := 0, level := 0, since := none }

def Purlin.reset : Purlin :=
  { ports := Vector.replicate 2 PortState.reset, sess := Vector.replicate 8 (Vector.replicate 2 none),
    opens := Vector.replicate 8 (Vector.replicate 2 none), lock := Vector.replicate 8 Lock.reset,
    msgq := Vector.replicate 8 [], received := 0 }

/-- An erased NVM of 2 MiB. -/
def Nvm.erased : Nvm := { sfdp := true, density := 0x200000, quad := true, addr4 := false, bytes := [] }

def Nonvolatile.reset : Nonvolatile :=
  { nvm := Nvm.erased, upd := none, proof := [], prfQ := [], evHead := 0, dkHead := 0, evSeq := 0, dkSeq := 0,
    worn := [], cut := false, erased := [] }

/-- The warden right after a cold start with a Plate that lists nothing: every register at its Reset (R3, R284), the
supplies and the profile as notes/assumptions/4.md says, no command waiting. -/
def State.reset : State :=
  { pending := [], now := 0, freeCtr := 0, rdata := 0, life := .up, vinMv := 48000, vstMv := 0, vbatMv := 0,
    vsysMv := 3300, regs := [(.supStat, 0x5), (.clkStat, 0x6)], supply := Supply.reset, gutter := Gutter.reset,
    clk := Clocks.reset, power := Power.reset, res := Residency.reset, ridge := Ridge.reset, core := Core.reset,
    gabs := Vector.replicate 8 GabState.reset, frame := SchedFrame.reset, cache := Cache.reset, banks := Banks.reset,
    thatch := Thatch.reset, burin := Burin.reset, purlin := Purlin.reset, nv := Nonvolatile.reset,
    root := Vector.replicate 2 none, cfg := Cfg.reset }

end Sys2Proof.Machine
end

