-- ==== Sys2Proof/Machine/Ops.lean ====
section
/-! DEFINITION. The named operations every family uses: bit fields, bytes, vectors, register words, error codes, fault
records, ownership, event lines, and how a command's new state is handed back. -/

namespace Sys2Proof.Machine

/-! ## Bits, bytes, vectors -/

/-- The word with ones in bits `hi` to `lo`. -/
def maskBits (hi lo : Nat) : Word := BitVec.ofNat 32 ((2 ^ (hi - lo + 1) - 1) * 2 ^ lo)

/-- Bits `hi` to `lo` of a word, as a number. -/
def bitsOf (w : Word) (hi lo : Nat) : Nat := (w.toNat / 2 ^ lo) % 2 ^ (hi - lo + 1)

/-- A word with bits `hi` to `lo` replaced by the low bits of `v`. -/
def putBits (w : Word) (hi lo v : Nat) : Word :=
  (w &&& ~~~ maskBits hi lo) ||| (BitVec.ofNat 32 (v * 2 ^ lo) &&& maskBits hi lo)

/-- The word whose only one is bit `k`. -/
def bitMask (k : Nat) : Word := BitVec.ofNat 32 (2 ^ k)

/-- Replace entry `i` of a vector. -/
def vset {α : Type} {n : Nat} (v : Vector α n) (i : Fin n) (x : α) : Vector α n := v.set i.val x i.isLt

/-- Change entry `i` of a vector. -/
def vmod {α : Type} {n : Nat} (v : Vector α n) (i : Fin n) (f : α → α) : Vector α n := vset v i (f (v[i.val]))

/-- The bytes of a number, least significant first (R2). -/
def leBytes (count v : Nat) : List Byte := (List.range count).map (fun k => BitVec.ofNat 8 (v / 256 ^ k))

/-- The number that bytes stand for, least significant first (R2). -/
def leNat : List Byte → Nat
  | [] => 0
  | b :: bs => b.toNat + 256 * leNat bs

/-- The bytes of a number, most significant first (spec/14 R258). -/
def beBytes (count v : Nat) : List Byte := (leBytes count v).reverse

/-- The number that bytes stand for, most significant first. -/
def beNat (bs : List Byte) : Nat := leNat bs.reverse

/-- A saturating increment of bits `hi` to `lo`. -/
def satInc (w : Word) (hi lo : Nat) : Word :=
  let v := bitsOf w hi lo
  if v = 2 ^ (hi - lo + 1) - 1 then w else putBits w hi lo (v + 1)

/-- Sign extension of the low `n` bits of a number, as an integer. -/
def signed (n v : Nat) : Int :=
  let v := v % 2 ^ n
  if v < 2 ^ (n - 1) then (v : Int) else (v : Int) - 2 ^ n

/-- Bytes of an access. -/
def sizeBytes : Size → Nat
  | .byte => 1
  | .half => 2
  | .word => 4

/-! ## Shared error codes (spec/00 Table SCO-5) -/

def E_OK : Byte := 0x00
def E_BUSY : Byte := 0x01
def E_RANGE : Byte := 0x02
def E_ALIGN : Byte := 0x03
def E_NOT_OWNER : Byte := 0x04
def E_FREE_TWICE : Byte := 0x05
def E_EMPTY : Byte := 0x06
def E_QUOTA : Byte := 0x07
def E_AUTH : Byte := 0x08
def E_LOCKED : Byte := 0x09
def E_DLOST : Byte := 0x0A
def E_NOSVC : Byte := 0x0B
def E_RSVD : Byte := 0x0C
def E_TIMEOUT : Byte := 0x0D
def E_VERSION : Byte := 0x0E
def E_WINDOW : Byte := 0x0F

/-- The code of the first check that fails (R13); `none` when every check passes. -/
def firstFail : List (Bool × Byte) → Option Byte
  | [] => none
  | (fails, code) :: rest => if fails then some code else firstFail rest

/-! ## Registers -/

/-- A register's word at reset: every field at its Reset, a Plate field at its default (R3, R284). -/
def Reg.reset (r : Reg) : Word :=
  r.fields.foldl (fun w f => putBits w f.hi f.lo f.dflt) 0

/-- The stored word of a register in a register file. -/
def regFind : RegFile → Reg → Option Word
  | [], _ => none
  | (q, v) :: rest, r => if q = r then some v else regFind rest r

/-- A register file with one word replaced. -/
def regPut : RegFile → Reg → Word → RegFile
  | [], r, v => [(r, v)]
  | (q, w) :: rest, r, v => if q = r then (q, v) :: rest else (q, w) :: regPut rest r v

/-- The stored word of a register; a register not in the file holds its reset word. -/
def State.reg (s : State) (r : Reg) : Word := (regFind s.regs r).getD r.reset

/-- The state with a register's stored word replaced. -/
def State.setReg (s : State) (r : Reg) (v : Word) : State := { s with regs := regPut s.regs r v }

/-- Bits of a register's stored word. -/
def State.fieldOf (s : State) (r : Reg) (hi lo : Nat) : Nat := bitsOf (s.reg r) hi lo

/-- One bit of a register's stored word. -/
def State.bitOf (s : State) (r : Reg) (k : Nat) : Bool := (s.reg r).getLsbD k

/-- Replace bits of a register. -/
def State.setField (s : State) (r : Reg) (hi lo v : Nat) : State := s.setReg r (putBits (s.reg r) hi lo v)

/-- Set the bits of a mask in a register: how hardware sets event bits (R12). -/
def State.orReg (s : State) (r : Reg) (m : Word) : State := s.setReg r (s.reg r ||| m)

/-- Clear the bits of a mask in a register. -/
def State.clearReg (s : State) (r : Reg) (m : Word) : State := s.setReg r (s.reg r &&& ~~~ m)

/-- Set or clear one bit. -/
def State.putBit (s : State) (r : Reg) (k : Nat) (b : Bool) : State :=
  if b then s.orReg r (bitMask k) else s.clearReg r (bitMask k)

/-- Increment a counter field, saturating. -/
def State.satField (s : State) (r : Reg) (hi lo : Nat) : State := s.setReg r (satInc (s.reg r) hi lo)

/-- The shadow's word for a register (R284): the value SHADOW lists, or 0. -/
def shadowFind : List (Reg × Word) → Reg → Option Word
  | [], _ => none
  | (q, v) :: rest, r => if q = r then some v else shadowFind rest r

/-- Whether a line is routed to a gable. Lines 26 to 29 have no routing item in the Plate and are routed to every gable
with a descriptor (DEDUCED, notes/assumptions/12.md). -/
def Cfg.routed (c : Cfg) (g : Gable) (line : Nat) : Bool :=
  let d := c.desc[g.val]
  d.present &&
    (if line < 16 then d.wakes.getLsbD line
     else if line < 20 then d.subs.getLsbD line
     else if line = 20 then decide (g ≠ 0)
     else if line = 21 || line = 30 || line = 31 then decide (g = 0)
     else if line < 26 then d.engines.getLsbD (line - 22)
     else if line < 30 then true
     else d.subs.getLsbD line)

/-- Bits of a 32-line half that are routed to a gable. -/
def Cfg.routedMask (c : Cfg) (g : Gable) (hiHalf : Bool) : Word :=
  (List.range 32).foldl
    (fun m k => if c.routed g (if hiHalf then 32 + k else k) then m ||| bitMask k else m) 0

/-- The word a register takes at cold start and on its domain's return from OFF (R87, R284): Plate fields from the
shadow, every other field its Reset. Event lines that are not routed to a gable stay disabled at it (spec/07 R148). -/
def Cfg.resetWord (c : Cfg) (r : Reg) : Word :=
  match shadowFind c.shadow r with
  | none => r.reset
  | some v =>
    let w := r.fields.foldl (fun w f => if f.plate then putBits w f.hi f.lo (bitsOf v f.hi f.lo) else w) r.reset
    match r with
    | .gabEvtEnLo g => w &&& c.routedMask g false
    | .gabEvtEnHi g => w &&& c.routedMask g true
    | _ => w

/-! ## Handing a command's state back -/

/-- The new state of a command. What the Plate fixed, the Proof store root, the time and the queue are those of the old
state: no command but COLD_START changes the first two (spec/01 R17, spec/11 R203 and R206, spec/15 R280), a tick alone
the third, and the queue is not the command's (notes/assumptions/11.md). -/
def State.commit (s t : State) : State :=
  { t with cfg := s.cfg, root := s.root, now := s.now, pending := s.pending }

/-- A command whose new state is `t`. -/
def done (s t : State) : Host.Outcome State Fault Refusal := .next (s.commit t)

/-- A fresh free word: the value the counter stands at, and the state with the counter moved on. -/
def State.freshWord (s : State) : Word × State := (Config.freeWord s.freeCtr, { s with freeCtr := s.freeCtr + 1 })

/-- A fresh choice between rounding down and up. -/
def State.freshRound (s : State) : Bool × State := (Config.freeRoundUp s.freeCtr, { s with freeCtr := s.freeCtr + 1 })

/-- A fresh switch drop in mV. -/
def State.freshDrop (s : State) : Nat × State := (Config.freeDropMv s.freeCtr, { s with freeCtr := s.freeCtr + 1 })

/-! ## Ownership (spec/01 R19, from the descriptors) -/

/-- The gable whose descriptor has a property, the lowest if several (R19 lets at most one). The descriptors decide, also
where SHADOW puts another owner into BNK_OWN, whose registers then show SHADOW's value (notes/assumptions/35.md). -/
def Cfg.ownerBy (c : Cfg) (p : Desc → Bool) : Option Gable :=
  (List.finRange 8).find? (fun g => c.desc[g.val].present && p c.desc[g.val])

def Cfg.bankOwner (c : Cfg) (b : BankNo) : Option Gable := c.ownerBy (fun d => d.banks.getLsbD b.val)
def Cfg.engineOwner (c : Cfg) (n : EngineNo) : Option Gable := c.ownerBy (fun d => d.engines.getLsbD n.val)
def Cfg.wakeOwner (c : Cfg) (n : Nat) : Option Gable := c.ownerBy (fun d => d.wakes.getLsbD n)
def Cfg.ainOwner (c : Cfg) (n : Nat) : Option Gable := c.ownerBy (fun d => d.ains.getLsbD n)

/-- The owner of a pad group; G0 acts for a group the Plate assigns to no gable (spec/05, "Pad groups and hold"). -/
def Cfg.groupOwner (c : Cfg) (p : PadGroup) : Gable := (c.ownerBy (fun d => d.groups.getLsbD p.val)).getD 0

/-- The gable BNK_CWIN_OWN assigns a circular window to (spec/09 R179). -/
def State.cwinOwner (s : State) (n : Fin 8) : Option Gable :=
  let v := bitsOf (s.reg .bnkCwinOwn) (4 * n.val + 3) (4 * n.val)
  if h : v < 8 then some ⟨v, h⟩ else none

/-! ## Fault records (spec/11, "Faults and restart") -/

/-- Record a code in a gable's GAB_FAULT with the address of the access. It never raises an exception. -/
def State.recordFault (s : State) (g : Gable) (code : Byte) (addr : Word) : State :=
  let w := satInc (putBits (s.reg (.gabFault g)) 7 0 code.toNat) 15 8
  (s.setReg (.gabFault g) w).setReg (.gabFaultAddr g) addr

/-! ## Domains -/

/-- The domains by name (spec/05 Table PWR-1). -/
def dCORE : Dom := 0
def dCACHE : Dom := 1
def dPOOL : Dom := 2
def dLINK : Dom := 3
def dBUR : Dom := 4
def dPRF : Dom := 5
def dOSCF : Dom := 6
def dSENS : Dom := 7
def dBK (b : BankNo) : Dom := ⟨8 + b.val, by omega⟩

/-- The domain whose switch is under way (R90): the first of the list, unless Ridge was pre-empted in the gap before it
(R112). -/
def State.switchingDom (s : State) : Option Dom :=
  if s.power.paused then none else s.power.switching.head?.map (fun w => w.dom)

/-- A domain is ON, and its switch, if one is under way, is not this domain's (PWR_DOM shows 0b00 while switching). -/
def State.domOn (s : State) (d : Dom) : Bool :=
  decide (s.power.dom[d.val] = .on) && decide (s.switchingDom ≠ some d)

/-- A bank is ON. -/
def State.bankOn (s : State) (b : BankNo) : Bool := s.domOn (dBK b)

/-! ## Event lines (spec/07 Table GRV-4, R148) -/

/-- Whether a gable has enabled a line. -/
def State.lineEnabled (s : State) (g : Gable) (line : Nat) : Bool :=
  if line < 32 then s.bitOf (.gabEvtEnLo g) line else s.bitOf (.gabEvtEnHi g) (line - 32)

/-- Whether a line is pending at a gable. -/
def State.linePending (s : State) (g : Gable) (line : Nat) : Bool :=
  if line < 32 then s.bitOf (.gabEvtPendLo g) line else s.bitOf (.gabEvtPendHi g) (line - 32)

/-- Set a gable's power request (R91). -/
def State.setGreq (s : State) (g : Gable) (r : GState) : State :=
  { s with power := { s.power with greq := vset s.power.greq g r } }

/-- The scheme is Domain (PWR_CFG.SCHEME). -/
def State.domainScheme (s : State) : Bool := s.cfg.domScheme

/-- A delivered event sets the gable's request to RUN (R91); one to G0 withdraws a request for OFF (R93). -/
def State.eventRequest (s : State) (g : Gable) : State :=
  let s := s.setGreq g .run
  if g = 0 then { s with power := { s.power with offAt := none } } else s

/-- Pend a line at a gable (R148): a routed line sets its bit; an enabled one is delivered under R91 in the Profile
scheme, which sets the request to RUN, and withdraws an OFF request of G0 with it. -/
def State.pendLine (s : State) (g : Gable) (line : Nat) : State :=
  if s.cfg.routed g line then
    let s1 := if line < 32 then s.orReg (.gabEvtPendLo g) (bitMask line)
      else s.orReg (.gabEvtPendHi g) (bitMask (line - 32))
    if s1.lineEnabled g line && !s1.domainScheme then s1.eventRequest g else s1
  else s

/-- Pend a line at every gable it is routed to. -/
def State.pendAll (s : State) (line : Nat) : State :=
  (List.finRange 8).foldl (fun t g => t.pendLine g line) s

/-- Pend a line at an owner, if there is one. -/
def State.pendOwner (s : State) (o : Option Gable) (line : Nat) : State :=
  match o with
  | none => s
  | some g => s.pendLine g line

/-- Set CLK_EVT bits, which pends line 30 at G0 (Table GRV-4). -/
def State.clkEvent (s : State) (m : Word) : State := (s.orReg .clkEvt m).pendLine 0 30

/-! ## Guards -/

/-- The warden runs after a cold start. -/
def State.up (s : State) : Bool := decide (s.life = .up)

/-- Brace holds (SUP_STAT.BRACED). -/
def State.braced (s : State) : Bool := s.bitOf .supStat 5

/-- A brace storm holds (SUP_STAT.STORM). -/
def State.storm (s : State) : Bool := s.bitOf .supStat 6

def State.vinOk (s : State) : Bool := s.bitOf .supStat 2

/-- Do `f` when the condition of an event holds; an event whose condition does not hold does not occur and leaves the
state alone (notes/assumptions/1.md). -/
def State.when (s : State) (c : Bool) (f : State → State) : State := if c then f s else s

end Sys2Proof.Machine
end

