-- ==== Sys2Proof/Machine/Flags.lean ====
section
/-! DEFINITION. The results and flags of the arithmetic of both instruction sets (spec/08 Table ISA-2, Table ISA-3, R156,
R159 to R161). -/

namespace Sys2Proof.Machine

/-! ## FLAGS (Table ISA-1): [0] C, [1] V, [2] Z, [3] N, [4] SAT, [5] AOV -/

/-- Set or clear a bit of FLAGS. -/
def putFlag (f : BitVec 6) (k : Nat) (b : Bool) : BitVec 6 :=
  if b then f ||| BitVec.ofNat 6 (2 ^ k) else f &&& ~~~ (BitVec.ofNat 6 (2 ^ k))

def flagC (f : BitVec 6) : Bool := f.getLsbD 0
def flagV (f : BitVec 6) : Bool := f.getLsbD 1
def flagZ (f : BitVec 6) : Bool := f.getLsbD 2
def flagN (f : BitVec 6) : Bool := f.getLsbD 3

/-- A sticky flag is set when its cause holds (R156). -/
def stickFlag (f : BitVec 6) (k : Nat) (b : Bool) : BitVec 6 := if b then putFlag f k true else f

/-- A result with the flags it sets; `none` leaves C or V unchanged. -/
structure AluRes where
  value : Word
  n     : Bool
  z     : Bool
  c     : Option Bool
  v     : Option Bool
  deriving DecidableEq, Repr

/-- FLAGS after a result. -/
def AluRes.flags (r : AluRes) (f : BitVec 6) : BitVec 6 :=
  let f := putFlag (putFlag f 3 r.n) 2 r.z
  let f := match r.c with
    | none => f
    | some b => putFlag f 0 b
  match r.v with
  | none => f
  | some b => putFlag f 1 b

/-- A result whose N and Z follow its value. -/
def resultOf (w : Word) (c v : Option Bool) : AluRes :=
  { value := w, n := w.msb, z := decide (w = 0), c := c, v := v }

/-- One as a number where a bit is set. -/
def carryIn (b : Bool) : Nat := if b then 1 else 0

/-- Addition: C is the carry out, V the signed overflow. -/
def addRes (a b : Word) (cin : Bool) : AluRes :=
  let sum := a.toNat + b.toNat + carryIn cin
  let w := BitVec.ofNat 32 sum
  resultOf w (some (decide (2 ^ 32 ≤ sum))) (some (decide (w.toInt ≠ a.toInt + b.toInt + carryIn cin)))

/-- Subtraction with a borrow in: C is 1 when no borrow occurs (R156). -/
def subRes (a b : Word) (bin : Bool) : AluRes :=
  let w := a - b - BitVec.ofNat 32 (carryIn bin)
  resultOf w (some (decide (b.toNat + carryIn bin ≤ a.toNat)))
    (some (decide (w.toInt ≠ a.toInt - b.toInt - carryIn bin)))

/-- Logic and moves: C and V stay. -/
def logicRes (w : Word) : AluRes := resultOf w none none

/-- Shifts by 0 to 31 (R160): C is the last bit shifted out, and stays for a count of 0. -/
def shlRes (a : Word) (n : Nat) : AluRes :=
  resultOf (a <<< n) (if n = 0 then none else some (a.getLsbD (32 - n))) none

def shrRes (a : Word) (n : Nat) : AluRes :=
  resultOf (a >>> n) (if n = 0 then none else some (a.getLsbD (n - 1))) none

def sarRes (a : Word) (n : Nat) : AluRes :=
  resultOf (a.sshiftRight n) (if n = 0 then none else some (a.getLsbD (n - 1))) none

def rorRes (a : Word) (n : Nat) : AluRes :=
  resultOf (a.rotateRight n) (if n = 0 then none else some (a.getLsbD (n - 1))) none

/-- The count of a register shift: bits [4:0] (R160). -/
def shiftCount (w : Word) : Nat := w.toNat % 32

/-- A signed value lies in a field of `n` bits. -/
def fitsSigned (n : Nat) (v : Int) : Bool := decide (-(2 ^ (n - 1)) ≤ v) && decide (v < 2 ^ (n - 1))

/-- MUL: the low 32 bits; V tells a signed product that they do not hold. -/
def mulRes (a b : Word) : AluRes := resultOf (a * b) none (some (!fitsSigned 32 (a.toInt * b.toInt)))

/-- MULHU and MULHS: the high 32 bits of the unsigned and the signed product. -/
def mulhuRes (a b : Word) : AluRes := logicRes (BitVec.ofNat 32 (a.toNat * b.toNat / 2 ^ 32))
def mulhsRes (a b : Word) : AluRes := logicRes (BitVec.ofInt 32 ((a.toInt * b.toInt).fdiv (2 ^ 32)))

/-- −2^31. -/
def minWord : Word := 0x80000000

/-- DIVS and REMS overflow (R159). -/
def divOverflows (a b : Word) : Bool := decide (a = minWord) && decide (b = BitVec.allOnes 32)

/-- Division (R159). -/
def divuRes (a b : Word) : AluRes :=
  if b = 0 then resultOf (BitVec.allOnes 32) none (some true) else resultOf (a / b) none (some false)

def divsRes (a b : Word) : AluRes :=
  if b = 0 then resultOf (BitVec.allOnes 32) none (some true)
  else if divOverflows a b then resultOf minWord none (some true)
  else resultOf (BitVec.ofInt 32 (a.toInt.tdiv b.toInt)) none (some false)

def remuRes (a b : Word) : AluRes :=
  if b = 0 then resultOf a none (some true) else resultOf (a % b) none (some false)

def remsRes (a b : Word) : AluRes :=
  if b = 0 then resultOf a none (some true)
  else if divOverflows a b then resultOf 0 none (some true)
  else resultOf (BitVec.ofInt 32 (a.toInt.tmod b.toInt)) none (some false)

/-- CMPA: flags of a 16-bit difference. -/
def cmpaFlags (a b : BitVec 16) (f : BitVec 6) : BitVec 6 :=
  let d := a - b
  putFlag (putFlag (putFlag (putFlag f 3 d.msb) 2 (decide (d = 0))) 0 (decide (b.toNat ≤ a.toNat))) 1
    (decide (d.toInt ≠ a.toInt - b.toInt))

/-! ## Conditions (Table ISA-3) -/

/-- A condition code holds; 0xF has no meaning. -/
def condHolds (c : BitVec 4) (f : BitVec 6) : Bool :=
  match c.toNat with
  | 0x0 => flagZ f
  | 0x1 => !flagZ f
  | 0x2 => flagC f
  | 0x3 => !flagC f
  | 0x4 => flagN f
  | 0x5 => !flagN f
  | 0x6 => flagV f
  | 0x7 => !flagV f
  | 0x8 => flagC f && !flagZ f
  | 0x9 => !flagC f || flagZ f
  | 0xA => flagN f == flagV f
  | 0xB => flagN f != flagV f
  | 0xC => !flagZ f && (flagN f == flagV f)
  | 0xD => flagZ f || (flagN f != flagV f)
  | 0xE => true
  | _ => false

/-! ## Accumulators (R161) -/

/-- An accumulator and FLAGS after a result: it wraps modulo 2^40, and AOV tells a true value outside the 40 bits. -/
def accRes (exact : Int) (f : BitVec 6) : BitVec 40 × BitVec 6 :=
  let w := BitVec.ofInt 40 exact
  (w, stickFlag (putFlag (putFlag f 3 w.msb) 2 (decide (w = 0))) 5 (!fitsSigned 40 exact))

/-- The product of the signed low halves of two words. -/
def macProduct (a b : Word) : Int := signed 16 a.toNat * signed 16 b.toNat

/-- ASAT: the accumulator clamped to 32 bits, and FLAGS. -/
def asatRes (acc : BitVec 40) (f : BitVec 6) : Word × BitVec 6 :=
  let v := acc.toInt
  let w : Word := if v < -(2 ^ 31) then minWord else if 2 ^ 31 ≤ v then 0x7FFFFFFF else BitVec.ofInt 32 v
  (w, stickFlag (putFlag (putFlag f 3 w.msb) 2 (decide (w = 0))) 4 (!fitsSigned 32 v))

end Sys2Proof.Machine
end

