-- ==== Sys2Proof/WellFormed.lean ====
section
/-! DEFINITION. Which commands have an encoding: a core instruction whose operands spell an undefined encoding
(spec/08) is ill-formed, and runs as UNDEFINED_ENCODING does; the operands of the other commands are plain values. -/

namespace Sys2Proof

/-- A condition code has a meaning (spec/08 Table ISA-3). -/
def condWf (c : BitVec 4) : Bool := c ≠ 0xF

/-- A Hatch load or store: modes 0b010 and 0b011 with RT = RB are undefined (spec/08 R163). -/
def HatchMode.wf (rt rb : Fin 16) : HatchMode → Bool
  | .postInc => rt ≠ rb
  | .preDec => rt ≠ rb
  | .base => true
  | .disp _ => true
  | .index _ _ => true

/-- SX is 0 for word loads and for every store (spec/08, below Table ISA-10). -/
def StippleMem.wf (load : Bool) : StippleMem → Bool
  | .short size _ sx _ _ => !sx || (load && size ≠ .word)
  | .long size sx _ _ _ => !sx || (load && size ≠ .word)

def BccForm.wf : BccForm → Bool
  | .hatch c _ => condWf c
  | .short c _ => condWf c
  | .long c _ => condWf c

/-- The immediate shifts take counts 0 to 31 (spec/08 Table ISA-10). -/
def shiftCountWf (imm : BitVec 6) : Bool := imm.toNat < 32

/-- A command whose operands spell a defined encoding. -/
def Instr.wf : Instr → Bool
  | .shli _ imm => shiftCountWf imm
  | .shri _ imm => shiftCountWf imm
  | .sari _ imm => shiftCountWf imm
  | .ldw rt rb m => m.wf rt rb
  | .ldh rt rb m => m.wf rt rb
  | .ldhu rt rb m => m.wf rt rb
  | .ldb rt rb m => m.wf rt rb
  | .ldbu rt rb m => m.wf rt rb
  | .stw rt rb m => m.wf rt rb
  | .sth rt rb m => m.wf rt rb
  | .stb rt rb m => m.wf rt rb
  | .ld f => f.wf true
  | .st f => f.wf false
  | .bcc f => f.wf
  | .registerWrite _ _ _ | .vinOkFall _ | .vinOkAssert _ | .buckInRegulation | .vinPathCarrying | .vinOvervoltage _ |
    .vinOvClear _ | .avsDisable _ | .avsSet _ | .avsResponse _ _ _ _ | .avsStatusPoll _ _ _ | .avsAttemptTimeout |
    .avsPollPeriod | .statusAlert | .brace _ | .braceComplete | .warnRelease _ | .unbrace | .stormEnd |
    .brownoutReset _ | .coldStart _ | .shelterIn _ _ | .shelterEnd _ | .shelterCellLoss | .dormantLockout _ |
    .dormantRelease _ | .gutterStart _ | .gutterStop _ | .chargeTargetReached | .permitAssert _ _ |
    .permitDeassert _ _ | .dusk _ | .duskRearm _ | .gutThrWrite _ | .automaticSeed _ _ | .seedStore _ | .seedEnd _ _ |
    .seedTimeout | .qualificationWindow _ _ | .xt32QualTimeout | .frcQualRetry | .oscMonitorWindow _ _ |
    .xt32Enable _ | .extrefEnable _ | .trimWindow _ | .trimSourceWrite _ | .sscUpdate | .clkGateWrite _ _ |
    .rtcSourceChange | .rtcSet _ | .rtcSetApply | .rtcAlarm | .moscTimerStart _ _ _ | .moscTimerStop _ _ _ |
    .moscTimerExpiry _ | .pclkTimerStart _ _ | .pclkTimerStop _ _ | .pclkTimerExpiry _ | .adcConversionRequest _ _ |
    .adcRequestComplete _ | .domainSwitchDone | .bankZeroDone _ | .warmReset _ | .padRelease _ _ | .vioLoss _ |
    .vioReturn _ | .wakePinAccept _ _ | .wkEdgeCount _ _ | .wake _ | .wakeUnmask _ _ | .linkHoldExpiry |
    .offGraceExpiry | .residencySnapshot _ _ | .residencyClear | .enterProfile _ | .setDomains _ |
    .flushCacheGable _ | .checkpoint _ | .padReleaseAssist _ | .padReleaseTimeout _ | .plateUpdate _ |
    .plateProgramDone _ | .braceTest _ | .customerService _ | .dispatch | .ridgeWord | .ridgeTokenAcquired |
    .ridgeVreqDone | .ridgeTmrDelayExpiry | .ridgeWaitCondition | .ridgeWaitTimeout | .ridgeCommit _ |
    .ridgeCommitChecked | .ridgeCommitTimeout | .storeCommit | .lineFill | .eventEntry | .gableSwitch | .frameStart |
    .budgetExhausted _ | .quantumExpiry | .boostExpiry _ | .gableRestart _ | .gableSelfRestart _ _ | .eccWriteback _ |
    .bankGrant _ | .scrubRead | .cwinWrite _ _ _ | .bankBist _ | .bistDone _ | .lcClean _ _ | .lcInvalidate _ _ |
    .lcCleanInvalidate _ _ | .alloc _ _ _ | .free _ _ | .retain _ _ | .transfer _ _ _ | .cancel _ | .thtSelWrite _ _ |
    .thatchWaitTimeout _ | .waitAck _ | .thatchSnapshot | .apertureAccess _ _ _ _ | .burinWord _ _ |
    .burinFifoWaitEnd _ _ | .burinDelayExpiry _ _ | .burinWaitCondition _ _ | .burinWaitTimeout _ _ |
    .burinParkTimeout _ | .burinCommit _ | .burinCommitChecked | .burinCommitExchange | .burinCommitTimeout |
    .burinStart _ _ _ | .burinHalt _ _ | .flushTx _ _ | .flushRx _ _ | .swfSet _ _ | .swfClr _ _ |
    .burTxfWrite _ _ _ | .burRxfRead _ _ | .burinDmaAccess _ _ | .burinDmaEnd _ _ | .ts1 _ _ _ _ | .ts2 _ _ _ _ _ |
    .sofH _ _ | .sofT _ _ | .linkTrained _ | .retrain _ | .lossOfLink _ | .superframe _ | .slp _ | .linkSleep _ |
    .lineActivity _ | .openSession _ _ | .lockoutExpiry _ | .close _ | .ping _ | .readReg _ | .writeReg _ |
    .winRead _ | .winWrite _ | .msgSend _ | .replyTimeout _ _ | .purReply _ _ | .msgqRead _ | .credit _ _ _ |
    .busyDeadline _ _ | .sessionIdleTimeout _ _ | .swap _ _ | .swapReq _ _ _ | .swapAck _ _ | .swapTimeout _ |
    .backoffEnd _ _ | .recoveryErase _ | .recoveryReboot _ | .tampStrobe _ | .undefinedEncoding | .add _ | .addc _ |
    .sub _ | .subc _ | .neg _ _ | .cmp _ | .and _ | .or _ | .xor _ | .not _ _ | .mov _ _ | .movi _ _ | .shl _ |
    .shr _ | .sar _ | .ror _ | .shi _ _ _ _ _ | .mul _ | .mulhu _ | .mulhs _ | .divu _ | .divs _ | .remu _ | .rems _ |
    .sltu _ _ _ _ | .slt _ _ _ _ | .addi _ | .subi _ _ | .andi _ | .ori _ | .xori _ | .cmpi _ | .lui _ _ |
    .movid _ _ | .movhd _ _ | .movia _ _ | .movib _ | .bra _ | .jmp _ | .call _ | .jr _ | .callr _ | .ret | .nop |
    .fence | .isync | .wfe | .trap _ | .rft | .mff _ | .mtf _ | .adda _ | .suba _ _ | .cmpa _ | .mova _ | .movd _ _ |
    .movb _ | .movdb _ | .mac _ _ _ | .msu _ _ _ | .macm _ _ _ _ | .aadd _ _ | .aaddm _ _ _ | .ash _ _ _ | .aclr _ |
    .ald _ _ | .asat _ _ | .amvl _ _ | .amvg _ _ | .aneg _ | .seedAllowanceReturn | .vbatOkRise _ | .vbatOkFall _ |
    .openCircuitSample _ _ | .moscTrimCorrection _ | .vcLimitOnset _ | .linkpllLock | .proofPageWriteDone _ |
    .residencyWrap _ | .discardedFrame _ _ | .characterViolation _ => true

end Sys2Proof
end

