-- ==== Sys2Proof/Machine/Operands.lean ====
section
/-! DEFINITION. The operand forms of both instruction sets (spec/08): which registers and immediates an instruction
takes, how long its encoding is, and which addresses it forms. -/

namespace Sys2Proof.Machine

/-! ## Forms and encodings -/

/-- The instruction set that an encoding belongs to. -/
inductive Isa where
  | hatch
  | stipple
  | both
  deriving DecidableEq, Repr

/-- An encoding: its instruction set, the bytes it takes in Stipple, and whether its operands spell a defined one. -/
structure Enc where
  isa  : Isa
  slen : Nat
  ok   : Bool
  deriving DecidableEq, Repr

/-- A Hatch encoding takes four bytes. -/
def encHatch : Enc := { isa := .hatch, slen := 2, ok := true }
/-- A 16-bit Stipple encoding. -/
def encShort : Enc := { isa := .stipple, slen := 2, ok := true }
/-- A 32-bit Stipple encoding. -/
def encLong : Enc := { isa := .stipple, slen := 4, ok := true }
/-- An encoding of the same meaning in both sets. -/
def encBoth : Enc := { isa := .both, slen := 2, ok := true }

def AluForm.enc (f : AluForm) (st : Enc) : Enc :=
  match f with
  | .hatch _ _ _ _ => encHatch
  | .stipple _ _ => st

def CmpForm.enc : CmpForm → Enc
  | .hatch _ _ => encHatch
  | .stipple _ _ => encShort

def ImmForm.enc : ImmForm → Enc
  | .hatch _ _ _ _ => encHatch
  | .short _ _ => encShort
  | .long _ _ => encLong

def CmpImmForm.enc : CmpImmForm → Enc
  | .hatch _ _ => encHatch
  | .short _ _ => encShort
  | .long _ _ => encLong

def LogicImmForm.enc : LogicImmForm → Enc
  | .hatch _ _ _ _ => encHatch
  | .long _ _ => encLong

def StippleMem.enc (f : StippleMem) (load : Bool) : Enc :=
  match f with
  | .short _ _ _ _ _ => { encShort with ok := StippleMem.wf load f }
  | .long _ _ _ _ _ => { encLong with ok := StippleMem.wf load f }

def BccForm.enc (f : BccForm) : Enc :=
  match f with
  | .hatch _ _ => { encHatch with ok := BccForm.wf f }
  | .short _ _ => { encShort with ok := BccForm.wf f }
  | .long _ _ => { encLong with ok := BccForm.wf f }

def CallForm.enc : CallForm → Enc
  | .hatch _ => encHatch
  | .short _ => encShort
  | .long _ => encLong

def RegForm.enc : RegForm → Enc
  | .hatch _ => encHatch
  | .stipple _ => encShort

/-! ## Registers -/

def Ctx.getG (c : Ctx) (i : Fin 16) : Word := c.g[i.val]
def Ctx.getD (c : Ctx) (i : Fin 8) : Word := c.d[i.val]
def Ctx.getA (c : Ctx) (i : Fin 8) : BitVec 16 := c.a[i.val]
def Ctx.getAcc (c : Ctx) (m : Fin 2) : BitVec 40 := c.acc[m.val]
def Ctx.putG (c : Ctx) (i : Fin 16) (v : Word) : Ctx := { c with g := vset c.g i v }
def Ctx.putD (c : Ctx) (i : Fin 8) (v : Word) : Ctx := { c with d := vset c.d i v }
def Ctx.putA (c : Ctx) (i : Fin 8) (v : BitVec 16) : Ctx := { c with a := vset c.a i v }
def Ctx.putAcc (c : Ctx) (m : Fin 2) (v : BitVec 40) : Ctx := { c with acc := vset c.acc m v }
def Ctx.putFlags (c : Ctx) (f : BitVec 6) : Ctx := { c with flags := f }
def Ctx.putPc (c : Ctx) (v : Word) : Ctx := { c with pc := v }

/-- Read and write the register a form names. -/
def Ctx.getR (c : Ctx) : RegForm → Word
  | .hatch r => c.getG r
  | .stipple d => c.getD d

def Ctx.putR (c : Ctx) (f : RegForm) (v : Word) : Ctx :=
  match f with
  | .hatch r => c.putG r v
  | .stipple d => c.putD d v

/-- Set FLAGS from a result where the instruction sets flags. -/
def Ctx.setFlags (c : Ctx) (sets : Bool) (r : AluRes) : Ctx := if sets then c.putFlags (r.flags c.flags) else c

/-- Sign extension to a word. -/
def sextWord {n : Nat} (v : BitVec n) : Word := BitVec.ofInt 32 v.toInt

/-- Zero extension to a word. -/
def zextWord {n : Nat} (v : BitVec n) : Word := BitVec.ofNat 32 v.toNat

/-! ## Applying an operation to a form (Table ISA-2: Hatch sets flags where S is 1, Stipple always) -/

/-- A two-operand ALU operation, which may look at FLAGS. -/
abbrev AluOp := Word → Word → BitVec 6 → AluRes

def Ctx.alu (c : Ctx) (op : AluOp) : AluForm → Ctx
  | .hatch rd ra rb sb =>
    let r := op (c.getG ra) (c.getG rb) c.flags
    (c.putG rd r.value).setFlags sb r
  | .stipple d sr =>
    let r := op (c.getD d) (c.getD sr) c.flags
    (c.putD d r.value).setFlags true r

/-- CMP. -/
def Ctx.cmp (c : Ctx) : CmpForm → Ctx
  | .hatch ra rb => c.setFlags true (subRes (c.getG ra) (c.getG rb) false)
  | .stipple d sr => c.setFlags true (subRes (c.getD d) (c.getD sr) false)

/-- An operation with an immediate; `sx` sign-extends it. -/
def Ctx.aluImm (c : Ctx) (sx : Bool) (op : AluOp) : ImmForm → Ctx
  | .hatch rd ra sb imm =>
    let r := op (c.getG ra) (if sx then sextWord imm else zextWord imm) c.flags
    (c.putG rd r.value).setFlags sb r
  | .short d imm =>
    let r := op (c.getD d) (if sx then sextWord imm else zextWord imm) c.flags
    (c.putD d r.value).setFlags true r
  | .long d imm =>
    let r := op (c.getD d) (if sx then sextWord imm else zextWord imm) c.flags
    (c.putD d r.value).setFlags true r

/-- ORI and XORI: the immediate is zero-extended. -/
def Ctx.logicImm (c : Ctx) (op : Word → Word → Word) : LogicImmForm → Ctx
  | .hatch rd ra sb imm =>
    let r := logicRes (op (c.getG ra) (zextWord imm))
    (c.putG rd r.value).setFlags sb r
  | .long d imm =>
    let r := logicRes (op (c.getD d) (zextWord imm))
    (c.putD d r.value).setFlags true r

/-- CMPI. -/
def Ctx.cmpImm (c : Ctx) : CmpImmForm → Ctx
  | .hatch ra imm => c.setFlags true (subRes (c.getG ra) (sextWord imm) false)
  | .short d imm => c.setFlags true (subRes (c.getD d) (sextWord imm) false)
  | .long d imm => c.setFlags true (subRes (c.getD d) (sextWord imm) false)

/-- A one-operand Stipple instruction: a result into a data register, with its flags. -/
def Ctx.putRes (c : Ctx) (d : Fin 8) (r : AluRes) : Ctx := (c.putD d r.value).setFlags true r

/-- The result of an immediate shift by its operation code (Table ISA-5 SHI). -/
def shiRes (op : BitVec 2) (a : Word) (n : Nat) : AluRes :=
  match op.toNat with
  | 0 => shlRes a n
  | 1 => shrRes a n
  | 2 => sarRes a n
  | _ => rorRes a n

/-! ## Addresses (R162 to R164) -/

/-- The effective address of a Hatch load or store and the context after its base write-back. -/
def Ctx.hatchEA (c : Ctx) (rb : Fin 16) (n : Nat) : HatchMode → Word × Ctx
  | .base => (c.getG rb, c)
  | .disp imm => (c.getG rb + sextWord imm, c)
  | .postInc => (c.getG rb, c.putG rb (c.getG rb + BitVec.ofNat 32 n))
  | .preDec => (c.getG rb - BitVec.ofNat 32 n, c.putG rb (c.getG rb - BitVec.ofNat 32 n))
  | .index ri sh => (c.getG rb + (c.getG ri <<< sh.toNat), c)

/-- The address of a Stipple offset: BNK selects the page. -/
def Ctx.stippleAddr (c : Ctx) (off : BitVec 16) : Word := BitVec.ofNat 32 (c.bnk.toNat * 0x10000 + off.toNat)

/-- The effective address of a Stipple access through an address register, and the context after its write-back. -/
def Ctx.stippleEA (c : Ctx) (ab : Fin 8) (n : Nat) : StippleMode → Word × Ctx
  | .base => (c.stippleAddr (c.getA ab), c)
  | .postInc => (c.stippleAddr (c.getA ab), c.putA ab (c.getA ab + BitVec.ofNat 16 n))
  | .preDec =>
    let o := c.getA ab - BitVec.ofNat 16 n
    (c.stippleAddr o, c.putA ab o)

/-- The effective address of LD and ST. -/
def Ctx.stippleMemEA (c : Ctx) : StippleMem → Word × Ctx
  | .short size mode _ _ ab => c.stippleEA ab (sizeBytes size) mode
  | .long _ _ _ ab disp => (c.stippleAddr (c.getA ab + BitVec.ofInt 16 disp.toInt), c)

def StippleMem.size : StippleMem → Size
  | .short size _ _ _ _ => size
  | .long size _ _ _ _ => size

def StippleMem.sx : StippleMem → Bool
  | .short _ _ sx _ _ => sx
  | .long _ sx _ _ _ => sx

def StippleMem.dt : StippleMem → Fin 8
  | .short _ _ _ dt _ => dt
  | .long _ _ dt _ _ => dt

/-- Loaded bytes as a word: sign-extended or zero-extended from the access size. -/
def loadWord (sx : Bool) (n v : Nat) : Word := if sx then BitVec.ofInt 32 (signed (8 * n) v) else BitVec.ofNat 32 v

end Sys2Proof.Machine
end

