-- ==== Sys2Proof/Machine/Memory.lean ====
section
/-! DEFINITION. Sparse memory in canonical form, the banks behind it with their SECDED state (spec/09), and the windows
of the gables (spec/11 R202). -/

namespace Sys2Proof.Machine

/-! ## Sparse memory -/

/-- The byte at an address of a sparse memory whose unlisted bytes read as `d`. -/
def memGet (d : Byte) : Memory → Nat → Byte
  | [], _ => d
  | (k, v) :: rest, a => if k = a then v else memGet d rest a

/-- Write a byte, keeping the addresses rising and listing no byte equal to `d`. -/
def memPut (d : Byte) : Memory → Nat → Byte → Memory
  | [], a, b => if b = d then [] else [(a, b)]
  | (k, v) :: rest, a, b =>
    if a < k then (if b = d then (k, v) :: rest else (a, b) :: (k, v) :: rest)
    else if a = k then (if b = d then rest else (a, b) :: rest)
    else (k, v) :: memPut d rest a b

/-- Write consecutive bytes. -/
def memPutAll (d : Byte) (m : Memory) (a : Nat) : List Byte → Memory
  | [] => m
  | b :: bs => memPutAll d (memPut d m a b) (a + 1) bs

/-- Read consecutive bytes. -/
def memGetAll (d : Byte) (m : Memory) (a count : Nat) : List Byte := (List.range count).map (fun k => memGet d m (a + k))

/-- Addresses rise strictly. -/
def Memory.rising : Memory → Bool
  | [] => true
  | [_] => true
  | (k, _) :: (j, w) :: rest => decide (k < j) && Memory.rising ((j, w) :: rest)

/-- The canonical form: addresses rise strictly, and no listed byte is `d`. -/
def Memory.wfBy (d : Byte) (m : Memory) : Bool := Memory.rising m && m.all (fun c => decide (c.2 ≠ d))

/-- The canonical form of bank memory and of the Proof store, whose unlisted bytes read as 0. -/
def Memory.wf (m : Memory) : Bool := Memory.wfBy 0 m

/-! ## Banks -/

/-- The bank of a bank address (spec/09, "Banks and decoding": bits [20:17]). -/
def bankOf (a : Nat) : BankNo := ⟨a / 0x20000 % 16, by omega⟩

/-- The 64-bit word of a bank address. -/
def wordOf (a : Nat) : Nat := a / 8

/-- The epoch of undefined contents that a word still has, if any (R186). -/
def Banks.undefAt (b : Banks) (w : Nat) : Option Nat :=
  if b.known.contains w then none else b.undef[(bankOf (8 * w)).val]

/-- The byte stored at a bank address. A byte that nothing has written reads as zero, or as a free value in a bank whose
contents are undefined (R186; notes/assumptions/13.md). -/
def Banks.byte (b : Banks) (a : Nat) : Byte :=
  match b.undefAt (wordOf a) with
  | none => memGet 0 b.mem a
  | some e => Config.freeByte e a

/-- The error state of a word's check bits. -/
def eccFind : List (Nat × Ecc) → Nat → Option Ecc
  | [], _ => none
  | (k, e) :: rest, w => if k = w then some e else eccFind rest w

def Banks.eccAt (b : Banks) (w : Nat) : Option Ecc :=
  match b.undefAt w with
  | none => eccFind b.ecc w
  | some e => if Config.freeUncorrectable e w then some .uncorrectable else none

/-- Set the error state of a word, or clear it. -/
def eccPut (l : List (Nat × Ecc)) (w : Nat) (e : Option Ecc) : List (Nat × Ecc) :=
  let l := l.filter (fun x => x.1 ≠ w)
  match e with
  | none => l
  | some e => (w, e) :: l

/-- Change the banks. -/
def State.setBanks (s : State) (f : Banks → Banks) : State := { s with banks := f s.banks }

/-- The eight bytes of a word. -/
def Banks.word (b : Banks) (w : Nat) : List Byte := (List.range 8).map (fun k => b.byte (8 * w + k))

/-- Write all eight bytes of a word with the error state its check bits then have. It supersedes a waiting write-back
(R168). -/
def Banks.putWord (b : Banks) (w : Nat) (bytes : List Byte) (e : Option Ecc) : Banks :=
  { b with
    mem := memPutAll 0 b.mem (8 * w) (bytes.take 8)
    known := if b.undefAt w = none then b.known else w :: b.known
    ecc := eccPut b.ecc w e
    wb := b.wb.filter (fun x => x ≠ w) }

/-- The requester codes of BNK_ECC_LAST.REQ. -/
def reqRidge : Nat := 0
def reqCache : Nat := 1
def reqThatch : Nat := 2
def reqWindow : Nat := 3
def reqDma : Nat := 4
def reqCore : Nat := 5
def reqScrub : Nat := 6

/-- Count and record an error found by a read (R168, R169). -/
def State.eccEvent (s : State) (req w : Nat) (ue : Bool) : State :=
  let b := bankOf (8 * w)
  let s := if ue then s.satField (.bnkEccCnt b) 31 16 else s.satField (.bnkEccCnt b) 15 0
  let v := putBits (putBits (putBits (s.reg .bnkEccLast) 17 0 w) 20 18 req) 21 21 (if ue then 1 else 0)
  s.setReg .bnkEccLast (v ||| bitMask 30)

/-- Read a word for a requester: its bytes, whether they are bad, and the state with the error handled: a single-bit
error is corrected and its write-back waits for an idle array cycle (R168), an uncorrectable one is marked (R169). -/
def State.bankRead (s : State) (req w : Nat) : List Byte × Bool × State :=
  let bytes := s.banks.word w
  match s.banks.eccAt w with
  | none => (bytes, false, s)
  | some .single =>
    (bytes, false, (s.eccEvent req w false).setBanks (fun b =>
      { b with wb := if b.wb.contains w then b.wb else b.wb ++ [w] }))
  | some .uncorrectable => (bytes, true, s.eccEvent req w true)

/-- The bytes of a word with those from offset `o` on replaced. -/
def splice (old : List Byte) (o : Nat) (new : List Byte) : List Byte :=
  old.take o ++ new ++ old.drop (o + new.length)

/-- Write up to eight bytes that lie in one word (R170): a whole word takes fresh check bits; a narrower write merges,
and poisons a word whose old content is uncorrectable. -/
def State.bankWrite (s : State) (a : Nat) (bytes : List Byte) : State :=
  let w := wordOf a
  if bytes.length = 8 then s.setBanks (fun b => b.putWord w bytes none)
  else
    let merged := splice (s.banks.word w) (a % 8) bytes
    if s.banks.eccAt w = some .uncorrectable then
      (s.setBanks (fun b => b.putWord w merged (some .uncorrectable))).orReg .bnkEccLast (bitMask 22)
    else s.setBanks (fun b => b.putWord w merged none)

/-- The bytes an alias store leaves (R174). -/
def aliasBytes (kind : StoreKind) (old new : List Byte) : List Byte :=
  match kind with
  | .plain => new
  | .bitSet => List.zipWith (fun o n => o ||| n) old new
  | .bitClear => List.zipWith (fun o n => o &&& ~~~ n) old new

/-- An alias store of a requester at the bank, in one grant: a read and then a write (R174); an uncorrectable read drops it
(R175). -/
def State.bankAlias (s : State) (req a : Nat) (bytes : List Byte) (kind : StoreKind) : State :=
  let w := wordOf a
  let old := (s.banks.word w).drop (a % 8)
  let merged := splice (s.banks.word w) (a % 8) (aliasBytes kind old bytes)
  match s.banks.eccAt w with
  | some .uncorrectable => (s.eccEvent req w true).orReg .bnkEccLast (bitMask 23)
  | some .single => (s.eccEvent req w false).setBanks (fun b => b.putWord w merged none)
  | none => s.setBanks (fun b => b.putWord w merged none)

/-- Whether a bank address lies in a bank. -/
def inBank (n : BankNo) (a : Nat) : Bool := decide (bankOf a = n)

/-- A bank whose every word is zero with valid check bits (R183, R186). -/
def State.zeroBank (s : State) (n : BankNo) : State :=
  s.setBanks (fun b =>
    { b with
      mem := b.mem.filter (fun c => !inBank n c.1)
      undef := vset b.undef n none
      known := b.known.filter (fun w => !inBank n (8 * w))
      ecc := b.ecc.filter (fun x => !inBank n (8 * x.1))
      wb := b.wb.filter (fun w => !inBank n (8 * w)) })

/-- A bank whose contents and check bits are undefined (R186): a new epoch of free values. -/
def State.undefBank (s : State) (n : BankNo) : State :=
  let e := s.freeCtr
  let s := { s with freeCtr := e + 1 }
  (s.zeroBank n).setBanks (fun b => { b with undef := vset b.undef n (some e) })

/-- Read bytes that may span words, as Ridge, Thatch and the ladle do, past the cache: the bytes and whether one of the
words is bad. -/
def State.bankReadMany (s : State) (req a count : Nat) : List Byte × Bool × State :=
  let first := wordOf a
  let words := wordOf (a + count - 1) + 1 - first
  let r := (List.range words).foldl
    (fun (acc : List Byte × Bool × State) k =>
      let x := acc.2.2.bankRead req (first + k)
      (acc.1 ++ x.1, acc.2.1 || x.2.1, x.2.2)) ([], false, s)
  ((r.1.drop (a % 8)).take count, r.2.1, r.2.2)

/-! ## Address map (spec/00 Table SCO-6) -/

/-- Where an address leads. -/
inductive Place where
  | bank (a : Nat) (kind : StoreKind) (isAlias : Bool) (ring : Option (Fin 8))
  | cwinBad
  | proof (off : Nat)
  | register (a : Nat)
  | ridgeStore (off : Nat)
  | burStore (off : Nat)
  | hole
  deriving DecidableEq, Repr

/-- Ring base and length in bytes of a circular window. -/
def State.ringBase (s : State) (n : Fin 8) : Nat := 8 * bitsOf (s.reg (.bnkCwin n)) 17 0
def State.ringLen (s : State) (n : Fin 8) : Nat := 8 * bitsOf (s.reg (.bnkCwin n)) 31 18

/-- Translate an address for a gable (R178, R179): a circular window that the gable may not use, or whose LEN is 0,
answers `cwinBad`. -/
def State.place (s : State) (g : Gable) (a : Nat) : Place :=
  if a < 0x200000 then .bank a .plain false none
  else if 0x02000000 ≤ a && a < 0x02200000 then .bank (a - 0x02000000) .bitSet true none
  else if 0x04000000 ≤ a && a < 0x04200000 then .bank (a - 0x04000000) .bitClear true none
  else if 0x06000000 ≤ a && a < 0x06800000 then
    let n : Fin 8 := ⟨(a - 0x06000000) / 0x100000 % 8, by omega⟩
    let len := s.ringLen n
    if s.cwinOwner n = some g && len ≠ 0 then
      .bank (s.ringBase n + (a % 0x100000) % len) .plain false (some n)
    else .cwinBad
  else if 0x10000000 ≤ a && a < 0x10010000 then .proof (a - 0x10000000)
  else if 0x40000000 ≤ a && a < 0x400C0000 then .register a
  else if 0x48000000 ≤ a && a < 0x48002000 then .ridgeStore (a - 0x48000000)
  else if 0x48800000 ≤ a && a < 0x48804000 then .burStore (a - 0x48800000)
  else .hole

/-! ## Windows (spec/11 R202) -/

/-- A right of a window. -/
inductive Right where
  | r
  | w
  | x
  deriving DecidableEq, Repr

def Right.bit : Right → Nat
  | .r => 0
  | .w => 1
  | .x => 2

/-- The page of shared window `k` of a descriptor covers an address with a right. -/
def Desc.sharedCovers (d : Desc) (k : Fin 4) (rt : Right) (a : Nat) : Bool :=
  let w0 := d.win[2 * k.val]
  let w1 := d.win[2 * k.val + 1]
  w0.getLsbD 3 && w0.getLsbD rt.bit && decide (bitsOf w0 31 12 ≤ a / 0x1000) && decide (a / 0x1000 ≤ bitsOf w1 31 12)

/-- The descriptor owns the bank of an address. -/
def Desc.owns (d : Desc) (a : Nat) : Bool := d.banks.getLsbD (bankOf a).val && decide (a < 0x200000)

/-- A gable has a right at a bank address. -/
def Cfg.may (c : Cfg) (g : Gable) (rt : Right) (a : Nat) : Bool :=
  let d := c.desc[g.val]
  d.present && decide (a < 0x200000) && (d.owns a || (List.finRange 4).any (fun k => d.sharedCovers k rt a))

/-- An access of a gable with a right reaches the bank under self-test, and waits (R183). One that faults does not; nothing
is fetched through an alias or a circular window. -/
def State.underTest (s : State) (g : Gable) (rt : Right) (a : Nat) : Bool :=
  match s.banks.bist, s.place g a with
  | some n, .bank b _ isAlias ring =>
    inBank n b && s.cfg.may g rt b && (isAlias || s.domOn dCACHE) && (decide (rt ≠ .x) || (!isAlias && ring.isNone))
  | _, _ => false

/-- Two bank addresses lie in one window of a gable, with read rights (R197, and R202 for the owned banks). -/
def Cfg.sameWindow (c : Cfg) (g : Gable) (a b : Nat) : Bool :=
  let d := c.desc[g.val]
  d.present && decide (b < 0x200000) &&
    ((d.owns a && d.owns b) || (List.finRange 4).any (fun k => d.sharedCovers k .r a && d.sharedCovers k .r b))

/-- A range of bank addresses lies wholly in a gable's windows with a right. -/
def Cfg.mayRange (c : Cfg) (g : Gable) (rt : Right) (a count : Nat) : Bool :=
  decide (a + count ≤ 0x200000) &&
    (List.range ((a + count - 1) / 0x1000 + 1 - a / 0x1000)).all (fun k => c.may g rt ((a / 0x1000 + k) * 0x1000))

end Sys2Proof.Machine
end

