-- ==== Sys2Proof/Machine/Cache.lean ====
section
/-! DEFINITION. The line cache (spec/10): lookup, fill, replacement, coherence, streaming and stride detectors,
prefetch, flushes, and the LC_ commands. -/

namespace Sys2Proof.Machine

/-- Change the cache. -/
def State.setCache (s : State) (f : Cache → Cache) : State := { s with cache := f s.cache }

/-- The requesters of spec/10, "What the cache holds". -/
inductive CacheReq where
  | fetch
  | data
  | window
  | dma (n : EngineNo)
  deriving DecidableEq, Repr

/-- The bank requester code of a non-allocating access (R193). -/
def CacheReq.bankReq : CacheReq → Nat
  | .fetch => reqCore
  | .data => reqCore
  | .window => reqWindow
  | .dma _ => reqDma

def CacheReq.det (r : CacheReq) (g : Gable) : Fin 21 :=
  match r with
  | .fetch => ⟨g.val, by omega⟩
  | .data => ⟨8 + g.val, by omega⟩
  | .window => 16
  | .dma n => ⟨17 + n.val, by omega⟩

/-- The streaming detector of a requester that stores. -/
def CacheReq.str (r : CacheReq) (g : Gable) : Fin 20 :=
  match r with
  | .fetch => ⟨g.val, by omega⟩
  | .data => ⟨g.val, by omega⟩
  | .window => ⟨8 + g.val, by omega⟩
  | .dma n => ⟨16 + n.val, by omega⟩

/-- Bytes of a line as a list, and back. -/
def lineBytes (d : BitVec 256) : List Byte := (List.range 32).map (fun i => BitVec.ofNat 8 (d.toNat / 256 ^ i))
def lineOf (bs : List Byte) : BitVec 256 := BitVec.ofNat 256 (leNat bs)

/-! ## Partitions (R191) -/

/-- First line index of a gable's partition: the sum of the counts of the gables before it. -/
def Cfg.lineBase (c : Cfg) (g : Gable) : Nat :=
  ((List.finRange 8).filter (fun h => decide (h < g))).foldl (fun n h => n + c.desc[h.val].lines) 0

def Cfg.lineCount (c : Cfg) (g : Gable) : Nat := c.desc[g.val].lines

/-- The line indices of a gable's partition. -/
def Cfg.linesOf (c : Cfg) (g : Gable) : List (Fin 48) :=
  (List.finRange 48).filter (fun i => decide (c.lineBase g ≤ i.val) && decide (i.val < c.lineBase g + c.lineCount g))

/-- The valid line that holds a line address, whatever its tag (R188: at most one). -/
def Cache.holder (c : Cache) (l : Nat) : Option (Fin 48) :=
  (List.finRange 48).find? (fun i => c.lines[i.val].valid && decide (c.lines[i.val].tag = l))

/-! ## Write-back and invalidation -/

/-- Change one line. -/
def State.setLine (s : State) (i : Fin 48) (f : Line → Line) : State :=
  s.setCache (fun c => { c with lines := vmod c.lines i f })

/-- Write a dirty line back: a bad word goes with inverted check bits (R198); the line stays valid and clean. -/
def State.cleanLine (s : State) (i : Fin 48) : State :=
  let ln := s.cache.lines[i.val]
  if ln.valid && ln.dirty then
    let bytes := lineBytes ln.data
    let s := (List.range 4).foldl
      (fun (t : State) k =>
        t.setBanks (fun b => b.putWord (4 * ln.tag + k) ((bytes.drop (8 * k)).take 8)
          (if ln.bad.getLsbD k then some .uncorrectable else none))) s
    s.setLine i (fun l => { l with dirty := false })
  else s

/-- Discard a line. -/
def State.dropLine (s : State) (i : Fin 48) : State := s.setLine i (fun _ => Line.empty)

/-- Write a line back if it is dirty, and discard it. -/
def State.flushLine (s : State) (i : Fin 48) : State := (s.cleanLine i).dropLine i

/-- Write back every dirty line; lines stay valid and clean (R118 CACHE_WB, Table SUP-4). -/
def State.cacheWriteBack (s : State) : State := (List.finRange 48).foldl (fun t i => t.cleanLine i) s

/-- Write back and discard every line. -/
def State.cacheFlushAll (s : State) : State := (List.finRange 48).foldl (fun t i => t.flushLine i) s

/-- Count one event of a cache counter, saturating (Table LC-2): 0 hit, 1 miss, 2 prefetch issued, 3 prefetch used,
4 cross-gable eviction. -/
def State.lcCount (s : State) (g : Gable) (k : Fin 5) : State := s.satField (.lcCnt g k) 31 0

/-- The coherence write-back and invalidation of R175, R189 and R190: whichever line holds the address goes, and its
gable's LC_XEVICT counts. -/
def State.evictHolder (s : State) (l : Nat) : State :=
  match s.cache.holder l with
  | none => s
  | some i => (s.flushLine i).lcCount (s.cache.lines[i.val]).gable 4

/-! ## Fills -/

/-- Clear the referenced bits of a partition but for the line referenced last (R191). -/
def State.clearRefs (s : State) (g : Gable) : State :=
  (s.cfg.linesOf g).foldl
    (fun t i => if i.val = s.cache.recent[g.val] then t else t.setLine i (fun l => { l with ref := false })) s

/-- The victim of a partition whose bits need no clearing (R191). -/
def Cache.pick (c : Cache) (part : List (Fin 48)) : Option (Fin 48) :=
  match part.find? (fun i => !c.lines[i.val].valid) with
  | some i => some i
  | none => part.find? (fun i => !c.lines[i.val].ref)

/-- The victim line of a gable (R191), with the state after the referenced bits were cleared where the rule says so. A
partition of one line, whose only line is the one referenced last, gives that line (notes/assumptions/14.md). -/
def State.victim (s : State) (g : Gable) : Option (Fin 48) × State :=
  let part := s.cfg.linesOf g
  match s.cache.pick part with
  | some i => (some i, s)
  | none =>
    let s := s.clearRefs g
    match s.cache.pick part with
    | some i => (some i, s)
    | none => (part.head?, s)

/-- Fill a line for a gable (R191, R195, R198): the victim is written back, and the line read from its bank with
single-bit errors corrected and uncorrectable words marked. `none` when the gable has no line. -/
def State.fill (s : State) (g : Gable) (l : Nat) (demand : Bool) : Option (Fin 48) × State :=
  match s.victim g with
  | (none, s) => (none, s)
  | (some i, s) =>
    let s := s.cleanLine i
    let r := (List.range 4).foldl
      (fun (acc : List Byte × BitVec 4 × State) k =>
        let x := acc.2.2.bankRead reqCache (4 * l + k)
        (acc.1 ++ x.1, if x.2.1 then acc.2.1 ||| BitVec.ofNat 4 (2 ^ k) else acc.2.1, x.2.2)) ([], 0, s)
    (some i, r.2.2.setLine i (fun _ =>
      { valid := true, tag := l, gable := g, dirty := false, ref := false, pf := !demand, bad := r.2.1,
        data := lineOf r.1 }))

/-- Mark a line referenced by a demand access; the first demand use of a prefetched line counts in LC_PF_USED
(R191, R197). -/
def State.touchLine (s : State) (g : Gable) (i : Fin 48) : State :=
  let s := if (s.cache.lines[i.val]).pf then s.lcCount g 3 else s
  (s.setLine i (fun l => { l with ref := true, pf := false })).setCache
    (fun c => { c with recent := vset c.recent g i.val })

/-- Start waiting prefetches, the oldest first, while one of the two line engines is idle (R195). -/
def startWaiting : Nat → List Transfer → List Transfer
  | _, [] => []
  | idle, t :: rest =>
    if t.started then t :: startWaiting idle rest
    else if idle = 0 then t :: startWaiting 0 rest
    else { t with started := true } :: startWaiting (idle - 1) rest

/-- The line engines that no prefetch transfer holds. -/
def Cache.idle (c : Cache) : Nat := 2 - (c.transfers.filter (fun t => t.started)).length

/-- Idle line engines take up waiting prefetches. -/
def State.startTransfers (s : State) : State :=
  s.setCache (fun c => { c with transfers := startWaiting c.idle c.transfers })

/-- Complete the oldest prefetch in transfer for which a condition holds (R195): the line comes in with its referenced bit
at 0, and its engine takes up the next. -/
def State.finishTransfer (s : State) (p : Transfer → Bool) : State :=
  match s.cache.transfers.find? (fun t => t.started && p t) with
  | none => s
  | some t =>
    let s := s.setCache (fun c => { c with transfers := c.transfers.erase t })
    (match s.cache.holder t.line with
    | some _ => s
    | none => (s.fill t.gable t.line false).2).startTransfers

/-- Drop the prefetches that have not started and for which a condition holds. -/
def State.dropWaiting (s : State) (p : Transfer → Bool) : State :=
  s.setCache (fun c => { c with transfers := c.transfers.filter (fun t => t.started || !p t) })

/-- Complete every prefetch in transfer for which a condition holds. -/
def State.finishTransfers (s : State) (p : Transfer → Bool) : State :=
  s.cache.transfers.foldl
    (fun t x => if x.started && p x then t.finishTransfer (fun y => decide (y = x)) else t) s

/-! ## Detectors -/

/-- A stride detector after a demand access to a line (R196): it trains only when the line differs from the last. -/
def Detector.train (d : Detector) (l : Nat) : Detector :=
  match d.last with
  | none => { d with last := some l }
  | some p =>
    if p = l then d
    else
      let s : Int := (l : Int) - (p : Int)
      if s.natAbs ≤ 16 then
        if s = d.stride && d.count ≠ 0 then { last := some l, stride := s, count := d.count + 1 }
        else { last := some l, stride := s, count := 1 }
      else { last := some l, stride := s, count := 0 }

/-- Whether the access trains, and does so with a confirmed stride (R196). -/
def Detector.fires (d : Detector) (l : Nat) : Bool := decide (d.last ≠ some l) && decide (3 ≤ (d.train l).count)

/-- Issue a prefetch of line `p` for a stream at line `l`, if every condition of R197 holds. -/
def State.prefetch (s : State) (g : Gable) (l : Nat) (ring : Option (Fin 8)) (p : Int) : State :=
  let q := p.toNat
  let inRing := match ring with
    | none => true
    | some n => decide (s.ringBase n ≤ 32 * q) && decide (32 * q + 32 ≤ s.ringBase n + s.ringLen n)
  if s.bitOf (.lcGctl g) 0 && decide (s.cfg.lineCount g ≠ 0) && decide (0 ≤ p) && decide (32 * q < 0x200000) &&
      s.cfg.sameWindow g (32 * l) (32 * q) && inRing && s.bankOn (bankOf (32 * q)) &&
      (s.cache.holder q).isNone && s.cache.transfers.all (fun t => decide (t.line ≠ q)) then
    ((s.setCache (fun c => { c with transfers := c.transfers ++ [⟨q, g, false⟩] })).startTransfers).lcCount g 2
  else s

/-- The window-port detector resets when the gable the port acts for changes (spec/10, "Stride detection"). -/
def State.windowGable (s : State) (r : CacheReq) (g : Gable) : State :=
  match r with
  | .window =>
    if s.cache.winGable = some g then s
    else s.setCache (fun c => { c with winGable := some g, det := vset c.det 16 Detector.reset })
  | .fetch => s
  | .data => s
  | .dma _ => s

/-- Train the requester's stride detector on a demand access, and prefetch on a confirmed stride (R196). -/
def State.train (s : State) (r : CacheReq) (g : Gable) (l : Nat) (ring : Option (Fin 8)) : State :=
  let s := s.windowGable r g
  let k := r.det g
  let d := s.cache.det[k.val]
  let t := s.setCache (fun c => { c with det := vset c.det k (d.train l) })
  if d.fires l then
    let stride := (d.train l).stride
    (List.range (s.fieldOf (.lcGctl g) 2 1 + 1)).foldl
      (fun (u : State) (j : Nat) => u.prefetch g l ring ((l : Int) + ((j : Int) + 1) * stride)) t
  else t

/-- A streaming detector after a load (R194). -/
def Stream.afterLoad (_d : Stream) : Stream := Stream.reset

/-- A mask with ones for the bytes of a line that a store writes. -/
def byteMask (o count : Nat) : BitVec 32 := BitVec.ofNat 32 ((2 ^ count - 1) * 2 ^ o)

/-- A streaming detector as a store to a line begins (R194): a store to a line other than the next one in the same
direction ends the run. -/
def Stream.begin (d : Stream) (l : Nat) : Stream :=
  let fresh : Stream := { line := some l, bytes := 0, dir := 0, count := 0, stopped := false }
  match d.line with
  | none => fresh
  | some p =>
    if d.bytes = BitVec.allOnes 32 then
      let step : Int := (l : Int) - (p : Int)
      if step.natAbs = 1 && (d.count = 1 || step = d.dir) then
        { d with line := some l, bytes := 0, dir := step }
      else fresh
    else if p = l then d
    else fresh

/-- A streaming detector after the store's bytes (R194): the store that fills the line counts it. -/
def Stream.store (d : Stream) (mask : BitVec 32) : Stream :=
  let m := d.bytes ||| mask
  if m = BitVec.allOnes 32 then
    { d with bytes := m, count := d.count + 1, stopped := decide (4 ≤ d.count + 1) }
  else { d with bytes := m }

/-! ## Demand accesses -/

/-- Bytes `o` on of a line, and whether a word among them is bad. -/
def Line.read (l : Line) (o count : Nat) : List Byte × Bool :=
  (((lineBytes l.data).drop o).take count,
    (List.range 4).any (fun k => l.bad.getLsbD k && decide (8 * k < o + count) && decide (o < 8 * k + 8)))

/-- A line after a store (R193, R198): dirty, and a bad word the store covers whole loses its mark. -/
def Line.write (l : Line) (o : Nat) (bytes : List Byte) : Line :=
  { l with
    dirty := true
    data := lineOf (splice (lineBytes l.data) o bytes)
    bad := (List.range 4).foldl
      (fun m k => if decide (o ≤ 8 * k) && decide (8 * k + 8 ≤ o + bytes.length) then m &&& ~~~ (BitVec.ofNat 4 (2 ^ k))
        else m) l.bad }

/-- A demand miss takes a line engine before any prefetch that waits: with both engines busy it waits for one transfer, and
a prefetch of its line that has not started is not made any more (R195). -/
def State.takeEngine (s : State) (l : Nat) : State :=
  let s := s.dropWaiting (fun t => decide (t.line = l))
  if s.cache.idle = 0 then s.finishTransfer (fun _ => true) else s

/-- Find the line for a demand access of gable `g` (R188, R189, R191, R192, R197): a transfer in progress for it
completes first; a hit is counted; another gable's copy goes; a miss fills where `allocate` lets it. -/
def State.demand (s : State) (g : Gable) (l : Nat) (allocate : Bool) : Option (Fin 48) × State :=
  let s := s.finishTransfer (fun t => decide (t.line = l))
  let own := match s.cache.holder l with
    | none => none
    | some i => if (s.cache.lines[i.val]).gable = g then some i else none
  match own with
  | some i => (some i, (s.lcCount g 0).touchLine g i)
  | none =>
    let s := s.evictHolder l
    if allocate && decide (s.cfg.lineCount g ≠ 0) then
      match (s.takeEngine l).fill g l true with
      | (none, s) => (none, s)
      | (some i, s) => (some i, (s.lcCount g 1).touchLine g i)
    else (none, s)

/-- A plain read by a requester (R187 to R198): its bytes, whether they are bad, and the state. A fetch or load also
ends a streaming run of the same requester. -/
def State.cacheRead (s : State) (r : CacheReq) (g : Gable) (a count : Nat) (ring : Option (Fin 8)) :
    List Byte × Bool × State :=
  let l := a / 32
  let s := match r with
    | .fetch => s
    | .data | .window | .dma _ => s.setCache (fun c => { c with stream := vmod c.stream (r.str g) Stream.afterLoad })
  let (i, s) := s.demand g l true
  let s := s.train r g l ring
  match i with
  | some i =>
    let x := (s.cache.lines[i.val]).read (a % 32) count
    (x.1, x.2, s)
  | none =>
    let x := s.bankRead r.bankReq (wordOf a)
    ((x.1.drop (a % 8)).take count, x.2.1, x.2.2)

/-- A plain store by a requester, within one 64-bit word (R193, R194). -/
def State.cacheWrite (s : State) (r : CacheReq) (g : Gable) (a : Nat) (bytes : List Byte) (ring : Option (Fin 8)) :
    State :=
  let l := a / 32
  let en := s.bitOf (.lcGctl g) 3
  let d := if en then (s.cache.stream[(r.str g).val]).begin l else Stream.reset
  let d' := if en then d.store (byteMask (a % 32) bytes.length) else d
  let s := s.setCache (fun c => { c with stream := vset c.stream (r.str g) d' })
  let (i, s) := s.demand g l (!d.stopped)
  let s := s.train r g l ring
  match i with
  | some i => s.setLine i (fun ln => ln.write (a % 32) bytes)
  | none => s.bankWrite a bytes

/-- The way to a bank address is open: its bank is ON, and CACHE too unless the access is an alias one (spec/09 R184,
R199). -/
def State.pathOn (s : State) (b : Nat) (isAlias : Bool) : Bool := s.bankOn (bankOf b) && (isAlias || s.domOn dCACHE)

/-! ## Flushes -/

/-- The engines that act for a gable. -/
def Cfg.dmaOf (c : Cfg) (g : Gable) : List EngineNo := (List.finRange 4).filter (fun n => c.engineOwner n = some g)

/-- Reset a gable's detectors (R200): core fetch and data, its engines', and the window port's while it acts for the
gable. -/
def State.resetDetectors (s : State) (g : Gable) : State :=
  let own : List CacheReq := [.fetch, .data] ++ (s.cfg.dmaOf g).map CacheReq.dma ++
    (if s.cache.winGable = some g then [.window] else [])
  let s := own.foldl (fun t r => t.setCache (fun c =>
    { c with det := vset c.det (r.det g) Detector.reset, stream := vset c.stream (r.str g) Stream.reset })) s
  s.setCache (fun c => { c with stream := vset c.stream (CacheReq.window.str g) Stream.reset })

/-- Write back and invalidate every line of a gable and reset its detectors; its transfers complete first (R200). -/
def State.flushGable (s : State) (g : Gable) : State :=
  let s := s.finishTransfers (fun t => decide (t.gable = g))
  let s := (List.finRange 48).foldl
    (fun t i => if (t.cache.lines[i.val]).valid && decide ((t.cache.lines[i.val]).gable = g) then t.flushLine i else t) s
  s.resetDetectors g

/-- The lines of a bank before it leaves ON (R185): its transfers complete, prefetches that have not started are dropped,
dirty lines are written back, and for OFF the lines are discarded. -/
def State.cacheLeaveBank (s : State) (n : BankNo) (off : Bool) : State :=
  let s := (s.dropWaiting (fun t => inBank n (32 * t.line))).finishTransfers (fun t => inBank n (32 * t.line))
  (List.finRange 48).foldl
    (fun t i =>
      let ln := t.cache.lines[i.val]
      if ln.valid && inBank n (32 * ln.tag) then (if off then t.flushLine i else t.cleanLine i) else t) s

/-- Every line invalid and every detector at count 0 with allocation permitted (R199). -/
def State.cacheClear (s : State) : State := { s with cache := Cache.reset }

/-- Bytes of a bank as a gable's line would show them: the newest value for a requester that went through R190. -/
def State.evictRange (s : State) (a count : Nat) : State :=
  (List.range ((a + count - 1) / 32 + 1 - a / 32)).foldl (fun t k => t.evictHolder (a / 32 + k)) s

/-- Write back, keeping them, the dirty lines of a gable: what the routines that read a caller's memory do first
(spec/09, "Arbitration"). -/
def State.cleanGable (s : State) (g : Gable) : State :=
  (List.finRange 48).foldl
    (fun t i => if decide ((t.cache.lines[i.val]).gable = g) then t.cleanLine i else t) s

/-! ## Commands -/

/-- What an LC_OP write does to the writer's own line at an address (R201). -/
inductive LcOp where
  | clean
  | invalidate
  | cleanInvalidate
  deriving DecidableEq, Repr

/-- LC_OP by a gable on a line address (R201): the address must be a bank address inside the writer's windows; a line
under another tag, or none, is left alone. -/
def State.lcOp (s : State) (g : Gable) (addr : Word) (op : LcOp) : State :=
  let a := addr.toNat / 32 * 32
  if !(s.cfg.may g .r a || s.cfg.may g .w a || s.cfg.may g .x a) then
    s.recordFault g E_WINDOW (BitVec.ofNat 32 (Reg.addr (.lcOp g)))
  else
    match s.cache.holder (a / 32) with
    | none => s
    | some i =>
      if (s.cache.lines[i.val]).gable ≠ g then s
      else match op with
        | .clean => s.cleanLine i
        | .invalidate => s.dropLine i
        | .cleanInvalidate => s.flushLine i

/-- LINE_FILL: the oldest prefetch in transfer completes; a demand miss completes within its own access (R195;
notes/assumptions/15.md). -/
def execLineFill (s : State) : Host.Outcome State Fault Refusal :=
  done s (s.finishTransfer (fun _ => true))

/-- ECC_WRITEBACK: the corrected word that has waited longest is written back in the bank's idle array cycle (R168); a
bank that is not ON performs nothing (R86). -/
def execEccWriteback (b : BankNo) (s : State) : Host.Outcome State Fault Refusal :=
  done s (match s.banks.wb.find? (fun w => inBank b (8 * w)) with
    | none => s
    | some w => s.when (s.bankOn b) (fun s => s.setBanks (fun k => k.putWord w (k.word w) none)))

/-- SCRUB_READ: the scrubber reads the next word of each bank that is ON (R171). -/
def execScrubRead (s : State) : Host.Outcome State Fault Refusal :=
  done s (s.when (s.up && s.bitOf .bnkScrub 0) (fun s =>
    (List.finRange 16).foldl
      (fun (t : State) n =>
        if t.bankOn n && t.banks.bist ≠ some n then
          let k := t.banks.scrub[n.val]
          let t := (t.bankRead reqScrub (0x4000 * n.val + k)).2.2
          t.setBanks (fun b => { b with scrub := vset b.scrub n ((k + 1) % 0x4000) })
        else t) s))

end Sys2Proof.Machine
end

