-- ==== Sys2Proof/Machine/Crypto.lean ====
section
/-! DEFINITION. The published functions the spec names: SHA-256 (FIPS 180-4), HMAC-SHA-256 (RFC 2104), CRC-32 (IEEE
802.3), the CRC-16 of the Proof store, and the verification of ECDSA P-256 signatures. -/

namespace Sys2Proof.Machine

/-- The greatest number whose `e`-th power is at most `n`, found from bit `bits - 1` of it downwards above `k`. -/
def rootFrom (e n : Nat) : (bits k : Nat) → Nat
  | 0, k => k
  | b + 1, k => rootFrom e n b (if (k + 2 ^ b) ^ e ≤ n then k + 2 ^ b else k)

/-- The first 32 bits of the fractional part of the `e`-th root of `p` (FIPS 180-4, sections 4.2.2 and 5.3.3). -/
def rootFraction (e p : Nat) : Word := BitVec.ofNat 32 (rootFrom e (p * 2 ^ (32 * e)) 36 0)

/-- The prime numbers below a bound of at most 361. -/
def primesBelow (bound : Nat) : List Nat :=
  (List.range bound).filter (fun p => 2 ≤ p && (List.range 19).all (fun d => d < 2 || p ≤ d || p % d != 0))

/-- The round constants: the cube roots of the first 64 primes. -/
def shaK : List Word := (primesBelow 312).map (rootFraction 3)

/-- The initial hash value: the square roots of the first eight primes. -/
def shaInit : List Word := [2, 3, 5, 7, 11, 13, 17, 19].map (rootFraction 2)

/-- The next schedule word, from the schedule so far, newest first. -/
def shaNext (w : List Word) : Word :=
  let x := w.getD 14 0
  let y := w.getD 1 0
  let s0 := x.rotateRight 7 ^^^ x.rotateRight 18 ^^^ (x >>> 3)
  let s1 := y.rotateRight 17 ^^^ y.rotateRight 19 ^^^ (y >>> 10)
  s1 + w.getD 6 0 + s0 + w.getD 15 0

/-- The 64 schedule words of a block of 16. -/
def shaSchedule (block : List Word) : List Word :=
  ((List.range 48).foldl (fun w _ => shaNext w :: w) block.reverse).reverse

/-- One round on the eight working variables. -/
def shaRound (v : List Word) (kw : Word × Word) : List Word :=
  match v with
  | [a, b, c, d, e, f, g, h] =>
    let t1 := h + (e.rotateRight 6 ^^^ e.rotateRight 11 ^^^ e.rotateRight 25) + ((e &&& f) ^^^ (~~~ e &&& g)) + kw.1 + kw.2
    let t2 := (a.rotateRight 2 ^^^ a.rotateRight 13 ^^^ a.rotateRight 22) + ((a &&& b) ^^^ (a &&& c) ^^^ (b &&& c))
    [t1 + t2, a, b, c, d + t1, e, f, g]
  | _ => v

/-- The compression of one block. -/
def shaBlock (h : List Word) (block : List Word) : List Word :=
  List.zipWith (fun x y => x + y) h ((List.zip shaK (shaSchedule block)).foldl shaRound h)

/-- Big-endian words of bytes, four bytes each. -/
def shaWords (count : Nat) (bs : List Byte) : List Word :=
  (List.range count).map (fun k => BitVec.ofNat 32 (beNat ((bs.drop (4 * k)).take 4)))

/-- The padded message. -/
def shaPad (m : List Byte) : List Byte :=
  m ++ [0x80] ++ List.replicate ((119 - m.length % 64) % 64) 0 ++ beBytes 8 (8 * m.length)

/-- SHA-256 of bytes. -/
def sha256 (m : List Byte) : List Byte :=
  let p := shaPad m
  let h := (List.range (p.length / 64)).foldl (fun h k => shaBlock h (shaWords 16 ((p.drop (64 * k)).take 64))) shaInit
  h.flatMap (fun w => beBytes 4 w.toNat)

/-- HMAC-SHA-256. -/
def hmac (key m : List Byte) : List Byte :=
  let k := if key.length > 64 then sha256 key else key
  let k := k ++ List.replicate (64 - k.length) 0
  sha256 (k.map (fun b => b ^^^ 0x5c) ++ sha256 (k.map (fun b => b ^^^ 0x36) ++ m))

/-! ## ECDSA P-256 verification (FIPS 186-5, SP 800-186) -/

/-- The field prime, the coefficient `b` of the curve `y^2 = x^3 - 3 x + b`, and the order of its base point. -/
def p256P : Nat := 2 ^ 256 - 2 ^ 224 + 2 ^ 192 + 2 ^ 96 - 1
def p256B : Nat := 0x5AC635D8AA3A93E7B3EBBD55769886BC651D06B0CC53B0F63BCE3C3E27D2604B
def p256N : Nat := 0xFFFFFFFF00000000FFFFFFFFFFFFFFFFBCE6FAADA7179E84F3B9CAC2FC632551

/-- A power modulo `m`, over the low `bits` bits of the exponent. -/
def powMod (m : Nat) : (bits b e : Nat) → Nat
  | 0, _, _ => 1 % m
  | k + 1, b, e =>
    let r := powMod m k (b * b % m) (e / 2)
    if e % 2 = 1 then b * r % m else r

/-- The inverse modulo a 256-bit prime. -/
def inverseMod (m a : Nat) : Nat := powMod m 256 (a % m) (m - 2)

/-- A point in Jacobian coordinates; `z = 0` is the point at infinity. -/
structure JPoint where
  x : Nat
  y : Nat
  z : Nat
  deriving DecidableEq, Repr

/-- Subtraction in the field. -/
def subP (a b : Nat) : Nat := (a + (p256P - b % p256P)) % p256P

def p256Base : JPoint :=
  { x := 0x6B17D1F2E12C4247F8BCE6E563A440F277037D812DEB33A0F4A13945D898C296
    y := 0x4FE342E2FE1A7F9B8EE7EB4A7C0F9E162BCE33576B315ECECBB6406837BF51F5
    z := 1 }

/-- Twice a point. -/
def JPoint.double (q : JPoint) : JPoint :=
  let yy := q.y * q.y % p256P
  let s := 4 * q.x * yy % p256P
  let zz := q.z * q.z % p256P
  let m := 3 * (subP q.x zz) * (q.x + zz) % p256P
  let x := subP (m * m) (2 * s)
  { x := x, y := subP (m * subP s x) (8 * yy * yy), z := 2 * q.y * q.z % p256P }

/-- The sum of two points. -/
def JPoint.add (q r : JPoint) : JPoint :=
  if q.z = 0 then r
  else if r.z = 0 then q
  else
    let zq := q.z * q.z % p256P
    let zr := r.z * r.z % p256P
    let u := q.x * zr % p256P
    let s := q.y * zr * r.z % p256P
    let h := subP (r.x * zq) u
    let d := subP (r.y * zq * q.z) s
    if h = 0 then (if d = 0 then q.double else { x := 1, y := 1, z := 0 })
    else
      let hh := h * h % p256P
      let v := u * hh % p256P
      let x := subP (d * d) (hh * h + 2 * v)
      { x := x, y := subP (d * subP v x) (s * hh * h), z := h * q.z * r.z % p256P }

/-- A multiple of a point, over the low `bits` bits of the factor. -/
def JPoint.times (q : JPoint) : (bits k : Nat) → JPoint
  | 0, _ => { x := 1, y := 1, z := 0 }
  | n + 1, k => let r := (q.times n (k / 2)).double
    if k % 2 = 1 then r.add q else r

/-- ECDSA P-256 with SHA-256: a signature of 64 bytes over a message, under a public key of 64 bytes. -/
def ecdsaOk (key m sig : List Byte) : Bool :=
  let q : JPoint := { x := beNat (key.take 32), y := beNat (key.drop 32), z := 1 }
  let r := beNat (sig.take 32)
  let s := beNat (sig.drop 32)
  let w := inverseMod p256N s
  let t := (p256Base.times 256 (beNat (sha256 m) * w % p256N)).add (q.times 256 (r * w % p256N))
  let zi := inverseMod p256P t.z
  decide (key.length = 64) && decide (sig.length = 64) && decide (q.x < p256P) && decide (q.y < p256P) &&
    decide (q.y * q.y % p256P = subP (q.x * q.x * q.x + p256B) (3 * q.x)) &&
    decide (1 ≤ r) && decide (r < p256N) && decide (1 ≤ s) && decide (s < p256N) &&
    decide (t.z ≠ 0) && decide (t.x * zi % p256P * zi % p256P % p256N = r)

/-- One bit of CRC-32, reflected. -/
def crc32Bit (c : Word) : Word := if c.getLsbD 0 then (c >>> 1) ^^^ 0xEDB88320 else c >>> 1

/-- CRC-32 with the IEEE 802.3 polynomial. -/
def crc32 (m : List Byte) : Word :=
  ~~~ (m.foldl (fun c b => (List.range 8).foldl (fun c _ => crc32Bit c) (c ^^^ b.setWidth 32)) 0xFFFFFFFF)

/-- CRC-16 with polynomial 0x1021 and start 0xFFFF (spec/15 R291). -/
def crc16 (m : List Byte) : BitVec 16 :=
  m.foldl (fun c b => (List.range 8).foldl
    (fun c _ => if c.getLsbD 15 then (c <<< (1 : Nat)) ^^^ 0x1021 else c <<< (1 : Nat)) (c ^^^ ((b.setWidth 16 : BitVec 16) <<< (8 : Nat)))) 0xFFFF

end Sys2Proof.Machine
end

