-- ==== Sys2Proof/Machine/Gates.lean ====
section
/-! DEFINITION. The clock gate tree (spec/04, "The gate tree"): parents, busy conditions, and refusals. -/

namespace Sys2Proof.Machine

/-- The parent of a gate (Table CLK-3). -/
def gateParent (k : Nat) : Option Nat :=
  match k with
  | 0 => none
  | 1 => some 0
  | 2 => some 1
  | 3 => some 2
  | 4 => some 2
  | 5 => some 2
  | 6 => some 2
  | 7 => some 1
  | 8 => some 1
  | 9 => some 1
  | 10 => some 1
  | 11 => some 1
  | 12 => some 0
  | 13 => some 12
  | 14 => some 12
  | 15 => some 1
  | _ => none

/-- The gate of a CLKG slot (Table CLK-3). -/
def clkgGate (slot : Nat) : Nat :=
  match slot with
  | 0 => 0
  | 1 => 1
  | 2 => 2
  | 3 => 7
  | 4 => 8
  | 5 => 9
  | 6 => 10
  | _ => 12

/-- The ancestors of a gate, nearest first. -/
def gateAncestors (k : Nat) : List Nat :=
  match gateParent k with
  | none => []
  | some a =>
    match gateParent a with
    | none => [a]
    | some b =>
      match gateParent b with
      | none => [a, b]
      | some c => [a, b, c]

/-- The enable bit of a gate. -/
def State.gateEn (s : State) (k : Nat) : Bool := s.bitOf .clkGate k

/-- FRC runs while OSCF is ON; once qualified it feeds the gate tree (R66). -/
def State.frcRuns (s : State) : Bool := s.domOn dOSCF

/-- Change the clock block. -/
def State.setClk (s : State) (f : Clocks → Clocks) : State := { s with clk := f s.clk }

/-- The qualification of FRC begins: its reference is XT32 when that is qualified and CLK_CFG lets it (R66). -/
def State.frcBegin (s : State) : State :=
  (s.putBit .clkStat 7 (s.bitOf .clkStat 0 && !s.bitOf .clkCfg 2)).setClk (fun c => { c with frc := .attempt 0 })

/-- A gate's clock runs: FRC is qualified, and the gate and every gate above it are enabled (R66, R73). -/
def State.gateRuns (s : State) (k : Nat) : Bool :=
  s.frcRuns && s.bitOf .clkStat 3 && s.gateEn k && (gateAncestors k).all (fun a => s.gateEn a)

/-- A PCLK timer counts. -/
def State.pclkCounting (s : State) : Bool := (List.finRange 8).any (fun g => s.bitOf (.tmrFCtl g) 3)

/-- A gate meets its busy condition (Table CLK-3). A Thatch operation is one command, so no state shows one in
progress. Whether a parked engine counts is a free value (R243 and the table differ, notes/assumptions/20.md). -/
def State.gateBusy (s : State) (k : Nat) : Bool :=
  if h : 3 ≤ k ∧ k ≤ 6 then
    match (s.burin.eng[k - 3]'(by omega)).st with
    | .halted => false
    | .parked => Config.parkedBusy
    | .running => true
    | .fifoWait => true
    | .waitWord => true
    | .permitGate => true
    | .commitHold => true
  else if k = 7 then s.domOn dSENS && (List.finRange 8).any (fun g => (s.clk.adc[g.val]).isSome)
  else if k = 8 then s.bitOf .supStat 9
  else if k = 9 then s.nv.upd.isSome
  else if k = 11 then s.pclkCounting
  else if k = 13 then decide ((s.purlin.ports[0]).link = .trained)
  else if k = 14 then decide ((s.purlin.ports[1]).link = .trained)
  else false

/-- The gates between a gate and its ancestor `p`, nearest the gate first; `none` when `p` is not above it. -/
def gatesBetween (p : Nat) (k : Nat) : Option (List Nat) :=
  let up := gateAncestors k
  if up.contains p then some (up.takeWhile (fun a => a ≠ p)) else none

/-- The lowest-numbered enabled busy gate below a gate (R72): every gate between the two is enabled. -/
def State.busyBelow (s : State) (p : Nat) : Option Nat :=
  (List.range 16).find? (fun k =>
    s.gateEn k && s.gateBusy k &&
      (match gatesBetween p k with
      | none => false
      | some mid => mid.all (fun a => s.gateEn a)))

/-- The refusal that disabling gates meets, judged on the state before the change: the lowest-numbered refused gate and
its lowest busy child (R72). -/
def State.gateRefusal (s : State) (disable : List Nat) : Option (Nat × Nat) :=
  ((List.range 16).filter (fun p => disable.contains p && s.gateEn p)).findSome? (fun p =>
    (s.busyBelow p).map (fun c => (p, c)))

/-- Record a refused gate change (R72): `who` is a gable's number, or 8 for Ridge. -/
def State.recordGateRefusal (s : State) (p c who : Nat) : State :=
  let w := putBits (putBits (putBits (s.reg .clkGateRefused) 7 4 c) 11 8 p) 15 12 who
  (s.setReg .clkGateRefused (w ||| bitMask 0)).clkEvent (bitMask 9)

/-- The gates that a new enable word disables. -/
def State.disabledBy (s : State) (en : Word) : List Nat :=
  (List.range 16).filter (fun k => s.gateEn k && !en.getLsbD k)

end Sys2Proof.Machine
end

