-- ==== Sys2Proof/Machine/RidgeBase.lean ====
section
/-! DEFINITION. Microcode stores and how a Ridge service ends (spec/06 R110, R121, R122, R126, R134). -/

namespace Sys2Proof.Machine

/-- Change Ridge. -/
def State.setRidge (s : State) (f : Ridge → Ridge) : State := { s with ridge := f s.ridge }

/-- The word of a store; a word not listed is zero. -/
def Store.word : Store → Nat → BitVec 128
  | [], _ => 0
  | (k, v) :: rest, a => if k = a then v else Store.word rest a

/-- Replace a word of a store, keeping the numbers rising and listing no zero word. -/
def Store.put : Store → Nat → BitVec 128 → Store
  | [], a, v => if v = 0 then [] else [(a, v)]
  | (k, w) :: rest, a, v =>
    if a < k then (if v = 0 then (k, w) :: rest else (a, v) :: (k, w) :: rest)
    else if a = k then (if v = 0 then rest else (a, v) :: rest)
    else (k, w) :: Store.put rest a v

/-- Bits of a microword, as a number. -/
def ubits (w : BitVec 128) (hi lo : Nat) : Nat := (w.toNat / 2 ^ lo) % 2 ^ (hi - lo + 1)

/-- The 32-bit word `k` of a microword (R2). -/
def uword (w : BitVec 128) (k : Nat) : Word := BitVec.ofNat 32 (w.toNat / 2 ^ (32 * k))

/-- A microword with its 32-bit word `k` replaced. -/
def uputWord (w : BitVec 128) (k : Nat) (v : Word) : BitVec 128 :=
  let clear := BitVec.ofNat 128 ((2 ^ 32 - 1) * 2 ^ (32 * k))
  (w &&& ~~~ clear) ||| BitVec.ofNat 128 (v.toNat * 2 ^ (32 * k))

/-- The bytes of consecutive words of a store, each in the byte order of R2. -/
def Store.bytes (st : Store) (first count : Nat) : List Byte :=
  (List.range count).flatMap (fun k => leBytes 16 (st.word (first + k)).toNat)

/-- Change Ridge's routine. -/
def State.setCtx (s : State) (f : RidgeCtx → RidgeCtx) : State := s.setRidge (fun r => { r with ctx := f r.ctx })

/-- Ridge goes on at the dispatch origin with an empty stack (R122): the DISPATCH word there is the next that executes. -/
def RidgeCtx.idle (c : RidgeCtx) : RidgeCtx :=
  { addr := c.origin, stack := [], origin := c.origin, routine := .dispatch, phase := .boundary }

/-- A completed call shows its code and frees the slot (R126); the result of a caller that was reset meanwhile is
discarded (R134). -/
def State.completeCall (s : State) (g : Gable) (code : Byte) : State :=
  let lost := s.ridge.discard[g.val]
  let s := s.setRidge (fun r => { r with slots := vset r.slots g .free, discard := vset r.discard g false })
  if lost then s.setReg (.rdgResult g) 0
  else s.setReg (.rdgResult g) (putBits (s.reg (.rdgResult g)) 7 0 code.toNat ||| bitMask 16)

/-- Whether a routine is a gable's service. -/
def Routine.isServiceOf (r : Routine) (g : Gable) : Bool :=
  match r with
  | .service h _ => h = g
  | .dispatch => false
  | .init => false
  | .trigger _ => false

/-- A gable's service ends with a code. If Ridge is suspended, the service ends when it is resumed (spec/02, Hard
corners). -/
def State.endService (s : State) (g : Gable) (code : Byte) : State :=
  if s.ridge.ctx.routine.isServiceOf g then (s.completeCall g code).setCtx RidgeCtx.idle
  else match s.ridge.suspend with
    | none => s
    | some c =>
      if c.routine.isServiceOf g then
        s.setRidge (fun r => { r with suspend := some { c with phase := .finish code } })
      else s

/-- A service of gable `g` numbered `n` runs, and stands at its beginning. -/
def State.serviceBegins (s : State) (g : Gable) (n : Byte) : Bool :=
  decide (s.ridge.ctx.routine = .service g n) && decide (s.ridge.ctx.phase = .boundary) &&
    decide (s.ridge.slots[g.val] = .running n)

/-- A service of gable `g` numbered `n` waits within the work that the warden completes as a whole. -/
def State.serviceWaits (s : State) (g : Gable) (n : Byte) : Bool :=
  decide (s.ridge.ctx.routine = .service g n) && decide (s.ridge.ctx.phase = .native)

/-- Leave a service waiting within its work. -/
def State.serviceWait (s : State) : State := s.setCtx (fun c => { c with phase := .native })

end Sys2Proof.Machine
end

