-- ==== Sys2Proof/Machine/Burin.lean ====
section
/-! DEFINITION. The Burin shift engines (spec/13): words, SYNC checks, parks, FIFOs, DMA, and the commit of the customer
region. -/

namespace Sys2Proof.Machine

/-- Change Burin. -/
def State.setBurin (s : State) (f : Burin → Burin) : State := { s with burin := f s.burin }

def State.engine (s : State) (n : EngineNo) : Engine := s.burin.eng[n.val]

def State.setEngine (s : State) (n : EngineNo) (f : Engine → Engine) : State :=
  s.setBurin (fun b => { b with eng := vmod b.eng n f })

/-! ## The fields of a word (Table BUR-1) -/

def burNxt (w : BitVec 128) : Nat := ubits w 111 108
def burCond (w : BitVec 128) : Nat := ubits w 107 103
def burTarget (w : BitVec 128) : Nat := ubits w 102 93
def burPinOut (w : BitVec 128) : Nat := ubits w 92 85
def burPinOe (w : BitVec 128) : Nat := ubits w 84 77
def burSample (w : BitVec 128) : Nat := ubits w 76 69
def burShift (w : BitVec 128) : Nat := ubits w 68 63
def burSmode (w : BitVec 128) : Nat := ubits w 62 61
def burDelay (w : BitVec 128) : Nat := ubits w 60 45
def burFifop (w : BitVec 128) : Nat := ubits w 44 37
def burCmpv (w : BitVec 128) : Nat := ubits w 36 21
def burCrcop (w : BitVec 128) : Nat := ubits w 20 13
def burEvt (w : BitVec 128) : Nat := ubits w 12 7
def burTxOp (w : BitVec 128) : Nat := burFifop w % 4
def burRxOp (w : BitVec 128) : Nat := burFifop w / 4 % 4
def burXOp (w : BitVec 128) : Nat := burFifop w / 16 % 4
def burAuto (w : BitVec 128) : Bool := burFifop w / 64 % 2 = 1
def burShiftsOut (w : BitVec 128) : Bool := burSmode w = 1 || burSmode w = 3
def burShiftsIn (w : BitVec 128) : Bool := burSmode w = 2 || burSmode w = 3

/-- The NXT codes of Table RDG-2 that Burin shares (R241), and SYNC. -/
def burNxtWait : Nat := 6
def burNxtHalt : Nat := 7
def burNxtSync : Nat := 8

/-- The slots set in a byte, ascending. -/
def slotsOf (v : Nat) : List Nat := (List.range 8).filter (fun k => v / 2 ^ k % 2 = 1)

/-! ## Word checks (Table BUR-3, R242) -/

/-- The first check of Table BUR-3 that a word at an address fails; 0 when it fails none. -/
def burCheck (a : Nat) (w : BitVec 128) : Nat :=
  let nxt := burNxt w
  let jumps := nxt = 1 || nxt = 2 || nxt = 3 || nxt = 4 || nxt = 6
  let onward := nxt = 0 || nxt = 2 || nxt = 3 || nxt = 4 || nxt = 6 || nxt = 8
  if ubits w 6 0 ≠ 0 then 1
  else if 9 ≤ nxt then 2
  else if 0x16 ≤ burCond w then 3
  else if decide (burShift w = 0) != decide (burSmode w = 0) then 4
  else if burShiftsIn w && burSample w ≠ 0 && decide ((slotsOf (burSample w)).length < burShift w) then 5
  else if 128 ≤ burFifop w || burTxOp w = 3 || burRxOp w = 3 || burXOp w = 3 then 6
  else if 8 ≤ burCrcop w || burCrcop w % 4 = 3 then 7
  else if 0x20 ≤ burEvt w then 8
  else if jumps && decide (burTarget w / 512 ≠ a / 512) then 9
  else if (a = 511 || a = 1023) && onward then 10
  else 0

/-- The lowest failing word of a range of a store, with its cause. -/
def burFirstBad (st : Store) (first count : Nat) : Option (Nat × Nat) :=
  (List.range count).findSome? (fun k =>
    let c := burCheck (first + k) (st.word (first + k))
    if c = 0 then none else some (first + k, c))

/-- The digest that identifies a customer region (R246): the first four bytes of the SHA-256 of its window bytes. -/
def burDigest (st : Store) : Word := BitVec.ofNat 32 (beNat ((sha256 (st.bytes 512 512)).take 4))

/-- The word that an engine executes at an address: the vendor region, or the live customer bank. -/
def Burin.wordAt (b : Burin) (a : Nat) : BitVec 128 := if a < 512 then b.vendor.word a else b.live.word a

/-! ## Registers the engine works with -/

/-- OBITS and IBITS code 32 as 0. -/
def bitsField (v : Nat) : Nat := if v = 0 then 32 else v

def State.burObits (s : State) (n : EngineNo) : Nat := bitsField (s.fieldOf (.burCfg n) 21 17)
def State.burIbits (s : State) (n : EngineNo) : Nat := bitsField (s.fieldOf (.burCfg n) 26 22)
def State.burLsbf (s : State) (n : EngineNo) : Bool := s.bitOf (.burCfg n) 16

/-- The PINMAP byte of a slot. -/
def State.pinMap (s : State) (n : EngineNo) (k : Nat) : Nat :=
  let w := if k < 4 then s.reg (.burPinmap0 n) else s.reg (.burPinmap1 n)
  bitsOf w (8 * (k % 4) + 7) (8 * (k % 4))

/-- A slot is mapped to a pad. -/
def State.slotMapped (s : State) (n : EngineNo) (k : Nat) : Bool := 128 ≤ s.pinMap n k

/-- The slots of an engine that are mapped; an unmapped slot samples 0 (R235). -/
def State.mappedSlots (s : State) (n : EngineNo) : Byte :=
  (List.range 8).foldl (fun m k => if s.slotMapped n k then m ||| BitVec.ofNat 8 (2 ^ k) else m) 0

/-- Slots from OUT_BASE on, OUT_W of them (R238). -/
def State.outSlots (s : State) (n : EngineNo) : List Nat :=
  let base := s.fieldOf (.burPincfg n) 2 0
  (List.range (s.fieldOf (.burPincfg n) 6 3)).map (fun i => base + i)

def State.xmitOk (s : State) : Bool := s.bitOf .gutStat 1
def State.measOk (s : State) : Bool := s.bitOf .gutStat 0

/-- Put or clear a bit of a byte. -/
def byteBit (b : Byte) (k : Nat) (v : Bool) : Byte :=
  if v then b ||| BitVec.ofNat 8 (2 ^ k) else b &&& ~~~ (BitVec.ofNat 8 (2 ^ k))

/-! ## Phase 2: pulls -/

/-- Take a word for the shifter (R239). -/
def Engine.pull (e : Engine) (lsbf : Bool) (obits : Nat) : Engine :=
  match e.txf with
  | [] => e
  | w :: rest =>
    { e with
      txf := rest
      shifter := if lsbf then w else w <<< (32 - obits)
      bitsOut := BitVec.ofNat 6 obits }

/-- Take a word for X. -/
def Engine.pullX (e : Engine) : Engine :=
  match e.txf with
  | [] => e
  | w :: rest => { e with txf := rest, x := w.setWidth 16 }

/-! ## Phase 3: output -/

/-- Shift one bit out (R239): it is 0 once BITS_OUT is 0. -/
def Engine.shiftOut1 (e : Engine) (lsbf : Bool) : Engine :=
  let b := if e.bitsOut = 0 then false else if lsbf then e.shifter.getLsbD 0 else e.shifter.getLsbD 31
  { e with
    shifter := if lsbf then e.shifter >>> 1 else e.shifter <<< 1
    bitsOut := if e.bitsOut = 0 then 0 else e.bitsOut - 1
    shiftedOut := e.shiftedOut ++ [b] }

def Engine.shiftOut (e : Engine) (lsbf : Bool) : Nat → Engine
  | 0 => e
  | n + 1 => (e.shiftOut1 lsbf).shiftOut lsbf n

/-- The pins' state from the word and the bits shifted out (R238). -/
def Engine.drive (e : Engine) (w : BitVec 128) (outs : List Nat) : Engine :=
  let plain := (List.range 8).foldl
    (fun (p : Byte) k => if outs.contains k then p else byteBit p k (burPinOut w / 2 ^ k % 2 = 1)) e.pinOut
  let shifted := (List.zip outs e.shiftedOut).foldl (fun (p : Byte) x => byteBit p x.1 x.2) plain
  { e with pinOut := shifted, pinOe := BitVec.ofNat 8 (burPinOe w), keptOut := e.pinOut, keptOe := e.pinOe }

/-- A wait in phase 6 begins or ends: while it lasts, the pins keep the state they had before the word (R237). -/
def Engine.swapPins (e : Engine) : Engine :=
  { e with pinOut := e.keptOut, pinOe := e.keptOe, keptOut := e.pinOut, keptOe := e.pinOe }

/-! ## Phase 5: input -/

/-- Shift one bit in. The positions were already freed when the word also shifts out (notes/assumptions/18.md). -/
def Engine.shiftIn1 (e : Engine) (lsbf : Bool) (b : Bool) : Engine :=
  let moved := if lsbf then e.shifter >>> 1 else e.shifter <<< 1
  let bit : Word := if b then (if lsbf then 0x80000000 else 1) else 0
  { e with
    shifter := moved ||| bit
    bitsIn := if e.bitsIn.toNat < 32 then e.bitsIn + 1 else 32
    shiftedIn := e.shiftedIn ++ [b] }

/-- The bits that a word shifts in: from the slots of SAMPLE in ascending order, or zeros (R239). -/
def burInBits (w : BitVec 128) (sampled : Byte) : List Bool :=
  if burSample w = 0 then List.replicate (burShift w) false
  else ((slotsOf (burSample w)).take (burShift w)).map (fun k => sampled.getLsbD k)

/-- Undo the movement of a word's shift out, so that its shift in does not move the shifter twice. -/
def Engine.unmove (e : Engine) (lsbf : Bool) (count : Nat) : Engine :=
  { e with shifter := if lsbf then e.shifter <<< count else e.shifter >>> count }

/-- Phase 5 (R237): sample the pins and shift in. -/
def Engine.sample (e : Engine) (w : BitVec 128) (lsbf : Bool) (levels : Byte) : Engine :=
  let e : Engine := { e with sampled := levels }
  if burShiftsIn w then
    let bits := burInBits w levels
    let e := if burShiftsOut w then e.unmove lsbf bits.length else e
    bits.foldl (fun (e : Engine) b => e.shiftIn1 lsbf b) e
  else e

/-! ## Phase 6: pushes -/

/-- The shifter right-aligned to IBITS (R239). -/
def Engine.aligned (e : Engine) (lsbf : Bool) (ibits : Nat) : Word :=
  if lsbf then e.shifter >>> (32 - ibits) else e.shifter &&& BitVec.ofNat 32 (2 ^ ibits - 1)

def Engine.push (e : Engine) (v : Word) (clear : Bool) : Engine :=
  { e with rxf := e.rxf ++ [v], bitsIn := if clear then 0 else e.bitsIn }

/-- A word's shift-in under AUTO brings BITS_IN, `before` it, to IBITS (notes/assumptions/18.md). -/
def Engine.autoDue (e : Engine) (w : BitVec 128) (before ibits : Nat) : Bool :=
  burShiftsIn w && burAuto w && decide (before < ibits) && decide (ibits ≤ e.bitsIn.toNat)

/-! ## Phase 7: CRC, X, EVT -/

/-- Bits of a word in reverse order, over a width. -/
def reflect (width : Nat) (v : Nat) : Nat :=
  (List.range width).foldl (fun r k => 2 * r + v / 2 ^ k % 2) 0

/-- Fold one bit into the CRC register (R240). -/
def crcBit (width poly : Nat) (refl : Bool) (c : Nat) (b : Bool) : Nat :=
  let bn := if b then 1 else 0
  if refl then
    let fb := (c + bn) % 2
    let sh := c / 2
    if fb = 1 then sh ^^^ reflect width poly else sh
  else
    let fb := (c / 2 ^ (width - 1) + bn) % 2
    let sh := (2 * c) % 2 ^ width
    if fb = 1 then sh ^^^ (poly % 2 ^ width) else sh

/-- The CRC width of an engine. -/
def State.crcWidth (s : State) (n : EngineNo) : Nat :=
  match s.fieldOf (.burCrcCfg n) 1 0 with
  | 0 => 8
  | 1 => 16
  | _ => 32

/-- CRCOP (Table BUR-1). -/
def State.burCrc (s : State) (n : EngineNo) (w : BitVec 128) : State :=
  let width := s.crcWidth n
  match burCrcop w % 4 with
  | 1 => s.setEngine n (fun e => { e with crc := BitVec.ofNat 32 ((s.reg (.burCrcInit n)).toNat % 2 ^ width) })
  | 2 =>
    let poly := (s.reg (.burCrcPoly n)).toNat % 2 ^ width
    let refl := s.bitOf (.burCrcCfg n) 2
    s.setEngine n (fun e =>
      let bits := if burCrcop w / 4 % 2 = 1 then e.shiftedOut else e.shiftedIn
      { e with crc := BitVec.ofNat 32 (bits.foldl (crcBit width poly refl) (e.crc.toNat % 2 ^ width)) })
  | _ => s

/-- The X operation. -/
def State.burX (s : State) (n : EngineNo) (w : BitVec 128) : State :=
  match burXOp w with
  | 1 => s.setEngine n (fun e => { e with x := if e.x = 0 then 0 else e.x - 1 })
  | 2 => s.setEngine n (fun e => { e with x := BitVec.ofNat 16 (burCmpv w) })
  | _ => s

/-- Pend the event line of an engine at its owner. -/
def State.burPend (s : State) (n : EngineNo) : State := s.pendOwner (s.cfg.engineOwner n) (22 + n.val)

/-- EVT. -/
def State.burEvent (s : State) (n : EngineNo) (w : BitVec 128) : State :=
  let k := burEvt w
  if 1 ≤ k && k ≤ 0x1F then (s.orReg (.burFlag n) (bitMask k)).burPend n else s

/-! ## Phase 8: conditions and the next address -/

/-- A condition of Table BUR-2. -/
def State.burCondition (s : State) (n : EngineNo) (w : BitVec 128) : Bool :=
  let e := s.engine n
  let c := burCond w
  if 8 ≤ c && c ≤ 0xF then e.sampled.getLsbD (c - 8)
  else match c with
    | 0 => true
    | 1 => e.txf.isEmpty
    | 2 => decide (16 ≤ e.rxf.length)
    | 3 => decide (e.x = 0)
    | 4 => decide (e.x.toNat = burCmpv w)
    | 5 => decide (e.shifter.toNat % 65536 = burCmpv w)
    | 6 => decide (e.bitsOut = 0)
    | 7 => decide (e.bitsIn.toNat = s.burIbits n)
    | 0x10 => decide (e.crc.toNat = (s.reg (.burCrcChk n)).toNat % 2 ^ s.crcWidth n)
    | 0x11 => s.xmitOk
    | 0x12 => s.measOk
    | 0x13 => s.bitOf (.burDmaStat n) 0
    | 0x14 => s.bitOf (.burDmaStat n) 2
    | 0x15 => e.swf
    | _ => false

/-- The engine stops, halted (R241, R247): pins and FIFOs stay. -/
def Engine.stop (e : Engine) : Engine := { e with st := .halted, phase := .start, parkReq := false }

/-- A stack fault (R241). -/
def State.burFaults (s : State) (n : EngineNo) (cause : Nat) : State :=
  let pc := (s.engine n).pc.toNat
  ((s.setReg (.burFault n) (BitVec.ofNat 32 (pc + 0x400 * cause + 0x1000))).setEngine n Engine.stop).burPend n

/-- Go on at an address. -/
def State.burGo (s : State) (n : EngineNo) (a : Nat) : State :=
  s.setEngine n (fun e => { e with pc := BitVec.ofNat 10 a, st := .running, phase := .start })

/-- Form the next address (R241). `timeout` tells a WAIT that ended by its timeout. -/
def State.burNext (s : State) (n : EngineNo) (w : BitVec 128) (timeout : Bool) : State :=
  let e := s.engine n
  let inc := e.pc.toNat + 1
  let t := burTarget w
  match burNxt w with
  | 1 => s.burGo n t
  | 2 => s.burGo n (if s.burCondition n w then t else inc)
  | 3 => s.burGo n (if s.burCondition n w then inc else t)
  | 4 =>
    if 4 ≤ e.stack.length then s.burFaults n 1
    else (s.setEngine n (fun e => { e with stack := BitVec.ofNat 10 inc :: e.stack })).burGo n t
  | 5 =>
    match e.stack with
    | [] => s.burFaults n 2
    | a :: rest => (s.setEngine n (fun e => { e with stack := rest })).burGo n a.toNat
  | 6 => s.burGo n (if timeout then t else inc)
  | 7 => s.setEngine n (fun e => { e.stop with synced := true })
  | _ => s.burGo n inc

/-! ## The phases put together (R237) -/

/-- Wait at the TX FIFO (phase 2). -/
def State.burWait (s : State) (n : EngineNo) (ph : EngPhase) : State :=
  s.setEngine n (fun e => { e with st := .fifoWait, phase := ph })

/-- Wait at the RX FIFO (phase 6): the pins go back to what they were before the word. -/
def State.burPushWait (s : State) (n : EngineNo) (timeout : Bool) : State :=
  (s.setEngine n Engine.swapPins).burWait n (.push timeout)

/-- Phases 7 and 8. -/
def State.burFinish (s : State) (n : EngineNo) (w : BitVec 128) (timeout : Bool) : State :=
  ((((s.burCrc n w).burX n w).burEvent n w).burNext n w timeout)

/-- Phase 6's RX operation, and what follows. -/
def State.burRx (s : State) (n : EngineNo) (w : BitVec 128) (timeout : Bool) : State :=
  if burRxOp w = 0 then s.burFinish n w timeout
  else if 16 ≤ (s.engine n).rxf.length then s.burPushWait n timeout
  else
    let s := s.setEngine n (fun e =>
      if burRxOp w = 1 then e.push (e.aligned (s.burLsbf n) (s.burIbits n)) true else e.push e.crc false)
    s.burFinish n w timeout

/-- Phase 6's automatic push, if it is not done, and what follows. -/
def State.burAutoPush (s : State) (n : EngineNo) (w : BitVec 128) (timeout : Bool) : State :=
  if (s.engine n).autoPushed then s.burRx n w timeout
  else if 16 ≤ (s.engine n).rxf.length then s.burPushWait n timeout
  else
    (s.setEngine n (fun e =>
      { e.push (e.aligned (s.burLsbf n) (s.burIbits n)) true with autoPushed := true })).burRx n w timeout

/-- Phases 5 and on, with the pins sampled (R237). -/
def State.burLate (s : State) (n : EngineNo) (w : BitVec 128) (levels : Byte) (timeout : Bool) : State :=
  let before := (s.engine n).bitsIn.toNat
  let s := s.setEngine n (fun e =>
    let e := e.sample w (s.burLsbf n) (levels &&& s.mappedSlots n)
    { e with autoPushed := !e.autoDue w before (s.burIbits n) })
  s.burAutoPush n w timeout

/-- Phases 3 and 4: output, then the hold or the wait. -/
def State.burOutput (s : State) (n : EngineNo) (w : BitVec 128) (levels : Byte) : State :=
  let s := s.setEngine n (fun e =>
    ((if burShiftsOut w then e.shiftOut (s.burLsbf n) (burShift w) else e).drive w (s.outSlots n)))
  let d := burDelay w
  if burNxt w = burNxtWait then
    s.setEngine n (fun e => { e with st := .waitWord, phase := .wait (if d = 0 then none else some d) })
  else if d = 0 then s.burLate n w levels false
  else s.setEngine n (fun e => { e with st := .running, phase := .hold d })

/-- Phase 2's automatic pull, and what follows. -/
def State.burAutoPull (s : State) (n : EngineNo) (w : BitVec 128) (levels : Byte) : State :=
  if burShiftsOut w && burAuto w && decide ((s.engine n).bitsOut.toNat < burShift w) then
    if (s.engine n).txf.isEmpty then s.burWait n .pullAuto
    else (s.setEngine n (fun e => e.pull (s.burLsbf n) (s.burObits n))).burOutput n w levels
  else s.burOutput n w levels

/-- Phase 2's TX operation, and what follows. -/
def State.burTx (s : State) (n : EngineNo) (w : BitVec 128) (levels : Byte) : State :=
  match burTxOp w with
  | 1 =>
    if (s.engine n).txf.isEmpty then s.burWait n .pull
    else (s.setEngine n (fun e => e.pull (s.burLsbf n) (s.burObits n))).burAutoPull n w levels
  | 2 =>
    if (s.engine n).txf.isEmpty then s.burWait n .pull
    else (s.setEngine n Engine.pullX).burAutoPull n w levels
  | _ => s.burAutoPull n w levels

/-- BUR_COMMIT.STATE. -/
def State.burCommitState (s : State) : Nat := s.fieldOf .burCommit 18 16

/-- The checks before a SYNC word (R243): the state in which the engine stops there, if it does. -/
def State.syncStop (s : State) (n : EngineNo) : Option EngState :=
  let e := s.engine n
  if e.parkReq then some .parked
  else if s.burCommitState = 2 && 512 ≤ e.pc.toNat then some .commitHold
  else if s.bitOf (.burCfg n) 27 && !s.xmitOk then some .permitGate
  else none

/-- Execute a word from its beginning. -/
def State.burWord (s : State) (n : EngineNo) (levels : Byte) : State :=
  let e := s.engine n
  let w := s.burin.wordAt e.pc.toNat
  let fresh := fun (t : State) => t.setEngine n (fun e =>
    { e with st := .running, shiftedIn := [], shiftedOut := [], autoPushed := false })
  if burNxt w = burNxtSync then
    let s := s.setEngine n (fun e => { e with synced := true })
    match s.syncStop n with
    | some st => s.setEngine n (fun e => { e with before := .running, st := st, parkReq := false, phase := .start })
    | none => (fresh s).burTx n w levels
  else (fresh s).burTx n w levels

/-- An engine advances only while BUR is ON and gates PCLK, BUR and its own run (R235). -/
def State.engineRuns (s : State) (n : EngineNo) : Bool := s.domOn dBUR && s.gateRuns (3 + n.val)

/-- The engine stands at a word's beginning and may execute it. -/
def Engine.ready (e : Engine) : Bool :=
  decide (e.phase = .start) &&
    (decide (e.st = .running) || decide (e.st = .permitGate) || decide (e.st = .commitHold))

/-! ## Parks (R243) -/

/-- Request a park: an engine that waits at a SYNC word parks there at once, a halted or parked one is left. -/
def Engine.askPark (e : Engine) : Engine :=
  match e.st with
  | .halted => e
  | .parked => e
  | .permitGate => { e with before := e.st, st := .parked }
  | .commitHold => { e with before := e.st, st := .parked }
  | .running => { e with parkReq := true }
  | .fifoWait => { e with parkReq := true }
  | .waitWord => { e with parkReq := true }

/-- The 2 us have passed: the engine stops where it is. -/
def Engine.forcePark (e : Engine) : Engine :=
  if e.parkReq then { e with before := e.st, st := .parked, parkReq := false } else e

/-- Release a park: an engine parked at a SYNC word makes its checks again, another goes on where it stopped. -/
def Engine.unpark (e : Engine) : Engine :=
  let e : Engine := { e with parkReq := false }
  match e.st with
  | .parked =>
    { e with st := match e.before with
      | .permitGate => .running
      | .commitHold => .running
      | .halted => .running
      | .parked => .running
      | .running => .running
      | .fifoWait => .fifoWait
      | .waitWord => .waitWord }
  | .halted => e
  | .running => e
  | .fifoWait => e
  | .waitWord => e
  | .permitGate => e
  | .commitHold => e

def State.parkEngines (s : State) : State := s.setBurin (fun b => { b with eng := b.eng.map Engine.askPark })
def State.forceParks (s : State) : State := s.setBurin (fun b => { b with eng := b.eng.map Engine.forcePark })
def State.resumeEngines (s : State) : State := s.setBurin (fun b => { b with eng := b.eng.map Engine.unpark })

/-- BURIN_PARK_TIMEOUT. -/
def execBurinParkTimeout (n : EngineNo) (s : State) : Host.Outcome State Fault Refusal :=
  done s (s.setEngine n Engine.forcePark)

/-! ## BUR_CTL, FIFOs (R247, R249) -/

/-- The entry words of the vendor images (Table BUR-4). -/
def burEntries : List Nat := [0, 128, 192, 320, 448]

/-- The code of the first check that a START fails (R247). -/
def State.startFails (s : State) (n : EngineNo) (addr : Nat) : Option Byte :=
  firstFail
    [(decide ((s.engine n).st ≠ .halted), E_BUSY),
     (decide (addr < 512) && !burEntries.contains addr, E_RANGE),
     ((s.burCommitState = 1 || s.burCommitState = 2) && decide (512 ≤ addr), E_LOCKED)]

/-- A BUR_CTL_n write that passed the register checks (R247, notes/assumptions/19.md): a START that fails a check
discards the write, a flush of an engine that is not halted is discarded alone. -/
def State.burCtlWrite (s : State) (g : Gable) (n : EngineNo) (v : Word) : State :=
  let addr := bitsOf v 25 16
  let reg := BitVec.ofNat 32 (Reg.addr (.burCtl n))
  match (if v.getLsbD 0 then s.startFails n addr else none) with
  | some c => s.recordFault g c reg
  | none =>
    let halted := decide ((s.engine n).st = .halted)
    let flushes := v.getLsbD 2 || v.getLsbD 3
    let s := if flushes && !halted then s.recordFault g E_BUSY reg else s
    s.setEngine n (fun e =>
      let e : Engine := if v.getLsbD 2 && halted then { e with txf := [] } else e
      let e : Engine := if v.getLsbD 3 && halted then { e with rxf := [] } else e
      let e : Engine := if v.getLsbD 4 then { e with swf := true } else e
      let e : Engine := if v.getLsbD 5 then { e with swf := false } else e
      let e : Engine := if v.getLsbD 0 then
        { e with st := .running, phase := .start, pc := BitVec.ofNat 10 addr, stack := [], bitsOut := 0, bitsIn := 0, parkReq := false }
        else e
      if v.getLsbD 1 then e.stop else e)

/-- A firmware write of BUR_TXF_n (R249). -/
def State.txfWrite (s : State) (g : Gable) (n : EngineNo) (v : Word) : State :=
  if s.bitOf (.burDmaCtl n) 0 then s.recordFault g E_BUSY (BitVec.ofNat 32 (Reg.addr (.burTxf n)))
  else if 16 ≤ (s.engine n).txf.length then s.orReg (.burFifo n) (bitMask 16)
  else s.setEngine n (fun e => { e with txf := e.txf ++ [v] })

/-- A firmware read of BUR_RXF_n (R249). -/
def State.rxfRead (s : State) (g : Gable) (n : EngineNo) : Word × State :=
  if s.bitOf (.burDmaCtl n) 1 then (0, s.recordFault g E_BUSY (BitVec.ofNat 32 (Reg.addr (.burRxf n))))
  else match (s.engine n).rxf with
    | [] => (0, s.orReg (.burFifo n) (bitMask 17))
    | w :: rest => (w, s.setEngine n (fun e => { e with rxf := rest }))

/-! ## DMA (R250) -/

/-- The registers of a channel. -/
def dmaAddrReg (n : EngineNo) : DmaDir → Reg
  | .tx => .burDmaTxa n
  | .rx => .burDmaRxa n

def dmaCountReg (n : EngineNo) : DmaDir → Reg
  | .tx => .burDmaTxc n
  | .rx => .burDmaRxc n

/-- Bit of BUR_DMA_CTL, and of DONE and ERR in BUR_DMA_STAT. -/
def dmaBit : DmaDir → Nat
  | .tx => 0
  | .rx => 1

/-- A channel ends (R250): with DONE, or with ERR and a code, or with UE besides. -/
def State.dmaEnd (s : State) (n : EngineNo) (dir : DmaDir) (err : Option Byte) (ue : Bool) : State :=
  let k := dmaBit dir
  let s := s.clearReg (.burDmaCtl n) (bitMask k)
  let s := match err with
    | none => s.orReg (.burDmaStat n) (bitMask (2 * k))
    | some c =>
      (s.setField (.burDmaStat n) 15 8 c.toNat).orReg (.burDmaStat n)
        (bitMask (2 * k + 1) ||| (if ue then bitMask 4 else 0))
  s.burPend n

/-- What a DMA access by an engine for its owner meets: where it leads, or the code that ends the channel. R250 lists no
order of its checks, so the lowest code counts (spec/00 R13): E_ALIGN, E_DLOST, E_WINDOW. -/
def State.dmaPlace (s : State) (n : EngineNo) (dir : DmaDir) (a : Nat) : Sum Byte (Gable × Place) :=
  match s.cfg.engineOwner n with
  | none => .inl E_WINDOW
  | some g =>
    if a % 4 ≠ 0 then .inl E_ALIGN
    else match s.place g a with
      | .bank b kind isAlias ring =>
        if !s.pathOn b isAlias then .inl E_DLOST
        else if !s.cfg.may g (match dir with | .tx => .r | .rx => .w) b then .inl E_WINDOW
        else .inr (g, .bank b kind isAlias ring)
      | .cwinBad => .inl E_WINDOW
      | .proof _ => .inl E_WINDOW
      | .register _ => .inl E_WINDOW
      | .ridgeStore _ => .inl E_WINDOW
      | .burStore _ => .inl E_WINDOW
      | .hole => .inl E_WINDOW

/-- Move a channel on by one word; it ends on count. -/
def State.dmaAdvance (s : State) (n : EngineNo) (dir : DmaDir) : State :=
  let a := s.reg (dmaAddrReg n dir)
  let c := s.reg (dmaCountReg n dir)
  let s := (s.setReg (dmaAddrReg n dir) (a + 4)).setReg (dmaCountReg n dir) (c - 1)
  if c = 1 then s.dmaEnd n dir none false else s

/-- One access of a channel: a word from memory into the TX FIFO, or from the RX FIFO into memory. -/
def State.dmaAccess (s : State) (n : EngineNo) (dir : DmaDir) : State :=
  match s.dmaPlace n dir (s.reg (dmaAddrReg n dir)).toNat with
  | .inl c => s.dmaEnd n dir (some c) false
  | .inr (g, .bank b kind isAlias ring) =>
    match dir with
    | .tx =>
      let (bs, bad, s) :=
        if isAlias then
          let x := (s.evictHolder (b / 32)).bankRead reqDma (wordOf b)
          ((x.1.drop (b % 8)).take 4, x.2.1, x.2.2)
        else s.cacheRead (.dma n) g b 4 ring
      if bad then s.dmaEnd n dir (some E_OK) true
      else (s.setEngine n (fun e => { e with txf := e.txf ++ [BitVec.ofNat 32 (leNat bs)] })).dmaAdvance n dir
    | .rx =>
      match (s.engine n).rxf with
      | [] => s
      | w :: rest =>
        let s := s.setEngine n (fun e => { e with rxf := rest })
        let bytes := leBytes 4 w.toNat
        let s := if isAlias then (s.evictHolder (b / 32)).bankAlias reqDma b bytes kind
          else s.cacheWrite (.dma n) g b bytes ring
        s.dmaAdvance n dir
  | .inr (_, .cwinBad) => s
  | .inr (_, .proof _) => s
  | .inr (_, .register _) => s
  | .inr (_, .ridgeStore _) => s
  | .inr (_, .burStore _) => s
  | .inr (_, .hole) => s

/-- A channel is enabled, with BUR ON and its gate running: Burin does not start before FRC is qualified (R66). -/
def State.dmaOn (s : State) (n : EngineNo) (dir : DmaDir) : Bool :=
  s.domOn dBUR && s.gateRuns 2 && s.bitOf (.burDmaCtl n) (dmaBit dir)

/-- The FIFO has room for, or a word for, an access. -/
def State.dmaFifoReady (s : State) (n : EngineNo) (dir : DmaDir) : Bool :=
  match dir with
  | .tx => decide ((s.engine n).txf.length < 16)
  | .rx => !(s.engine n).rxf.isEmpty

/-- A channel's next access reaches the bank under test, and waits (spec/09 R183). -/
def State.dmaWaits (s : State) (n : EngineNo) (dir : DmaDir) : Bool :=
  match s.cfg.engineOwner n with
  | none => false
  | some g => s.underTest g (match dir with | .tx => .r | .rx => .w) (s.reg (dmaAddrReg n dir)).toNat

/-- BURIN_DMA_ACCESS. -/
def execBurinDmaAccess (n : EngineNo) (dir : DmaDir) (s : State) : Host.Outcome State Fault Refusal :=
  done s (s.when (s.dmaOn n dir && s.dmaFifoReady n dir && decide (s.fieldOf (dmaCountReg n dir) 15 0 ≠ 0) &&
      !s.dmaWaits n dir) (fun s => s.dmaAccess n dir))

/-- BURIN_DMA_END: an enabled channel ends on count, or on the error that its next access would meet. -/
def execBurinDmaEnd (n : EngineNo) (dir : DmaDir) (s : State) : Host.Outcome State Fault Refusal :=
  done s (s.when (s.dmaOn n dir) (fun s =>
    if s.fieldOf (dmaCountReg n dir) 15 0 = 0 then s.dmaEnd n dir none false
    else match s.dmaPlace n dir (s.reg (dmaAddrReg n dir)).toNat with
      | .inl c => s.dmaEnd n dir (some c) false
      | .inr _ => s))

/-! ## Commit of the customer region (R244 to R246) -/

/-- BUR_COMMIT with GO and its key: STATE becomes CHECKING, unless a commit is under way. -/
def State.burCommitGo (s : State) : State :=
  if s.burCommitState = 1 || s.burCommitState = 2 then s else s.setField .burCommit 18 16 1

/-- An engine of the customer region that waits at its SYNC word for the permit holds for the commit that has become
pending: the hold is checked before the permit (R243, R245). -/
def Engine.holdForCommit (e : Engine) : Engine :=
  if e.st = .permitGate && decide (512 ≤ e.pc.toNat) then { e with st := .commitHold } else e

/-- BUR_COMMIT.TO ms have passed since PENDING (R246). -/
def State.burCommitExpired (s : State) : Bool := decide (s.burin.commitAt + 1000 * s.fieldOf .burCommit 31 24 ≤ s.now)

/-- BURIN_COMMIT_CHECKED. -/
def execBurinCommitChecked (s : State) : Host.Outcome State Fault Refusal :=
  done s (s.when (s.domOn dBUR && s.burCommitState = 1) (fun s =>
    match burFirstBad s.burin.staging 512 512 with
    | some (a, c) =>
      ((s.setField .burCommit 18 16 4).setReg .burCommitStat (BitVec.ofNat 32 (a + 0x400 * c))).orReg .burEvt (bitMask 1)
    | none => (s.setField .burCommit 18 16 2).setBurin (fun b =>
        { b with commitAt := s.now, eng := b.eng.map Engine.holdForCommit })))

/-- An engine runs in the customer region. -/
def Engine.inCustomer (e : Engine) : Bool := decide (e.st ≠ .halted) && decide (512 ≤ e.pc.toNat)

/-- An engine lets the exchange happen (R245): it is halted, not in the customer region, holding, or parked at a SYNC
word. -/
def State.engineYields (s : State) (n : EngineNo) : Bool :=
  let e := s.engine n
  !e.inCustomer || decide (e.st = .commitHold) ||
    (decide (e.st = .parked) && decide (e.phase = .start) && decide (burNxt (s.burin.wordAt e.pc.toNat) = burNxtSync))

/-- Engines held for a commit go on. -/
def State.releaseHolds (s : State) : State :=
  s.setBurin (fun b => { b with eng := b.eng.map (fun e => if e.st = .commitHold then { e with st := .running } else e) })

/-- BURIN_COMMIT_EXCHANGE. -/
def execBurinCommitExchange (s : State) : Host.Outcome State Fault Refusal :=
  done s (s.when (s.domOn dBUR && s.burCommitState = 2 && (List.finRange 4).all (fun n => s.engineYields n)) (fun s =>
    let s := s.setBurin (fun b => { b with live := b.staging, staging := b.live })
    let s := (s.setReg .burCustId (burDigest s.burin.live)).setField .burCommit 18 16 3
    (s.orReg .burEvt (bitMask 0)).releaseHolds))

/-- BURIN_COMMIT_TIMEOUT. -/
def execBurinCommitTimeout (s : State) : Host.Outcome State Fault Refusal :=
  done s (s.when (s.domOn dBUR && s.burCommitState = 2 && s.burCommitExpired) (fun s =>
    ((s.setField .burCommit 18 16 5).orReg .burEvt (bitMask 2)).releaseHolds))

/-! ## The BUR domain (R87, R248) -/

/-- Engines as BUR returns from OFF: halted, with empty FIFOs. -/
def State.burRestart (s : State) : State :=
  s.setBurin (fun b => { b with eng := Vector.replicate 4 Engine.reset })

/-- No engine has reached a SYNC or HALT word since BUR entered ON. -/
def State.burEnterOn (s : State) : State :=
  s.setBurin (fun b => { b with eng := b.eng.map (fun e => { e with synced := false }) })

/-- Stop the engines of a gable (R218). -/
def State.haltEnginesOf (s : State) (g : Gable) : State :=
  (s.cfg.dmaOf g).foldl (fun t n => t.setEngine n Engine.stop) s

end Sys2Proof.Machine
end

