-- ==== Sys2Proof/Machine/Proof.lean ====
section
/-! DEFINITION. The Proof store (spec/15, "The Proof store"): page writes, the two logs, who may load from it. -/

namespace Sys2Proof.Machine

/-- Change the nonvolatile memories. -/
def State.setNv (s : State) (f : Nonvolatile → Nonvolatile) : State := { s with nv := f s.nv }

/-- The 64 bytes of a Proof store page as the array holds them. -/
def Nonvolatile.page (n : Nonvolatile) (p : Nat) : List Byte := memGetAll 0 n.proof (64 * p) 64

/-- The 64 bytes of a page once every write waiting for it is done. -/
def Nonvolatile.pageNext (n : Nonvolatile) (p : Nat) : List Byte :=
  match n.prfQ.reverse.find? (fun w => decide (w.page = p)) with
  | some w => w.data
  | none => n.page p

/-- Write a page of the array. -/
def Nonvolatile.putPage (n : Nonvolatile) (p : Nat) (data : List Byte) : Nonvolatile :=
  { n with proof := memPutAll 0 n.proof (64 * p) (data.take 64) }

/-- The two logs (Table PLT-7): 0x200 holds 96 event records, 0x800 holds 64 darkness records. -/
inductive Log where
  | event
  | dark
  deriving DecidableEq, Repr

def Log.base : Log → Nat
  | .event => 0x200
  | .dark => 0x800

def Log.size : Log → Nat
  | .event => 96
  | .dark => 64

/-- The page that a record of a log lies in. -/
def Log.page (l : Log) (k : Nat) : Nat := (l.base + 16 * k) / 64

def Nonvolatile.head (n : Nonvolatile) : Log → Nat
  | .event => n.evHead
  | .dark => n.dkHead

def Nonvolatile.seq (n : Nonvolatile) : Log → BitVec 16
  | .event => n.evSeq
  | .dark => n.dkSeq

/-- The first record from `k` on, around the ring, whose page is usable (R291). -/
def Nonvolatile.usable (n : Nonvolatile) (l : Log) (k : Nat) : Option Nat :=
  ((List.range l.size).map (fun j => (k + j) % l.size)).find? (fun j => !n.worn.contains (l.page j))

def Nonvolatile.setHead (n : Nonvolatile) (l : Log) (k : Nat) : Nonvolatile :=
  match l with
  | .event => { n with evHead := k }
  | .dark => { n with dkHead := k }

def Nonvolatile.bumpSeq (n : Nonvolatile) (l : Log) : Nonvolatile :=
  match l with
  | .event => { n with evSeq := n.evSeq + 1 }
  | .dark => { n with dkSeq := n.dkSeq + 1 }

/-- Begin or queue the page write that puts a record at the head of its log, and move the head on (R291). A log with no
usable page left takes no record. -/
def Nonvolatile.writeRecord (n : Nonvolatile) (l : Log) (rec : List Byte) : Nonvolatile :=
  match n.usable l (n.head l) with
  | none => n
  | some k =>
    let p := l.page k
    let data := splice (n.pageNext p) ((l.base + 16 * k) % 64) rec
    let n : Nonvolatile := { n with prfQ := n.prfQ ++ [{ page := p, data := data, log := some rec }] }
    n.setHead l ((k + 1) % l.size)

/-- The 16 bytes of a log record (R291), with its CRC-16. -/
def recordBytes (ty flags : Nat) (volt sec frac data seq : Nat) : List Byte :=
  let body := leBytes 1 ty ++ leBytes 1 flags ++ leBytes 2 volt ++ leBytes 4 sec ++ leBytes 2 frac ++ leBytes 2 data ++
    leBytes 2 seq
  body ++ leBytes 2 (crc16 body).toNat

/-- Record types (R291). -/
def recDusk : Nat := 1
def recShelterIn : Nat := 2
def recShelterNocell : Nat := 3
def recResume : Nat := 4
def recBrownout : Nat := 0x10
def recBraceTest : Nat := 0x11
def recStorm : Nat := 0x12
def recWakeStorm : Nat := 0x13

/-- Write a log record: the RTC value and its mark, the tamper latch, the voltage, the type's data (R291). `more` adds
FLAGS bits 2 and 3. -/
def State.logRecord (s : State) (l : Log) (ty volt data more : Nat) : State :=
  let flags := (if s.bitOf .tmrRtcCtl 1 then 0 else 1) + (if s.power.tampLatch then 2 else 0) + more
  let rec16 := recordBytes ty flags volt (s.reg .tmrRtcSec).toNat s.clk.rtcFrac.toNat data (s.nv.seq l).toNat
  s.setNv (fun n => (n.writeRecord l rec16).bumpSeq l)

/-- A record of the event log, with VSYS. -/
def State.logEvent (s : State) (ty data more : Nat) : State := s.logRecord .event ty s.vsysMv data more

/-- A record of the darkness log, with VST. -/
def State.logDark (s : State) (ty data more : Nat) : State := s.logRecord .dark ty s.vstMv data more

/-- Write a page that carries no log record. -/
def State.queuePage (s : State) (p : Nat) (data : List Byte) : State :=
  s.setNv (fun n => { n with prfQ := n.prfQ ++ [{ page := p, data := data, log := none }] })

/-- Bytes that the spec does not state, drawn from the model's counter. -/
def State.freeBytes (s : State) : Nat → List Byte × State
  | 0 => ([], s)
  | n + 1 =>
    let (w, s) := s.freshWord
    let (rest, s) := s.freeBytes n
    (leBytes 4 w.toNat ++ rest, s)

/-- The log whose pages hold a page. -/
def logOfPage (p : Nat) : Log := if p < 32 then .event else .dark

/-- The page write in progress ends (R42, R291). A log write that fails read-back leaves its page worn, with content the
spec does not state, and its record is written again at the next usable page unless VSYS has by then reached
T_RESET. -/
def State.pageDone (s : State) (ok : Bool) : State :=
  match s.nv.prfQ with
  | [] => s
  | w :: rest =>
    let s := s.setNv (fun n => { n with prfQ := rest })
    match ok, w.log with
    | true, _ => s.setNv (fun n => n.putPage w.page w.data)
    | false, none => s.setNv (fun n => n.putPage w.page w.data)
    | false, some r =>
      let (junk, s) := s.freeBytes 16
      let again := r :: (rest.filter (fun x => decide (x.page = w.page))).filterMap (fun x => x.log)
      let s := s.setNv (fun n =>
        { n.putPage w.page junk with
          worn := if n.worn.contains w.page then n.worn else n.worn ++ [w.page]
          prfQ := n.prfQ.filter (fun x => decide (x.page ≠ w.page)) })
      if !s.nv.cut then s.setNv (fun n => again.foldl (fun n r => n.writeRecord (logOfPage w.page) r) n) else s

/-- Page writes that were waiting when VSYS crossed T_RESET are not begun; the one in progress completes (R42), and its
record is not written again (R291). -/
def State.dropWaitingPages (s : State) : State := s.setNv (fun n => { n with prfQ := n.prfQ.take 1, cut := true })

/-- Who may load a Proof store byte (Table PLT-7): G0 the logs, a gable its own checkpoint region. -/
def State.mayLoadProof (s : State) (g : Gable) (off : Nat) : Bool :=
  let r := s.cfg.regions[g.val]
  (g = 0 && decide (0x200 ≤ off) && decide (off < 0xC00)) ||
    (decide (64 * r.base ≤ off) && decide (off < 64 * (r.base + r.pages)))

/-- PROOF_PAGE_WRITE_DONE. -/
def execProofPageWriteDone (readBackOk : Bool) (s : State) : Host.Outcome State Fault Refusal :=
  done s (s.pageDone readBackOk)

end Sys2Proof.Machine
end

