-- ==== Sys2Proof/Machine/Wake.lean ====
section
/-! DEFINITION. Wake sources, their masking and storm counts, the effective state of the Profile scheme, and the
residency counters (spec/05). -/

namespace Sys2Proof.Machine

/-- Change the power logic. -/
def State.setPower (s : State) (f : Power → Power) : State := { s with power := f s.power }

/-! ## The effective state (R91, R93, R105) -/

/-- Depth of a global state, RUN least deep. -/
def GState.depth : GState → Nat
  | .run => 0
  | .idle => 1
  | .sleep => 2
  | .deep => 3
  | .off => 4
  | .trans => 5

/-- The less deep of two states. -/
def GState.shallower (a b : GState) : GState := if a.depth ≤ b.depth then a else b

/-- Every request of G1 to G7 is DEEP or deeper (R93). A gable without a descriptor never runs and holds no state
(DEDUCED, notes/assumptions/16.md). -/
def State.offReady (s : State) : Bool :=
  (List.finRange 8).all (fun g => decide (g = 0) || !(s.cfg.desc[g.val]).present ||
    decide (3 ≤ (s.power.greq[g.val]).depth))

/-- A gable's request as the effective state counts it: OFF counts as DEEP while G0's grace runs. -/
def State.countedReq (s : State) (g : Gable) : GState :=
  match s.power.greq[g.val] with
  | .off => .deep
  | r => r

/-- The least deep of the requests of the gables that have a descriptor; RUN when none has. -/
def State.leastDeep (s : State) : GState :=
  match (List.finRange 8).filter (fun g => (s.cfg.desc[g.val]).present) with
  | [] => .run
  | g :: rest => rest.foldl (fun r h => r.shallower (s.countedReq h)) (s.countedReq g)

/-- G0's OFF request has ripened (R93). -/
def State.offRipe (s : State) : Bool := s.power.offAt.isSome && (s.power.graceDone || s.offReady)

/-- The effective global state of the Profile scheme: OFF once G0's request has ripened, else the least deep request,
held no deeper than IDLE while a LINK_HOLD interval runs. -/
def State.effective (s : State) : GState :=
  if s.offRipe then .off
  else if s.power.holdAt.isSome then s.leastDeep.shallower .idle
  else s.leastDeep

/-! ## Wake sources -/

/-- A level-active source is asserted (R104): a WK pin under a level mode, or the tamper loop. -/
def State.levelAsserted (s : State) (n : Nat) : Bool :=
  if h : n < 8 then
    match bitsOf (s.reg (.pwrWkf ⟨n, h⟩)) 9 8 with
    | 2 => s.power.wkLevel.getLsbD n
    | 3 => !s.power.wkLevel.getLsbD n
    | _ => false
  else decide (n = 8) && s.power.tampOpen

/-- The window of R103 in ticks. -/
def State.stormWindow (s : State) : Nat := 100000 * s.fieldOf .pwrWakeStorm 15 8

/-- Mask a source and log it (R103, R104). -/
def State.maskSource (s : State) (n : Nat) (held : Bool) : State :=
  (s.orReg .pwrWakeMasked (bitMask n)).logEvent recWakeStorm n (if held then 8 else 0)

/-- Count a wake of a maskable source (R103): false when it would exceed N in the window and is suppressed. -/
def State.countWake (s : State) (n : Fin 16) : Bool × State :=
  let c := s.power.wakeCount[n.val]
  if c = 0 || s.power.wakeOpen[n.val] + s.stormWindow ≤ s.now then
    (true, s.setPower (fun p => { p with wakeCount := vset p.wakeCount n 1, wakeOpen := vset p.wakeOpen n s.now }))
  else if s.fieldOf .pwrWakeStorm 7 0 ≤ c then (false, s.maskSource n.val false)
  else (true, s.setPower (fun p => { p with wakeCount := vset p.wakeCount n (c + 1) }))

/-- Whether an event delivered on line `n` to gable `g` brings the warden to RUN, or CORE to ON (R102). -/
def State.isWake (s : State) (g : Gable) (n : Nat) : Bool :=
  if s.domainScheme then !s.domOn dCORE
  else decide (s.effective ≠ .run) && s.lineEnabled g n && s.cfg.routed g n

/-- A wake begins: conditions and triggers of Ridge see it (R109, Table RDG-3, Table RDG-4). -/
def State.noteWake (s : State) : State :=
  let s := s.setPower (fun p => { p with wakeSeen := true })
  if s.domainScheme then { s with ridge := { s.ridge with domWake := true } } else s

/-- Deliver an event of source `n` to its owner; when it is a wake, it is counted first, and a source that is then
masked delivers nothing (R102 to R104). -/
def State.deliverSource (s : State) (n : Fin 16) (g : Gable) : State :=
  if s.isWake g n.val then
    match s.countWake n with
    | (false, s) => s
    | (true, s) =>
      let s := if s.levelAsserted n.val then
        s.setPower (fun p => { p with wokeLevel := p.wokeLevel ||| BitVec.ofNat 16 (2 ^ n.val) }) else s
      (s.noteWake).pendLine g n.val
  else s.pendLine g n.val

/-- A source is enabled and not masked. -/
def State.sourceActs (s : State) (n : Nat) : Bool := s.bitOf .pwrWakeEn n && !s.bitOf .pwrWakeMasked n

/-- An accepted event of a source 0 to 15 (R102): it pends in PWR_WAKE_PEND, and when its source is enabled and unmasked
it is delivered to the owner. In OFF it starts a cold start (R80). -/
def State.accept (s : State) (n : Fin 16) : State :=
  let s := s.orReg .pwrWakePend (bitMask n.val)
  if !s.sourceActs n.val then s
  else match s.life with
    | .off => { s with life := .waiting 2 }
    | .up => (s.cfg.wakeOwner n.val).elim s (fun g => s.deliverSource n g)
    | .bare => s
    | .waiting _ => s
    | .shelter => s
    | .lockout => s

/-- The warden runs: RUN in the Profile scheme, CORE ON in the Domain scheme. -/
def State.running (s : State) : Bool :=
  if s.domainScheme then s.domOn dCORE else decide (s.power.gstate = .run)

/-- A PUR source can fire (R105): its port is configured and keeps something, and is in link sleep, or trained while CORE
is not in RUN. -/
def State.purFires (s : State) (p : Port) : Bool :=
  s.up && s.bitOf (.purPcfg p) 0 && decide (s.power.dom[dLINK.val] ≠ .off) &&
    (decide ((s.purlin.ports[p.val]).link = .asleep) ||
      (decide ((s.purlin.ports[p.val]).link = .trained) && !s.running))

/-- A PUR wake (R105): the effective state is held no deeper than IDLE for LINK_HOLD. -/
def State.purWake (s : State) (p : Port) : State :=
  if s.purFires p then
    let s := s.orReg .pwrWakePend (bitMask (16 + p.val))
    (if s.running then s else s.noteWake).setPower (fun w => { w with holdAt := some s.now })
  else s

/-- At entry to IDLE or deeper, each level-active source that woke the warden and is still asserted is masked (R104). -/
def State.maskHeld (s : State) : State :=
  let s := (List.range 9).foldl
    (fun (t : State) n =>
      if t.power.wokeLevel.getLsbD n && t.levelAsserted n && !t.bitOf .pwrWakeMasked n then t.maskSource n true else t) s
  s.setPower (fun p => { p with wokeLevel := 0 })

/-- Bit `n` of a mask of sources. -/
def sourceBit (n : Nat) : BitVec 16 := BitVec.ofNat 16 (2 ^ n)

/-- A source is unmasked and its count restarts; a level still asserted wakes once more (R103, R104). Where the warden
already runs, the event is delivered, and the level wakes the warden after its next entry to IDLE or deeper
(notes/assumptions/47.md). -/
def State.unmask (s : State) (n : Fin 16) : State :=
  let s := (s.clearReg .pwrWakeMasked (bitMask n.val)).setPower (fun p => { p with wakeCount := vset p.wakeCount n 0 })
  if s.levelAsserted n.val then
    let t := s.accept n
    if t.power.wokeLevel.getLsbD n.val then t
    else t.setPower (fun p => { p with levelDue := p.levelDue ||| sourceBit n.val })
  else s

/-- After an entry to IDLE or deeper has begun, each level that was unmasked while asserted, and still is, wakes the warden
once more (R104). -/
def State.presentDue (s : State) : State :=
  let due := s.power.levelDue
  (List.finRange 16).foldl
    (fun (t : State) n => if due.getLsbD n.val && t.levelAsserted n.val then t.accept n else t)
    (s.setPower (fun p => { p with levelDue := 0 }))

/-- Put or clear a bit of the WK pins. -/
def pinBit (v : BitVec 8) (n : Nat) (b : Bool) : BitVec 8 :=
  if b then v ||| BitVec.ofNat 8 (2 ^ n) else v &&& ~~~ (BitVec.ofNat 8 (2 ^ n))

/-- One LRC sample of the WK pins (R100): a pin that shows its accepted level starts again. -/
def State.samplePins (s : State) : State :=
  s.setPower (fun p =>
    { p with wkRun := Vector.ofFn (fun n : Fin 8 =>
        if p.wkPin.getLsbD n.val = p.wkLevel.getLsbD n.val then 0 else p.wkRun[n.val] + 1) })

/-- FILT + 2 consecutive samples of a WK pin show a new level (R100). -/
def State.pinSettled (s : State) (n : Fin 8) (level : Bool) : Bool :=
  decide (s.power.wkPin.getLsbD n.val = level) && decide (s.power.wkLevel.getLsbD n.val ≠ level) &&
    decide (bitsOf (s.reg (.pwrWkf n)) 7 0 + 2 ≤ s.power.wkRun[n.val])

/-- A pin's new accepted level (R100): the mode decides whether it is an accepted event. -/
def State.pinLevel (s : State) (n : Fin 8) (level : Bool) : State :=
  if s.power.wkLevel.getLsbD n.val = level then s
  else
    let s := s.setPower (fun p => { p with wkLevel := pinBit p.wkLevel n.val level, wkRun := vset p.wkRun n 0 })
    let mode := bitsOf (s.reg (.pwrWkf n)) 9 8
    let fires := if level then mode = 0 || mode = 2 else mode = 1 || mode = 3
    if fires then s.accept ⟨n.val, by omega⟩ else s

/-- One counted edge (R101): the counter saturates at 0xFFFF, and the edge it then misses sets OVF. -/
def State.countEdge (s : State) (n : Fin 8) : State :=
  if s.fieldOf (.pwrWkcnt n) 15 0 = 0xFFFF then s.orReg (.pwrWkcnt n) (bitMask 16)
  else s.satField (.pwrWkcnt n) 15 0

/-- Whether PWR_WKF_n.CNT_EDGE selects an edge. -/
def State.edgeSelected (s : State) (n : Fin 8) (rising : Bool) : Bool :=
  match bitsOf (s.reg (.pwrWkf n)) 11 10 with
  | 0 => rising
  | 1 => !rising
  | _ => true

/-- WAKE_PIN_ACCEPT: the samples that the ticks took of the pin show a new level (R100). -/
def execWakePinAccept (n : Fin 8) (level : Bool) (s : State) : Host.Outcome State Fault Refusal :=
  done s (s.when (s.pinSettled n level) (fun s => s.pinLevel n level))

/-- An edge of a WK pin: its level changes, and its counter counts the edge that CNT_EDGE selects (R101). -/
def State.pinEdge (s : State) (n : Fin 8) (rising : Bool) : State :=
  (s.setPower (fun p => { p with wkPin := pinBit p.wkPin n.val rising })).when (s.edgeSelected n rising) (fun s => s.countEdge n)

/-- WK_EDGE_COUNT. -/
def execWkEdgeCount (n : Fin 8) (rising : Bool) (s : State) : Host.Outcome State Fault Refusal := done s (s.pinEdge n rising)

/-- WAKE: an accepted event of any source of Table PWR-4. -/
def execWake (src : Fin 18) (s : State) : Host.Outcome State Fault Refusal :=
  done s (if h : src.val < 16 then s.accept ⟨src.val, h⟩ else s.purWake ⟨src.val - 16, by omega⟩)

/-- LINK_HOLD_EXPIRY (R105). -/
def execLinkHoldExpiry (s : State) : Host.Outcome State Fault Refusal :=
  done s (s.when (s.power.holdAt.elim false (fun t => decide (t + 1000 * s.fieldOf .pwrCfg 19 16 ≤ s.now))) (fun s =>
    s.setPower (fun p => { p with holdAt := none })))

/-- OFF_GRACE_EXPIRY (R93): with G0's OFF request still standing, the effective state becomes OFF. -/
def execOffGraceExpiry (s : State) : Host.Outcome State Fault Refusal :=
  done s (s.when (s.power.offAt.elim false (fun t => decide (t + 1000 * s.fieldOf .pwrCfg 15 8 ≤ s.now))) (fun s =>
    s.setPower (fun p => { p with graceDone := true })))

/-! ## Residency (R106, R107) -/

/-- Copy all counters into a gable's latch on one tick. -/
def State.takeSnapshot (s : State) (g : Gable) : State :=
  { s with res := { s.res with snap := vset s.res.snap g { valid := true, cnt := s.res.cnt } } }

/-- Set every counter to 0 on one tick; no latch then holds a snapshot taken since the clear. -/
def State.clearResidency (s : State) : State :=
  { s with res :=
    { cnt := Vector.replicate 77 0
      clearedAt := s.now
      wrap := false
      passed := 0
      snap := s.res.snap.map (fun x => { x with valid := false }) } }

/-- A write of PWR_RES_CTL (R107): the snapshot comes before the clear, and its latch stays valid. -/
def State.resCtl (s : State) (g : Gable) (v : Word) : State :=
  let take := v.getLsbD 0
  let s := if take then s.takeSnapshot g else s
  if v.getLsbD 1 then
    let s := s.clearResidency
    if take then { s with res := { s.res with snap := vmod s.res.snap g (fun x => { x with valid := true }) } } else s
  else s

/-- One counter's next value, and whether it wraps (R106). -/
def State.bumpResidency (s : State) (i : Fin 77) : State :=
  let c := s.res.cnt[i.val]
  let wraps := decide (c = BitVec.allOnes 48)
  { s with res := { s.res with
      cnt := vset s.res.cnt i (c + 1)
      wrap := s.res.wrap || wraps
      passed := if wraps then s.res.passed ||| BitVec.ofNat 77 (2 ^ i.val) else s.res.passed } }

/-- RESIDENCY_WRAP: PWR_RES_STAT.WRAP shows that a counter has passed 2^48 - 1 since the last clear. Only a tick moves the
counters, so that they stay exact (R106). -/
def execResidencyWrap (i : Fin 77) (s : State) : Host.Outcome State Fault Refusal :=
  done s (s.when (s.res.passed.getLsbD i.val) (fun s => { s with res := { s.res with wrap := true } }))

/-! ## Tamper (spec/16 R301) -/

/-- The tamper input is watched: everywhere but from the lockout until the cold start that ends it (spec/01 R23). -/
def State.tampWatched (s : State) : Bool := decide (s.life ≠ .lockout) && decide (s.life ≠ .waiting 4)

/-- One strobe of TAMP: the second consecutive open read sets the latch, and source 8 is raised as the loop becomes open. -/
def State.tampStrobed (s : State) (high : Bool) : State :=
  let isOpen := high && s.power.tampHigh
  let begins := isOpen && !s.power.tampOpen
  let s := s.setPower (fun p => { p with tampHigh := high, tampOpen := isOpen, tampLatch := p.tampLatch || isOpen })
  if begins then s.accept 8 else s

/-- TAMP_STROBE. -/
def execTampStrobe (high : Bool) (s : State) : Host.Outcome State Fault Refusal :=
  done s (s.when s.tampWatched (fun s => s.tampStrobed high))

end Sys2Proof.Machine
end

