-- ==== Sys2Proof/Machine/Pads.lean ====
section
/-! DEFINITION. Pad groups, hold and release (spec/05, "Pad groups and hold"). -/

namespace Sys2Proof.Machine

/-! ## Pins -/

/-- The engine slot that takes a pin, if one does (spec/13 R235). -/
def State.slotAt (s : State) (p : PadGroup) (pin : Nat) : Option (EngineNo × Nat) :=
  ((List.finRange 4).flatMap (fun n => (List.range 8).map (fun k => (n, k)))).find? (fun x =>
    s.slotMapped x.1 x.2 && decide (s.pinMap x.1 x.2 % 4 = p.val) && decide (s.pinMap x.1 x.2 / 4 % 16 = pin))

/-- A slot is open-drain (BUR_PINCFG_n.OD). -/
def State.openDrain (s : State) (n : EngineNo) (k : Nat) : Bool := s.bitOf (.burPincfg n) (8 + k)

/-- Output value and output enable of a pin behind the hold. -/
def State.pinState (s : State) (p : PadGroup) (pin : Nat) : Bool × Bool :=
  match s.slotAt p pin with
  | some (n, k) =>
    let e := s.engine n
    let out := e.pinOut.getLsbD k
    (out, e.pinOe.getLsbD k && !(s.openDrain n k && out))
  | none => (s.bitOf (.pwrGpioOut p) pin, s.bitOf (.pwrGpioOe p) pin)

/-- Collect twelve bits. -/
def bits12 (f : Nat → Bool) : BitVec 12 :=
  (List.range 12).foldl (fun m k => if f k then m ||| BitVec.ofNat 12 (2 ^ k) else m) 0

/-- Output values and enables of a group behind the hold. -/
def State.groupOut (s : State) (p : PadGroup) : BitVec 12 := bits12 (fun k => (s.pinState p k).1)
def State.groupOe (s : State) (p : PadGroup) : BitVec 12 := bits12 (fun k => (s.pinState p k).2)

/-- The group is held, and by whom (PWR_PAD_STAT). -/
def State.held (s : State) (p : PadGroup) : Bool := s.bitOf .pwrPadStat (4 * p.val)
def State.heldByBrace (s : State) (p : PadGroup) : Bool := s.bitOf .pwrPadStat (4 * p.val + 2)
def State.vioOk (s : State) (p : PadGroup) : Bool := s.bitOf .pwrPadStat (4 * p.val + 3)

/-- The pads are inputs with their pull connected: VSYS lost its circuits, or no cold start has begun INIT yet (spec/16
R300). In OFF, and until the cold start that ends it, the hold latches of AON keep what they hold (R96). -/
def State.padsInput (s : State) : Bool :=
  match s.life with
  | .up => false
  | .off => false
  | .bare => true
  | .waiting c => decide (c ≠ 2)
  | .shelter => true
  | .lockout => true

/-- What a group drives: the held state, or the state behind the hold; nothing without VIO, nor before INIT (R96, R98,
spec/16 R300). -/
def State.drivenOut (s : State) (p : PadGroup) : BitVec 12 := if s.held p then s.power.heldOut[p.val] else s.groupOut p
def State.drivenOe (s : State) (p : PadGroup) : BitVec 12 :=
  if !s.vioOk p || s.padsInput then 0 else if s.held p then s.power.heldOe[p.val] else s.groupOe p

/-- The pull resistor of a ball (spec/16 R299, R300). -/
inductive PadPull where
  | none
  | up
  | down
  deriving DecidableEq, Repr

/-- The pull of a pad group's pins: down before INIT. No register of this spec selects one afterwards. -/
def State.groupPull (s : State) (p : PadGroup) : PadPull := if s.vioOk p && s.padsInput then .down else .none

/-- The pull of the balls on VIOS that nothing drives: down before INIT, but up at NVM_CS# (spec/16 R300). -/
def State.viosPull (s : State) (nvmCs : Bool) : PadPull := if s.padsInput then (if nvmCs then .up else .down) else .none

/-- Pin levels: a driven pin shows its output, another the level that its surroundings give it. -/
def State.pinLevels (s : State) (p : PadGroup) : BitVec 12 :=
  (s.drivenOut p &&& s.drivenOe p) ||| (Config.freePins s.now p.val &&& ~~~ (s.drivenOe p))

/-! ## Driving domains -/

/-- The driving domains of a group (spec/05): BUR if an engine takes a pin in it, CORE if a general-purpose pin in it is
an output. -/
def State.drivers (s : State) (p : PadGroup) : List Dom :=
  (if (List.range 12).any (fun k => (s.slotAt p k).isSome) then [dBUR] else []) ++
  (if (List.range 12).any (fun k => (s.slotAt p k).isNone && s.bitOf (.pwrGpioOe p) k) then [dCORE] else [])

/-- Every driving domain of a group is ON. -/
def State.driversOn (s : State) (p : PadGroup) : Bool := (s.drivers p).all (fun d => s.domOn d)

/-! ## Hold and release (R96, R97) -/

/-- Why a hold engages. -/
inductive HoldCause where
  | domain
  | brace
  | word
  deriving DecidableEq, Repr

/-- Engage hold on a group: it keeps the present output state. A group that Brace held and whose driving domain then
leaves ON is held by the domain. -/
def State.hold (s : State) (p : PadGroup) (c : HoldCause) : State :=
  let b := 4 * p.val
  if s.held p then
    match c with
    | .domain => if s.heldByBrace p then (s.clearReg .pwrPadStat (bitMask (b + 2))).orReg .pwrPadStat (bitMask (b + 1)) else s
    | .brace => s
    | .word => s
  else
    let s := s.setPower (fun w => { w with heldOut := vset w.heldOut p (s.groupOut p), heldOe := vset w.heldOe p (s.groupOe p) })
    s.orReg .pwrPadStat (bitMask b ||| (match c with
      | .domain => bitMask (b + 1)
      | .brace => bitMask (b + 2)
      | .word => 0))

/-- Release a group: its pins take the state behind the hold. -/
def State.release (s : State) (p : PadGroup) : State :=
  s.clearReg .pwrPadStat (bitMask (4 * p.val) ||| bitMask (4 * p.val + 1) ||| bitMask (4 * p.val + 2))

/-- A driving domain leaves ON: every group it drives is held. -/
def State.holdFor (s : State) (d : Dom) : State :=
  (List.finRange 4).foldl (fun t p => if (t.drivers p).contains d then t.hold p .domain else t) s

/-- Brace engages hold on every group. -/
def State.holdAll (s : State) (c : HoldCause) : State := (List.finRange 4).foldl (fun t p => t.hold p c) s

/-- Release the holds that Brace engaged. -/
def State.releaseBrace (s : State) : State :=
  (List.finRange 4).foldl (fun t p => if t.heldByBrace p then t.release p else t) s

/-- A write of PWR_PAD_RELEASE that passed the rights check: each named group is released, or refused with REL_REF while
a driving domain is not ON (R97). -/
def State.padReleaseWrite (s : State) (v : Word) : State :=
  (List.finRange 4).foldl
    (fun (t : State) p =>
      if v.getLsbD p.val then
        if t.driversOn p then t.release p else t.orReg .pwrPadStat (bitMask (16 + p.val))
      else t) s

/-- VIO_LOSS (R98). -/
def execVioLoss (p : PadGroup) (s : State) : Host.Outcome State Fault Refusal :=
  done s (s.clearReg .pwrPadStat (bitMask (4 * p.val + 3)))

/-- VIO_RETURN (R98). -/
def execVioReturn (p : PadGroup) (s : State) : Host.Outcome State Fault Refusal :=
  done s (s.orReg .pwrPadStat (bitMask (4 * p.val + 3)))

/-! ## PAD_RELEASE_ASSIST (R99) -/

/-- The groups that a mask names. -/
def groupsOf (mask : Nat) : List PadGroup := (List.finRange 4).filter (fun p => mask / 2 ^ p.val % 2 = 1)

/-- An engine has a pin in a group. -/
def State.engineInGroup (s : State) (n : EngineNo) (p : PadGroup) : Bool :=
  (List.range 8).any (fun k => s.slotMapped n k && decide (s.pinMap n k % 4 = p.val))

/-- The release point: every driving domain of the groups is ON, and every engine with pins in them has reached a SYNC
or HALT word since BUR last entered ON. -/
def State.assistReady (s : State) (ps : List PadGroup) : Bool :=
  ps.all (fun p => s.driversOn p && (List.finRange 4).all (fun n => !s.engineInGroup n p || (s.engine n).synced))

/-- The groups that a caller names in RDG_ARG0[3:0]. -/
def State.assistGroups (s : State) (g : Gable) : List PadGroup := groupsOf (bitsOf (s.reg (.rdgArg0 g)) 3 0)

/-- All the groups that a caller names are released together, and its call ends. -/
def State.assistRelease (s : State) (g : Gable) : State :=
  ((s.assistGroups g).foldl (fun t p => t.release p) s).endService g E_OK

/-- A call that waits for its release point ends as soon as that is reached: an engine came to a SYNC or HALT word, or a
domain to ON. -/
def State.assistFollow (s : State) : State :=
  match s.ridge.ctx.routine with
  | .service g _ => if s.serviceWaits g 0x05 && s.assistReady (s.assistGroups g) then s.assistRelease g else s
  | .dispatch => s
  | .init => s
  | .trigger _ => s

/-- PAD_RELEASE_ASSIST: service 0x05, at its beginning or waiting for its release point. -/
def execPadReleaseAssist (g : Gable) (s : State) : Host.Outcome State Fault Refusal :=
  done s (s.when (s.serviceBegins g 0x05 || s.serviceWaits g 0x05) (fun s =>
    if (s.assistGroups g).any (fun p => decide (s.cfg.groupOwner p ≠ g)) then s.endService g E_NOT_OWNER
    else if s.assistReady (s.assistGroups g) then s.assistRelease g
    else s.serviceWait))

/-- PAD_RELEASE_TIMEOUT: 10 ms have passed, and no group is released unless the release point has been reached by then. -/
def execPadReleaseTimeout (g : Gable) (s : State) : Host.Outcome State Fault Refusal :=
  done s (s.when (s.serviceWaits g 0x05) (fun s =>
    if s.assistReady (s.assistGroups g) then s.assistRelease g else s.endService g E_TIMEOUT))

end Sys2Proof.Machine
end

