-- ==== Sys2Proof/Machine/Thatch.lean ====
section
/-! DEFINITION. Thatch, the buffer-pool manager (spec/12): pools, headers, the five operations, waits, returns, the
aperture, the snapshot and the rebuild. -/

namespace Sys2Proof.Machine

/-- Change Thatch. -/
def State.setThatch (s : State) (f : Thatch → Thatch) : State := { s with thatch := f s.thatch }

/-! ## Pools (R220, from THT_POOL_p) -/

def State.poolValid (s : State) (p : Fin 4) : Bool := s.bitOf (.thtPool1 p) 22
def State.poolBase (s : State) (p : Fin 4) : Nat := s.fieldOf (.thtPool0 p) 20 0
def State.poolCount (s : State) (p : Fin 4) : Nat := s.fieldOf (.thtPool1 p) 15 0
def State.poolSize (s : State) (p : Fin 4) : Nat := 2 ^ s.fieldOf (.thtPool1 p) 19 16
def State.poolOwned (s : State) (p : Fin 4) : Bool := s.bitOf (.thtPool1 p) 20
def State.poolFallback (s : State) (p : Fin 4) : Bool := s.bitOf (.thtPool1 p) 21

/-- Payload: the buffer size less its 8-byte header. -/
def State.poolPayload (s : State) (p : Fin 4) : Nat := s.poolSize p - 8

/-- The pool that an address lies in. -/
def State.poolOf (s : State) (a : Nat) : Option (Fin 4) :=
  (List.finRange 4).find? (fun p => s.poolValid p && decide (s.poolBase p ≤ a) &&
    decide (a < s.poolBase p + s.poolCount p * s.poolSize p))

/-- Thatch has a valid pool; without one every operation returns E_RANGE (R220). -/
def State.thtAny (s : State) : Bool := (List.finRange 4).any (fun p => s.poolValid p)

/-- A holder's quota in a pool (R222). -/
def State.quotaOf (s : State) (h : Holder) (p : Fin 4) : Nat :=
  if g : h.val < 8 then (s.cfg.desc[h.val]).quota[p.val]
  else if s.bitOf .thtCfg 3 then s.fieldOf (.thtLinkq p) 15 0 else 0

/-- A holder's charge in a pool (R228). -/
def State.chargeOf (s : State) (h : Holder) (p : Fin 4) : Nat := (s.thatch.charge[h.val])[p.val]

def State.setCharge (s : State) (h : Holder) (p : Fin 4) (n : Nat) : State :=
  s.setThatch (fun t => { t with charge := vmod t.charge h (fun c => vset c p n) })

/-- Room under the quota. -/
def State.room (s : State) (h : Holder) (p : Fin 4) : Bool := decide (s.chargeOf h p < s.quotaOf h p)

/-- Pools tried after a first candidate (R223): each next larger one while FALLBACK is 1. A pool that is not valid is no
candidate. -/
def State.fallbacks (s : State) : Nat → Fin 4 → List (Fin 4)
  | 0, p => [p]
  | n + 1, p =>
    if s.poolFallback p then
      if h : p.val + 1 < 4 then
        if s.poolValid ⟨p.val + 1, h⟩ then p :: s.fallbacks n ⟨p.val + 1, h⟩ else [p]
      else [p]
    else [p]

/-- The candidates of an ALLOC of `bytes` payload bytes (R223); the Otireno engine allocates in LINK_POOL only (R234). -/
def State.candidates (s : State) (h : Holder) (bytes : Nat) : List (Fin 4) :=
  if h.val = 8 then
    let p : Fin 4 := ⟨s.fieldOf .thtCfg 2 1 % 4, by omega⟩
    if s.poolValid p && decide (bytes ≤ s.poolPayload p) then [p] else []
  else
    match (List.finRange 4).find? (fun p => s.poolValid p && decide (bytes ≤ s.poolPayload p)) with
    | none => []
    | some p => s.fallbacks 3 p

/-! ## Headers (R221) -/

/-- A buffer header as read. -/
structure Header where
  low    : Nat
  guard  : Nat
  pool   : Nat
  holder : Nat
  high   : Nat
  st     : Nat
  bad    : Bool
  deriving DecidableEq, Repr

def hdrFree : Nat := 0xF0
def hdrAlloc : Nat := 0xA5
def hdrReturning : Nat := 0xC3

/-- Read a header for Thatch (R190: any line holding it goes first). -/
def State.readHeader (s : State) (a : Nat) : Header × State :=
  let s := s.evictHolder (a / 32)
  let (bs, bad, s) := s.bankRead reqThatch (wordOf a)
  let b6 := (bs.getD 6 0).toNat
  ({ low := leNat (bs.take 4), guard := leNat ((bs.drop 4).take 2), pool := b6 % 4, holder := b6 / 4 % 16,
     high := b6 / 64, st := (bs.getD 7 0).toNat, bad := bad }, s)

/-- Write a header whole. -/
def State.writeHeader (s : State) (a low : Nat) (p : Fin 4) (holder st : Nat) : State :=
  (s.evictHolder (a / 32)).bankWrite a
    (leBytes 4 low ++ leBytes 2 0x5A1F ++ [BitVec.ofNat 8 (p.val + 4 * holder), BitVec.ofNat 8 st])

/-- The end of a free list. -/
def nextEnd : Nat := 0xFFFFFFFF

/-- A free-list entry as NEXT codes it. -/
def nextCode (o : Option Nat) : Nat := o.getD nextEnd

/-- Put a buffer at the head of its pool's free list. -/
def State.pushFree (s : State) (p : Fin 4) (a : Nat) : State :=
  (s.writeHeader a (nextCode s.thatch.head[p.val]) p 0xF hdrFree).setThatch
    (fun t => { t with head := vset t.head p (some a) })

/-- Take the head of a pool's free list for a holder: the header then shows it, and the charge is the holder's. -/
def State.takeFree (s : State) (h : Holder) (p : Fin 4) (a : Nat) : State :=
  let (hd, s) := s.readHeader a
  let s := s.setThatch (fun t => { t with head := vset t.head p (if hd.low = nextEnd then none else some hd.low) })
  let s := s.writeHeader a (if s.poolOwned p then 0 else 1) p h.val hdrAlloc
  s.setCharge h p (s.chargeOf h p + 1)

/-! ## Waits (R226, R227) -/

/-- A waiter is eligible for a pool: it is one of its candidates and has quota room. -/
def State.eligible (s : State) (p : Fin 4) (h : Holder) : Bool :=
  match s.thatch.waits[h.val] with
  | none => false
  | some w => (s.candidates h w.bytes).contains p && s.room h p

/-- The oldest eligible waiter of a pool. -/
def State.oldestWaiter (s : State) (p : Fin 4) : Option Holder :=
  (List.finRange 9).foldl
    (fun best h =>
      if s.eligible p h then
        match best with
        | none => some h
        | some b =>
          let age := fun (x : Holder) => (s.thatch.waits[x.val]).elim 0 (fun w => w.age)
          if age h < age b then some h else best
      else best) none

/-- End a holder's wait, with the outcome in THT_WAIT and, for a served or timed out wait, event line 26 (R226, R227). -/
def State.endWait (s : State) (h : Holder) (code : Byte) (buffer : Option (Nat × Fin 4)) (event : Bool) : State :=
  let s := s.setThatch (fun t => { t with waits := vset t.waits h none })
  if g : h.val < 8 then
    let gb : Gable := ⟨h.val, g⟩
    let pool := buffer.elim 0 (fun b => b.2.val)
    let s := s.setReg (.thtWait gb) (BitVec.ofNat 32 (2 + 0x100 * code.toNat + 0x10000 * pool))
    let s := match buffer with
      | none => s
      | some b => s.setReg (.thtWaitHandle gb) (BitVec.ofNat 32 b.1)
    if event then s.pendLine gb 26 else s
  else s

/-- A buffer that the Otireno engine received goes to the port whose receive buffers are short of CRED (spec/14 R262);
it is then receiver-free. -/
def State.giveLink (s : State) (a : Nat) : State :=
  let short := fun (n : Port) => decide ((s.purlin.ports[n.val]).empty.length < s.fieldOf (.purPcfg n) 15 8) &&
    (decide ((s.purlin.ports[n.val]).link = .trained) || decide ((s.purlin.ports[n.val]).link = .asleep))
  match (List.finRange 2).find? short with
  | none => s
  | some n => { s with purlin := { s.purlin with ports := vmod s.purlin.ports n (fun q =>
      { q with empty := q.empty ++ [a], fresh := q.fresh + 1 }) } }

/-- Hand the head of a pool's free list to the oldest eligible waiter, if there are both. -/
def State.serveOnce (s : State) (p : Fin 4) : State :=
  match s.thatch.head[p.val], s.oldestWaiter p with
  | some a, some h =>
    let s := (s.takeFree h p a).endWait h E_OK (some (a, p)) true
    if h.val = 8 then s.giveLink a else s
  | _, _ => s

/-- Serve until no free buffer of the pool lies on the list while a waiter is eligible (R226). -/
def State.serve (s : State) (p : Fin 4) : State := (List.range 9).foldl (fun t _ => t.serveOnce p) s

/-- Return a buffer whose life has ended: its charge falls, and it goes to the oldest eligible waiter or the free list
(R226). -/
def State.returnBuffer (s : State) (a : Nat) (p : Fin 4) (charged : Nat) : State :=
  let h : Holder := ⟨charged % 9, by omega⟩
  ((s.setCharge h p (s.chargeOf h p - 1)).pushFree p a).serve p

/-! ## Operations -/

/-- What an ALLOC answers. -/
inductive AllocResult where
  | code (c : Byte)
  | queued
  | buffer (a : Nat) (p : Fin 4)
  deriving DecidableEq, Repr

/-- ALLOC (R223). `limit` is the wait's length in MOSC ticks. -/
def State.alloc (s : State) (h : Holder) (bytes : Nat) (wait : Bool) (limit : Nat) : AllocResult × State :=
  let cands := s.candidates h bytes
  match firstFail
      [(!s.thtAny, E_RANGE),
       ((s.thatch.waits[h.val]).isSome, E_BUSY),
       (bytes = 0 || cands.isEmpty, E_RANGE),
       (cands.all (fun p => !s.room h p), E_QUOTA)] with
  | some c => (.code c, s)
  | none =>
    match cands.find? (fun p => s.room h p && (s.thatch.head[p.val]).isSome) with
    | some p =>
      match s.thatch.head[p.val] with
      | some a => (.buffer a p, s.takeFree h p a)
      | none => (.code E_EMPTY, s)
    | none =>
      if wait then
        (.queued, s.setThatch (fun t =>
          { t with
            waits := vset t.waits h (some { age := t.waitSeq, bytes := bytes, left := limit })
            waitSeq := t.waitSeq + 1 }))
      else (.code E_EMPTY, s)

/-- The operations that name a buffer. -/
inductive BufOp where
  | free
  | retain
  | transfer (target : Holder)
  | select
  deriving DecidableEq, Repr

/-- Checks 1 to 3 of R224, which need no header. -/
def State.handleEarly (s : State) (h : Holder) (a : Nat) : Option Byte :=
  match s.poolOf a with
  | none => some E_RANGE
  | some p => firstFail
      [((a - s.poolBase p) % s.poolSize p ≠ 0, E_ALIGN),
       (s.quotaOf h p = 0, E_NOT_OWNER)]

/-- Checks 4 to 8 of R224 on a header as read. -/
def State.handleLate (s : State) (h : Holder) (p : Fin 4) (hd : Header) (op : BufOp) : Option Byte :=
  let owned := s.poolOwned p
  firstFail
    [(hd.bad || hd.guard ≠ 0x5A1F || hd.pool ≠ p.val || hd.high ≠ 0, E_RANGE),
     (match op with | .retain => owned | .transfer _ => !owned | .free => false | .select => false, E_RANGE),
     (hd.st ≠ hdrAlloc, E_FREE_TWICE),
     (owned && hd.holder ≠ h.val, E_NOT_OWNER),
     (match op with | .retain => hd.low % 256 = 255 | .transfer _ => false | .free => false | .select => false, E_RANGE),
     (match op with
      | .transfer t => t ≠ h && !s.room t p
      | .retain => false | .free => false | .select => false, E_QUOTA)]

/-- The checks of R224 in order: the code of the first that fails, the pool and header when none does, and the state,
in which a failure at check 4 counted in BAD. -/
def State.checkHandle (s : State) (h : Holder) (a : Nat) (op : BufOp) : Option Byte × Fin 4 × Header × State :=
  let dead : Header := { low := 0, guard := 0, pool := 0, holder := 0, high := 0, st := 0, bad := true }
  match s.handleEarly h a, s.poolOf a with
  | some c, _ => (some c, 0, dead, s)
  | none, none => (some E_RANGE, 0, dead, s)
  | none, some p =>
    let (hd, s) := s.readHeader a
    let s := if hd.bad || hd.guard ≠ 0x5A1F || hd.pool ≠ p.val || hd.high ≠ 0 then
      s.setThatch (fun t => { t with bad := vmod t.bad p (fun n => if n = 255 then n else n + 1) }) else s
    (s.handleLate h p hd op, p, hd, s)

/-- FREE, RETAIN and TRANSFER (R224, R225): the code, the REFCNT and pool to show, and the state. -/
def State.bufOp (s : State) (h : Holder) (a : Nat) (op : BufOp) : Byte × Nat × Fin 4 × State :=
  match s.checkHandle h a op with
  | (some c, _, _, s) => (c, 0, 0, s)
  | (none, p, hd, s) =>
    match op with
    | .free =>
      if s.poolOwned p || hd.low % 256 ≤ 1 then
        let s := s.writeHeader a 0 p hd.holder hdrReturning
        (E_OK, 0, p, s.returnBuffer a p hd.holder)
      else (E_OK, hd.low % 256 - 1, p, s.writeHeader a (hd.low % 256 - 1) p hd.holder hdrAlloc)
    | .retain => (E_OK, hd.low % 256 + 1, p, s.writeHeader a (hd.low % 256 + 1) p hd.holder hdrAlloc)
    | .transfer t =>
      if t = h then (E_OK, 0, p, s)
      else
        let s := s.writeHeader a 0 p t.val hdrAlloc
        let s := s.setCharge h p (s.chargeOf h p - 1)
        let s := s.setCharge t p (s.chargeOf t p + 1)
        (E_OK, 0, p, s.serve p)
    | .select => (E_OK, 0, p, s)

/-- The codes that count as misuse (R225). -/
def isMisuse (c : Byte) : Bool := c = E_RANGE || c = E_ALIGN || c = E_NOT_OWNER || c = E_FREE_TWICE

/-- Count a misuse against the caller (R225). -/
def State.misuse (s : State) (g : Gable) (c : Byte) (addr : Nat) : State :=
  if isMisuse c then
    let s := s.satField (.thtMisuse g) 31 0
    if (s.cfg.desc[g.val]).strict then s.recordFault g c (BitVec.ofNat 32 addr) else s
  else s

/-- The word THT_RESULT shows. -/
def thtResultWord (c : Byte) (queued : Bool) (refcnt pool : Nat) : Word :=
  BitVec.ofNat 32 (c.toNat + (if queued then 0x100 else 0) + 0x10000 * refcnt + 0x1000000 * pool)

/-- A gable as a holder. -/
def holderOf (g : Gable) : Holder := ⟨g.val, by omega⟩

/-- ALLOC by a gable. -/
def State.gableAlloc (s : State) (g : Gable) (v : Word) : State :=
  let tmo := bitsOf v 15 8
  let limit := if tmo = 0 then 1000 * s.fieldOf .thtCfg 15 8 else 100 * tmo
  match s.alloc (holderOf g) (s.reg (.thtArg g)).toNat (v.getLsbD 3) limit with
  | (.code c, s) => s.setReg (.thtResult g) (thtResultWord c false 0 0)
  | (.queued, s) =>
    (s.setReg (.thtResult g) (thtResultWord E_OK true 0 0)).setReg (.thtWait g) 1
  | (.buffer a p, s) =>
    (s.setReg (.thtResult g) (thtResultWord E_OK false 0 p.val)).setReg (.thtHandle g) (BitVec.ofNat 32 a)

/-- FREE, RETAIN or TRANSFER by a gable. -/
def State.gableBufOp (s : State) (g : Gable) (op : BufOp) : State :=
  let (c, refcnt, p, s) := s.bufOp (holderOf g) (s.reg (.thtArg g)).toNat op
  (s.setReg (.thtResult g) (thtResultWord c false refcnt p.val)).misuse g c (Reg.addr (.thtOp g))

/-- CANCEL by a holder (R227): an outstanding wait ends with E_EMPTY and no event. -/
def State.cancelWait (s : State) (h : Holder) : State :=
  if (s.thatch.waits[h.val]).isSome then s.endWait h E_EMPTY none false else s

/-- CANCEL by a gable: it writes no result of its own. -/
def State.gableCancel (s : State) (g : Gable) : State :=
  if s.thtAny then s.cancelWait (holderOf g) else s.setReg (.thtResult g) (thtResultWord E_RANGE false 0 0)

/-- A THT_OP write that passed the register checks (Table THT-2). -/
def State.thtOpWrite (s : State) (g : Gable) (v : Word) : State :=
  match bitsOf v 2 0 with
  | 1 => s.gableAlloc g v
  | 2 => s.gableBufOp g .free
  | 3 => s.gableBufOp g .retain
  | 4 => s.gableBufOp g (.transfer ⟨bitsOf v 7 4 % 9, by omega⟩)
  | 5 => s.gableCancel g
  | _ => s

/-- A THT_SEL write (R224, R225): discarded when a check fails. -/
def State.selWrite (s : State) (g : Gable) (v : Word) : State :=
  match s.checkHandle (holderOf g) v.toNat .select with
  | (some c, _, _, s) => s.misuse g c (Reg.addr (.thtSel g))
  | (none, _, _, s) => s.setReg (.thtSel g) v

/-- A THT_WAIT write with ACK turns DONE into none (R227). -/
def State.waitAck (s : State) (g : Gable) : State :=
  if s.fieldOf (.thtWait g) 1 0 = 2 then s.setReg (.thtWait g) 0 else s

/-! ## The aperture (R231) -/

/-- The bank address that an aperture access reaches, or the code it records. -/
def State.apertureAt (s : State) (g : Gable) (off : Nat) (n : Nat) : (Nat × State) ⊕ (Byte × State) :=
  let a := (s.reg (.thtSel g)).toNat
  match s.checkHandle (holderOf g) a .select with
  | (some _, _, _, _) =>
    .inr (E_NOT_OWNER, if (s.handleEarly (holderOf g) a).isSome then s else (s.readHeader a).2)
  | (none, p, _, s) => if off + n ≤ s.poolPayload p then .inl (a + 8 + off, s) else .inr (E_RANGE, s)

/-- An aperture load: the data, whether it is bad, and the state. -/
def State.apertureLoad (s : State) (g : Gable) (off n : Nat) : Nat × Bool × State :=
  match s.apertureAt g off n with
  | .inr (c, s) => (0, false, s.recordFault g c (BitVec.ofNat 32 (0x40068000 + off)))
  | .inl (a, s) =>
    let s := s.evictHolder (a / 32)
    let (bs, bad, s) := s.bankRead reqThatch (wordOf a)
    (leNat ((bs.drop (a % 8)).take n), bad, s)

/-- An aperture store. -/
def State.apertureStore (s : State) (g : Gable) (off n v : Nat) : State :=
  match s.apertureAt g off n with
  | .inr (c, s) => s.recordFault g c (BitVec.ofNat 32 (0x40068000 + off))
  | .inl (a, s) => (s.evictHolder (a / 32)).bankWrite a (leBytes n v)

/-! ## Snapshot, rebuild, restart -/

/-- Buffers of a pool that are charged to any holder. -/
def State.allocated (s : State) (p : Fin 4) : Nat := (List.finRange 9).foldl (fun n h => n + s.chargeOf h p) 0

/-- Holders that wait with a pool among their candidates. -/
def State.waiters (s : State) (p : Fin 4) : Nat :=
  ((List.finRange 9).filter (fun h => (s.thatch.waits[h.val]).elim false (fun w => (s.candidates h w.bytes).contains p))).length

/-- Copy the counts of every pool into THT_STAT_p between two operations (R229). -/
def State.thtSnapshot (s : State) : State :=
  (List.finRange 4).foldl
    (fun (t : State) p =>
      let n := if s.poolValid p then s.allocated p else 0
      let count := if s.poolValid p then s.poolCount p else 0
      (t.setReg (.thtStat0 p) (BitVec.ofNat 32 (count - n + 0x10000 * n))).setReg (.thtStat1 p)
        (BitVec.ofNat 32 (0x10000 * s.waiters p + 0x1000000 * s.thatch.bad[p.val]))) s

/-- Write the headers of one pool as a free list in ascending order (R232). -/
def State.rebuildPool (s : State) (p : Fin 4) : State :=
  if s.poolValid p then
    let n := s.poolCount p
    let at_ := fun k => s.poolBase p + k * s.poolSize p
    let t := (List.range n).foldl
      (fun (t : State) k => t.bankWrite (at_ k)
        (leBytes 4 (if k + 1 < n then at_ (k + 1) else nextEnd) ++ leBytes 2 0x5A1F ++
          [BitVec.ofNat 8 (p.val + 0x3C), BitVec.ofNat 8 hdrFree])) s
    t.setThatch (fun x => { x with head := vset x.head p (if n = 0 then none else some (at_ 0)) })
  else s.setThatch (fun x => { x with head := vset x.head p none })

/-- Rebuild every free list from the Plate layout: every buffer is free, every charge 0, every wait has ended (R232). -/
def State.thtRebuild (s : State) : State :=
  let s := s.setThatch (fun t =>
    { t with
      charge := Vector.replicate 9 (Vector.replicate 4 0)
      waits := Vector.replicate 9 none
      bad := Vector.replicate 4 0 })
  (List.finRange 4).foldl (fun t p => t.rebuildPool p) s

/-- Deliver line 26 to a gable that now runs after POOL's loss ended its wait (R232). -/
def State.tellDlost (s : State) (g : Gable) : State :=
  if s.thatch.tell[g.val] then
    (s.setThatch (fun t => { t with tell := vset t.tell g false })).pendLine g 26
  else s

/-- The waits that end because POOL leaves ON for OFF: THT_WAIT will show E_DLOST, and line 26 comes when their gables next
run, which for the gable on the core is now (R232). -/
def State.poolLost (s : State) : State :=
  let s := s.setThatch (fun t =>
    { t with
      dlost := Vector.ofFn (fun g : Fin 8 => t.dlost[g.val] || (t.waits[g.val]).isSome)
      tell := Vector.ofFn (fun g : Fin 8 => t.tell[g.val] || (t.waits[g.val]).isSome)
      redo := Vector.replicate 8 false
      waits := Vector.replicate 9 none })
  match s.core.running with
  | none => s
  | some g => s.tellDlost g

/-- THT_WAIT of the gables whose wait POOL's loss ended, as POOL's registers come back (R232). -/
def State.showDlost (s : State) : State :=
  ((List.finRange 8).foldl
    (fun (t : State) g => if t.thatch.dlost[g.val] then
      t.setReg (.thtWait g) (BitVec.ofNat 32 (2 + 0x100 * E_DLOST.toNat)) else t) s).setThatch
    (fun t => { t with dlost := Vector.replicate 8 false })

/-- Return every OWNED buffer of a gable in a pool (R233). -/
def State.returnOwned (s : State) (g : Gable) (p : Fin 4) : State :=
  if s.poolValid p && s.poolOwned p then
    (List.range (s.poolCount p)).foldl
      (fun (t : State) k =>
        let a := t.poolBase p + k * t.poolSize p
        let (hd, t) := t.readHeader a
        if hd.st = hdrAlloc && hd.holder = g.val then
          (t.writeHeader a 0 p g.val hdrReturning).returnBuffer a p g.val
        else t) s
  else s

/-- A gable's wait ends without event, its THT_WAIT and THT_MISUSE are cleared, and its OWNED buffers return (R233). -/
def State.thtRelease (s : State) (g : Gable) : State :=
  let s := s.setThatch (fun t => { t with waits := vset t.waits (holderOf g) none })
  let s := (s.setReg (.thtWait g) 0).setReg (.thtMisuse g) 0
  (List.finRange 4).foldl (fun t p => t.returnOwned g p) s

/-- What a gable's restart does to its Thatch holdings (R233). While POOL is in RET, which keeps everything (R232), it
waits for POOL to be ON again (notes/assumptions/54.md). -/
def State.thtRestart (s : State) (g : Gable) : State :=
  let s := s.setThatch (fun t => { t with dlost := vset t.dlost g false, tell := vset t.tell g false })
  if s.domOn dPOOL then s.thtRelease g else s.setThatch (fun t => { t with redo := vset t.redo g true })

/-- POOL is ON again from RET: what restarts left undone is done now. -/
def State.thtResume (s : State) : State :=
  ((List.finRange 8).foldl (fun (t : State) g => if t.thatch.redo[g.val] then t.thtRelease g else t) s).setThatch
    (fun t => { t with redo := Vector.replicate 8 false })

/-- Waits count MOSC ticks while POOL is ON (R227). -/
def State.tickThatch (s : State) : State :=
  if s.domOn dPOOL then
    s.setThatch (fun t => { t with waits := t.waits.map (fun w => w.map (fun w => { w with left := w.left - 1 })) })
  else s

/-! ## The Otireno engine as holder 8 (R234, spec/14 R262) -/

/-- Allocate receive buffers until every trained port has CRED of them, waiting when none is free. -/
def State.replenish (s : State) : State :=
  if s.bitOf .thtCfg 3 && s.domOn dPOOL then
    (List.range 130).foldl
      (fun (t : State) _ =>
        let wants := (List.finRange 2).any (fun n =>
          decide ((t.purlin.ports[n.val]).empty.length < t.fieldOf (.purPcfg n) 15 8) &&
            (decide ((t.purlin.ports[n.val]).link = .trained) || decide ((t.purlin.ports[n.val]).link = .asleep)))
        if wants && (t.thatch.waits[8]).isNone then
          let p : Fin 4 := ⟨t.fieldOf .thtCfg 2 1 % 4, by omega⟩
          match t.alloc 8 (t.poolPayload p) true (1000 * t.fieldOf .thtCfg 15 8) with
          | (.buffer a _, t) => t.giveLink a
          | (.queued, t) => t
          | (.code _, t) => t
        else t) s
  else s

/-- THATCH_WAIT_TIMEOUT: a wait whose time has run out ends with E_TIMEOUT and line 26; the Otireno engine asks again
(R227). Waits end only while POOL is ON. -/
def execThatchWaitTimeout (h : Holder) (s : State) : Host.Outcome State Fault Refusal :=
  done s (s.when (s.domOn dPOOL && (s.thatch.waits[h.val]).elim false (fun w => decide (w.left = 0))) (fun s =>
    let s := s.endWait h E_TIMEOUT none true
    if h.val = 8 then s.replenish else s))

end Sys2Proof.Machine
end

