-- ==== Sys2Proof/Machine/Wire.lean ====
section
/-! DEFINITION. The Purlin wire (spec/14): received frames byte by byte (Table PUR-3), what is sent as characters
(Table PUR-1), and the 8b/10b code (R253). -/

namespace Sys2Proof

/-! ## Received frames (R258, Table PUR-3) -/

/-- The bytes between SFD and EFD; whether a character there was a violation; the opcode; and RSP. -/
def Frame.bytes (f : Frame) : List Byte := f.body.getD []
def Frame.violation (f : Frame) : Bool := f.body.isNone
def Frame.opc (f : Frame) : BitVec 4 := (f.bytes.getD 0 0).setWidth 4
def Frame.rsp (f : Frame) : Bool := (f.bytes.getD 0 0).getLsbD 7
def Frame.flags (f : Frame) : Byte := f.bytes.getD 1 0

/-- The gable that SESS names. -/
def Frame.sess (f : Frame) : Gable := ⟨(f.bytes.getD 2 0).toNat % 8, by omega⟩

/-- The opcodes whose frames carry SEQ and TAG (Table PUR-4). -/
def sequenced (opc : BitVec 4) : Bool := opc = 0x2 || (decide (4 ≤ opc.toNat) && decide (opc.toNat ≤ 8)) || opc = 0xC

/-- The opcodes of control frames (Table PUR-4). -/
def control (opc : BitVec 4) : Bool := opc = 0x1 || opc = 0x3 || decide (9 ≤ opc.toNat)

/-- Where DATA begins. -/
def Frame.dataAt (f : Frame) : Nat := if sequenced f.opc then 10 else 6

/-- LEN, DATA and the fields of a sequenced frame, most significant byte first. -/
def Frame.len (f : Frame) : Nat := Machine.beNat ((f.bytes.drop 4).take 2)
def Frame.seq (f : Frame) : Word := BitVec.ofNat 32 (Machine.beNat ((f.bytes.drop 6).take 4))
def Frame.data (f : Frame) : List Byte := (f.bytes.drop f.dataAt).take f.len
def Frame.tag (f : Frame) : List Byte := (f.bytes.drop (f.dataAt + f.len)).take 8

/-- The bytes that a frame with this opcode and LEN has, FCS included. -/
def Frame.size (f : Frame) : Nat := f.dataAt + f.len + (if sequenced f.opc then 8 else 0) + 4

/-- The FCS is the CRC-32 of every byte before it. -/
def Frame.fcsOk (f : Frame) : Bool :=
  let n := f.bytes.length - 4
  decide (Machine.beNat (f.bytes.drop n) = (Machine.crc32 (f.bytes.take n)).toNat)

/-- FLAGS bits that an opcode names (Table PUR-4, R265). -/
def flagsOk (opc : BitVec 4) (flags : Byte) : Bool :=
  flags = 0 || ((opc = 0x1 || opc = 0x6 || opc = 0x7 || opc = 0x8) && flags = 1)

/-- Why a received frame is discarded, if it is (R259): a violation; an FCS that fails; a length that breaks Table PUR-3;
a reserved opcode, RSP = 1, or BUSY, which only the warden sends; a field that is not 0 where it must be. -/
def Frame.discard (f : Frame) : Option DiscardCause :=
  let first := (f.bytes.getD 0 0).toNat
  if f.violation || f.bytes.length < 4 then some .other
  else if !f.fcsOk then some .fcs
  else if f.bytes.length < 10 || f.bytes.length ≠ f.size || 508 < f.bytes.length then some .other
  else if f.opc = 0 || decide (0xC ≤ f.opc.toNat) || f.rsp then some .other
  else if first / 16 % 8 ≠ 0 || decide (8 ≤ (f.bytes.getD 2 0).toNat) || f.bytes.getD 3 0 ≠ 0 || !flagsOk f.opc f.flags then
    some .other
  else none

/-- The frame with its fields as Table PUR-3 lays them out, and its FCS. -/
def Frame.make (port : Port) (opc : BitVec 4) (flags : Byte) (sess : Gable) (seq : Word) (data tag : List Byte) : Frame :=
  let body := [opc.setWidth 8, flags, BitVec.ofNat 8 sess.val, 0] ++ Machine.beBytes 2 data.length ++
    (if sequenced opc then Machine.beBytes 4 seq.toNat else []) ++ data ++ (if sequenced opc then tag else [])
  { port := port, body := some (body ++ Machine.beBytes 4 (Machine.crc32 body).toNat) }

end Sys2Proof

namespace Sys2Proof.Machine

/-! ## Characters (Table PUR-1) -/

/-- A character: control (K) or data (D), as a byte that holds y in its upper three bits and x in its lower five. -/
structure LineChar where
  k : Bool
  v : Byte
  deriving DecidableEq, Repr

def charD (v : Byte) : LineChar := { k := false, v := v }
def charK (x y : Nat) : LineChar := { k := true, v := BitVec.ofNat 8 (32 * y + x) }

/-- The comma, and IDLE. -/
def charK28_5 : LineChar := charK 28 5
def idleSet : List LineChar := [charK28_5, charD 0x50]

/-- `count` character positions filled with IDLE. -/
def idleFill : Nat → List LineChar
  | 0 => []
  | 1 => [charK28_5]
  | n + 2 => idleSet ++ idleFill n

/-- A body between SFD and EFD, with its FCS. -/
def frameChars (body : List Byte) : List LineChar :=
  [charK 27 7] ++ (body ++ beBytes 4 (crc32 body).toNat).map charD ++ [charK 29 7]

/-- A training set: its second character tells TS1 from TS2. -/
def trainChars (second : Byte) (rate role : BitVec 2) (tkt : BitVec 16) (port : Port) : List LineChar :=
  charK28_5 :: ([second, rate.setWidth 8, role.setWidth 8] ++ beBytes 2 tkt.toNat ++ [BitVec.ofNat 8 port.val, 0]).map charD

/-- The first six bytes of a body. -/
def bodyHead (opc flags sess code : Byte) (len : Nat) : List Byte := [opc, flags, sess, code] ++ beBytes 2 len

/-- The bytes before FCS of a frame that the warden sends (Table PUR-3); none for an ordered set. -/
def TxFrame.body : TxFrame → List Byte
  | .ts1 _ _ _ _ => []
  | .ts2 _ _ _ _ => []
  | .sof _ _ => []
  | .slp => []
  | .credit epoch cum => bodyHead 0x09 0 0 0 3 ++ [epoch] ++ beBytes 2 cum.toNat
  | .swapReq tkt => bodyHead 0x0A 0 0 0 2 ++ beBytes 2 tkt.toNat
  | .swapAck tkt => bodyHead 0x0B 0 0 0 2 ++ beBytes 2 tkt.toNat
  | .ping d => bodyHead 0x83 0 0 0 d.length ++ d
  | .openResp g code d => bodyHead 0x81 0 (BitVec.ofNat 8 g.val) code d.length ++ d
  | .response opc flags g code seq d tag =>
    bodyHead (0x80 ||| opc.setWidth 8) flags (BitVec.ofNat 8 g.val) code d.length ++ beBytes 4 seq.toNat ++ d ++ tag

/-- What a queued item puts on the line. -/
def TxFrame.chars : TxFrame → List LineChar
  | .ts1 rate role tkt port => trainChars 0x4A rate role tkt port
  | .ts2 rate role tkt port => trainChars 0x45 rate role tkt port
  | .sof head sfn =>
    let c := charK 28 (if head then 1 else 2)
    [charK28_5, c, c, charD sfn]
  | .slp => [charK28_5, charK 28 6, charK 28 6, charK 28 6]
  | .credit epoch cum => frameChars (TxFrame.credit epoch cum).body
  | .swapReq tkt => frameChars (TxFrame.swapReq tkt).body
  | .swapAck tkt => frameChars (TxFrame.swapAck tkt).body
  | .ping d => frameChars (TxFrame.ping d).body
  | .openResp g code d => frameChars (TxFrame.openResp g code d).body
  | .response opc flags g code seq d tag => frameChars (TxFrame.response opc flags g code seq d tag).body

/-! ## 8b/10b (R253) -/

/-- The six-bit groups abcdei of x = 0 to 31 for a negative running disparity, and that of K28. -/
def code6 : List Nat :=
  [0x27, 0x1D, 0x2D, 0x31, 0x35, 0x29, 0x19, 0x38, 0x39, 0x25, 0x15, 0x34, 0x0D, 0x2C, 0x1C, 0x17,
   0x1B, 0x23, 0x13, 0x32, 0x0B, 0x2A, 0x1A, 0x3A, 0x33, 0x26, 0x16, 0x36, 0x0E, 0x2E, 0x1E, 0x2B]
def code6K28 : Nat := 0x0F

/-- The four-bit groups fghj of y = 0 to 7 for a negative running disparity: data, and control. D.x.7 has a second form. -/
def code4 : List Nat := [0xB, 0x9, 0x5, 0xC, 0xD, 0xA, 0x6, 0xE]
def code4K : List Nat := [0xB, 0x6, 0xA, 0xC, 0xD, 0x5, 0x9, 0x7]
def code4A7 : Nat := 0x7

/-- Ones in a group. -/
def ones (v : Nat) : Nat := ((List.range 6).filter (fun k => v / 2 ^ k % 2 = 1)).length

/-- The second form of D.x.7: it avoids runs of five equal bits. -/
def alternate7 (plus : Bool) (x : Nat) : Bool := if plus then [11, 13, 14].contains x else [17, 18, 20].contains x

/-- The six-bit group of a character at a running disparity, and the disparity after it. -/
def encode6 (plus : Bool) (k : Bool) (x : Nat) : Nat × Bool :=
  let g := if k && x = 28 then code6K28 else code6.getD x 0
  (if plus && (ones g ≠ 3 || x = 7 || (k && x = 28)) then 63 - g else g, plus != decide (ones g ≠ 3))

/-- The four-bit group of a character at the disparity after its six-bit group, and the disparity after it. -/
def encode4 (plus : Bool) (k : Bool) (x y : Nat) : Nat × Bool :=
  let g := if k then code4K.getD y 0 else if y = 7 && alternate7 plus x then code4A7 else code4.getD y 0
  (if plus && (k || ones g ≠ 2 || y = 3) then 15 - g else g, plus != decide (ones g ≠ 2))

/-- The ten bits of a character, `a` first, and the running disparity after it (`true` is positive). -/
def encodeChar (plus : Bool) (c : LineChar) : BitVec 10 × Bool :=
  let x := c.v.toNat % 32
  let y := c.v.toNat / 32
  let (g6, p) := encode6 plus c.k x
  let (g4, p) := encode4 p c.k x y
  (BitVec.ofNat 10 (16 * g6 + g4), p)

/-- Characters as code groups, and the running disparity after them. -/
def encodeChars : Bool → List LineChar → List (BitVec 10) × Bool
  | plus, [] => ([], plus)
  | plus, c :: cs =>
    let (w, p) := encodeChar plus c
    let (ws, q) := encodeChars p cs
    (w :: ws, q)

/-- Every character that the code has. -/
def allChars : List LineChar :=
  (List.range 256).map (fun v => charD (BitVec.ofNat 8 v)) ++ (List.range 8).map (fun y => charK 28 y) ++
    [charK 23 7, charK 27 7, charK 29 7, charK 30 7]

/-- A received group is a code or disparity violation: no character has it at the receiver's running disparity. -/
def violates (plus : Bool) (group : BitVec 10) : Bool := allChars.all (fun c => decide ((encodeChar plus c).1 ≠ group))

end Sys2Proof.Machine
end

