-- ==== Sys2Proof/Machine/PurlinBase.lean ====
section
/-! DEFINITION. Purlin ports and Otireno sessions (spec/14): queues, the credit ledger, tags, closing, training. -/

namespace Sys2Proof.Machine

/-- Change the link block. -/
def State.setPurlin (s : State) (f : Purlin → Purlin) : State := { s with purlin := f s.purlin }

def State.port (s : State) (p : Port) : PortState := s.purlin.ports[p.val]

def State.setPort (s : State) (p : Port) (f : PortState → PortState) : State :=
  s.setPurlin (fun u => { u with ports := vmod u.ports p f })

def State.session (s : State) (g : Gable) (p : Port) : Option Session := (s.purlin.sess[g.val])[p.val]

def State.putSession (s : State) (g : Gable) (p : Port) (x : Option Session) : State :=
  s.setPurlin (fun u => { u with sess := vmod u.sess g (fun v => vset v p x) })

/-- Change an open session. -/
def State.setSession (s : State) (g : Gable) (p : Port) (f : Session → Session) : State :=
  match s.session g p with
  | none => s
  | some x => s.putSession g p (some (f x))

/-- In the BARE state (R274). -/
def State.bare (s : State) : Bool := decide (s.life = .bare)

/-! ## Training (R254) -/

/-- LINKPLL has its reference for a port: FRC through the port's gate, or a qualified EXTREF (R66, R253, Table CLK-3). -/
def State.pllRef (s : State) (p : Port) : Bool :=
  if s.bitOf (.purPcfg p) 5 then s.bitOf .clkStat 4 else s.gateRuns (13 + p.val)

/-- A port may run: LINK is ON and the port is enabled, which it is only while holder 8 is present (spec/12 R234), or the
warden is BARE. -/
def State.portOn (s : State) (p : Port) : Bool :=
  s.domOn dLINK && ((s.bitOf (.purPcfg p) 0 && s.bitOf .thtCfg 3) || s.bare)

/-- The role and the highest rate that a port offers; in the BARE state tail at 0.5 Gbit/s (R274). -/
def State.ownRole (s : State) (p : Port) : BitVec 2 := if s.bare then 0 else BitVec.ofNat 2 (s.fieldOf (.purPcfg p) 4 3)
def State.ownRate (s : State) (p : Port) : BitVec 2 := if s.bare then 0 else BitVec.ofNat 2 (s.fieldOf (.purPcfg p) 2 1)

/-- Put ordered sets and frames on the line, and IDLE up to `fill` characters in all (R257). -/
def PortState.transmit (q : PortState) (fs : List TxFrame) (fill : Nat) : PortState :=
  let cs := fs.flatMap TxFrame.chars
  let r := encodeChars q.plus (cs ++ idleFill (fill - cs.length))
  { q with wire := fs, line := r.1, plus := r.2 }

/-- Start training (R254). The ticket is a draw of the noise RNG, a free value. -/
def State.train1 (s : State) (p : Port) : State :=
  if s.portOn p then
    let (w, s) := s.freshWord
    s.setPort p (fun q =>
      let q : PortState :=
        { q with
          link := .training, head := false, rate := 0, ts1 := 0, ts2 := 0, sofs := 0, ticket := w.setWidth 16,
          swap := .linked, reissued := false, act := false }
      q.transmit [.ts1 (s.ownRate p) (s.ownRole p) q.ticket p] 0)
  else s

/-- A port enters link sleep: it sends SLP four times and stops driving (R256). -/
def PortState.goToSleep (q : PortState) : PortState :=
  PortState.transmit { q with link := .asleep } (List.replicate 4 .slp) 0

/-- A port leaves link sleep and trains (R256). -/
def State.leaveSleep (s : State) (p : Port) : State :=
  if (s.port p).link = .asleep && s.portOn p then (s.orReg (.purPevt p) (bitMask 5)).train1 p else s

/-! ## Frames (Table PUR-3) -/

/-- Opcodes (Table PUR-4). -/
def opcOpen : BitVec 4 := 0x1
def opcPing : BitVec 4 := 0x3
def opcClose : BitVec 4 := 0x2
def opcReadReg : BitVec 4 := 0x4
def opcWriteReg : BitVec 4 := 0x5
def opcWinRead : BitVec 4 := 0x6
def opcWinWrite : BitVec 4 := 0x7
def opcMsgSend : BitVec 4 := 0x8
def opcBusy : BitVec 4 := 0xC

/-- The body of a sequenced frame up to the end of DATA. -/
def frameBody (rsp : Bool) (opc : BitVec 4) (flags : Byte) (g : Gable) (code : Byte) (seq : Word) (data : List Byte) :
    List Byte :=
  [(if rsp then 0x80 else 0) ||| opc.setWidth 8, flags, BitVec.ofNat 8 g.val, code] ++ beBytes 2 data.length ++
    beBytes 4 seq.toNat ++ data

/-- TAG (R268): DIR is 0x00 toward the warden and 0x01 from it. -/
def frameTag (ks : List Byte) (fromWarden : Bool) (body : List Byte) : List Byte :=
  (hmac ks ((if fromWarden then 1 else 0) :: body)).take 8

/-- Queue a control frame; a port in link sleep leaves it (R256). -/
def State.sendCtl (s : State) (p : Port) (f : TxFrame) : State :=
  (s.setPort p (fun q => { q with ctl := q.ctl ++ [f] })).leaveSleep p

/-- Queue a frame that consumes a credit; a port in link sleep leaves it (R256). -/
def State.sendData (s : State) (p : Port) (f : TxFrame) : State :=
  (s.setPort p (fun q => { q with data := q.data ++ [f] })).leaveSleep p

/-- A response with its TAG. -/
def Session.response (x : Session) (opc : BitVec 4) (flags : Byte) (g : Gable) (code : Byte) (seq : Word)
    (data : List Byte) : TxFrame :=
  .response opc flags g code seq data (frameTag x.ks true (frameBody true opc flags g code seq data))

/-- Count a discarded frame (R259). -/
def State.discardFrame (s : State) (p : Port) : State := s.satField (.purPerr p) 23 16

/-- The receive buffer of a performed frame is empty again and returns by a later CREDIT (R260). -/
def State.bufferBack (s : State) (p : Port) : State := s.setPort p (fun q => { q with fresh := q.fresh + 1 })

/-! ## Sessions (R265 to R271) -/

/-- A session holds the frame of a deferred command in a receive buffer. -/
def Session.holdsFrame (x : Session) : Bool := x.pending.elim false (fun c => c.frame.isSome)

/-- Close a session (R269): its key, cached response and pending command go, the buffer of a deferred command returns
(R260), and line 28 pends at the gable. -/
def State.closeSession (s : State) (g : Gable) (p : Port) : State :=
  match s.session g p with
  | none => s
  | some x => ((if x.holdsFrame then s.bufferBack p else s).putSession g p none).pendLine g 28

def State.closeGable (s : State) (g : Gable) : State := (List.finRange 2).foldl (fun t p => t.closeSession g p) s
def State.closePort (s : State) (p : Port) : State := (List.finRange 8).foldl (fun t g => t.closeSession g p) s
def State.closeAll (s : State) : State := (List.finRange 2).foldl (fun t p => t.closePort p) s

/-- Queue and cache a response to a session's command, which is then no longer pending; SEQ 0xFFFF_FFFF closes the
session after its response (R268, R269). -/
def State.respond (s : State) (g : Gable) (p : Port) (opc : BitVec 4) (flags : Byte) (code : Byte) (seq : Word)
    (data : List Byte) : State :=
  match s.session g p with
  | none => s
  | some x =>
    let f := x.response opc flags g code seq data
    let s := (s.sendData p f).setSession g p (fun x => { x with cached := some f, pending := none })
    if seq = 0xFFFFFFFF then s.closeSession g p else s

/-- Answer a gable's pending REPLY command on a port with E_TIMEOUT (R271). -/
def State.timeoutReply (s : State) (g : Gable) (p : Port) : State :=
  match s.session g p with
  | none => s
  | some x =>
    match x.pending with
    | none => s
    | some c => if c.reply then s.respond g p c.opc 0 E_TIMEOUT c.seq [] else s

/-- Answer every pending REPLY command of a gable (R213, R271). -/
def State.timeoutReplies (s : State) (g : Gable) : State := (List.finRange 2).foldl (fun t p => t.timeoutReply g p) s

/-- A frame is queued for the port. -/
def PortState.queued (q : PortState) : Bool := !q.ctl.isEmpty || !q.data.isEmpty

/-- A command of the port is pending (R256). -/
def State.portPending (s : State) (p : Port) : Bool :=
  (List.finRange 8).any (fun g => (s.session g p).elim false (fun x => x.pending.isSome))

/-- A trained port has a frame to send or a command pending, so that it may not enter link sleep (R256). A command that
waits for the transition itself (R270) does not hold it up. -/
def State.portBusy (s : State) (p : Port) : Bool :=
  decide ((s.port p).link = .trained) && ((s.port p).queued ||
    (List.finRange 8).any (fun g => (s.session g p).elim false (fun x =>
      x.pending.elim false (fun c => c.frame.isNone))))

/-- The lockout of a gable (R267). -/
def State.lockOf (s : State) (g : Gable) : Lock := s.purlin.lock[g.val]

def State.setLock (s : State) (g : Gable) (l : Lock) : State := s.setPurlin (fun u => { u with lock := vset u.lock g l })

/-- A check 6 failure (R267): the fourth consecutive failure locks with LEVEL 0, each later one with LEVEL one higher up
to 8. -/
def Lock.fail (l : Lock) (now : Nat) : Lock :=
  let fails := min (l.fails + 1) 15
  if fails < 4 then { l with fails := fails }
  else if l.fails < 4 then { fails := fails, level := 0, since := some now }
  else { fails := fails, level := min (l.level + 1) 8, since := some now }

/-- The recovery key: that of the valid root copy with the higher generation (spec/15 R290). -/
def State.rootCopy (s : State) : Option RootCopy :=
  match s.root[0], s.root[1] with
  | none, b => b
  | a, none => a
  | some a, some b => if a.gen < b.gen then some b else some a

/-- Receive buffers of a port that hold the frame of a deferred command. -/
def State.portHeld (s : State) (p : Port) : Nat :=
  ((List.finRange 8).filter (fun g => (s.session g p).elim false Session.holdsFrame)).length

/-- The port's ledger starts with every empty receive buffer it holds receiver-free (R260 to R262). -/
def State.ledgerStart (s : State) (p : Port) : State :=
  (s.setPort p (fun q =>
    { q with
      cumOut := 0, epochOut := 1, cumIn := 0, epochIn := 0, sentIn := 0, fresh := q.empty.length - s.portHeld p
      sinceCred := 0, regrant := false })).replenish

/-- A port is down: its sessions end as on loss of link, and nothing is queued (R22, R105). -/
def State.portDown (s : State) (p : Port) : State :=
  (s.closePort p).setPort p (fun q =>
    { PortState.reset with empty := q.empty, sfn := q.sfn, plus := q.plus })

/-- Receive buffers after a rebuild of the pools (spec/12 R232): the engine allocates afresh those that its ports held,
whose credits the peers still have. -/
def State.relink (s : State) : State :=
  let old := fun (p : Port) => s.port p
  let s := (List.finRange 2).foldl (fun (t : State) p => t.setPort p (fun q => { q with empty := [] })) s
  let s := s.replenish
  (List.finRange 2).foldl
    (fun (t : State) p => t.setPort p (fun q => { q with fresh := (old p).fresh + q.empty.length - (old p).empty.length })) s

/-- CREDITs and data that a peer's credits allow: how many more frames the port may send (R261). -/
def PortState.held (q : PortState) : Nat := (q.cumIn - q.sentIn).toNat

end Sys2Proof.Machine
end

