-- ==== Sys2Proof/Machine/StoreBuffer.lean ====
section
/-! DEFINITION. The store buffer (spec/07, "The store buffer"): commits in program order, drains, and what a load sees
of it. -/

namespace Sys2Proof.Machine

/-- Change the core. -/
def State.setCore (s : State) (f : Core → Core) : State := { s with core := f s.core }

/-- Perform a buffered store: a plain one through the cache (spec/10 R193), an alias one at the bank after the
coherence write-back (spec/09 R174, R175). -/
def State.performStore (s : State) (e : SbEntry) : State :=
  let bytes := leBytes (sizeBytes e.size) e.data.toNat
  match e.kind with
  | .plain => s.cacheWrite .data e.gable e.addr bytes e.ring
  | .bitSet => (s.evictHolder (e.addr / 32)).bankAlias reqCore e.addr bytes .bitSet
  | .bitClear => (s.evictHolder (e.addr / 32)).bankAlias reqCore e.addr bytes .bitClear

/-- The oldest buffered store commits (R145). -/
def State.commitOldest (s : State) : State :=
  match s.core.sb with
  | [] => s
  | e :: rest => (s.setCore (fun c => { c with sb := rest })).performStore e

/-- Commit the `n` oldest stores. -/
def State.commitMany (s : State) : Nat → State
  | 0 => s
  | n + 1 => s.commitOldest.commitMany n

/-- Drain the store buffer (Table GRV-3). -/
def State.drain (s : State) : State := s.commitMany s.core.sb.length

/-- Put a store into the buffer. When its four entries are taken the store waits for the oldest to commit, and
GAB_PERF_SB_FULL counts while it is enabled (Table GRV-6). -/
def State.bufferStore (s : State) (e : SbEntry) : State :=
  let s := if 4 ≤ s.core.sb.length then s.commitOldest else s
  s.setCore (fun c => { c with sb := c.sb ++ [e] })

/-- A store covers every byte of an access. -/
def SbEntry.covers (e : SbEntry) (a n : Nat) : Bool :=
  decide (e.addr ≤ a) && decide (a + n ≤ e.addr + sizeBytes e.size)

/-- A store overlaps an access. -/
def SbEntry.overlaps (e : SbEntry) (a n : Nat) : Bool :=
  decide (e.addr < a + n) && decide (a < e.addr + sizeBytes e.size)

/-- What a load of the buffer finds (R145, R177): data supplied by the youngest store of the gable that covers it, how
many of the oldest stores must commit first, or nothing. -/
inductive Forward where
  | supplied (v : Nat)
  | wait (count : Nat)
  | none
  deriving DecidableEq, Repr

/-- Search the buffer, youngest store first; `n` counts the stores from the oldest up to the one looked at. -/
def forwardFrom (g : Gable) (a size : Nat) : List SbEntry → Forward
  | [] => .none
  | e :: older =>
    if e.overlaps a size then
      if e.kind = .plain && e.gable = g && e.covers a size then
        .supplied (e.data.toNat % 256 ^ sizeBytes e.size / 256 ^ (a - e.addr) % 256 ^ size)
      else .wait (older.length + 1)
    else forwardFrom g a size older

/-- What a load of `size` bytes at a bank address by a gable finds in the buffer. -/
def State.forward (s : State) (g : Gable) (a size : Nat) : Forward := forwardFrom g a size s.core.sb.reverse

/-- STORE_COMMIT: the oldest buffered store commits to its bank (R145), unless that is under test (R183). -/
def execStoreCommit (s : State) : Host.Outcome State Fault Refusal :=
  done s (s.when (s.core.sb.head?.elim true (fun e => decide (s.banks.bist ≠ some (bankOf e.addr)))) State.commitOldest)

end Sys2Proof.Machine
end

