-- ==== Sys2Proof/Machine/Gables.lean ====
section
/-! DEFINITION. Scheduling, boosts, stops and restarts of the gables (spec/11). -/

namespace Sys2Proof.Machine

def State.gab (s : State) (g : Gable) : GabState := s.gabs[g.val]

def State.setGab (s : State) (g : Gable) (f : GabState → GabState) : State := { s with gabs := vmod s.gabs g f }

def State.setFrame (s : State) (f : SchedFrame → SchedFrame) : State := { s with frame := f s.frame }

def State.ctxOf (s : State) (g : Gable) : Ctx := s.core.ctx[g.val]

def State.setCtxOf (s : State) (g : Gable) (f : Ctx → Ctx) : State :=
  s.setCore (fun c => { c with ctx := vmod c.ctx g f })

def State.descOf (s : State) (g : Gable) : Desc := s.cfg.desc[g.val]

/-- A register takes its Plate value and its Resets. -/
def State.plateReg (s : State) (r : Reg) : State := s.setReg r (s.cfg.resetWord r)

/-! ## Who runs (R208) -/

/-- At least one line is pending and enabled at a gable. -/
def State.eventReady (s : State) (g : Gable) : Bool :=
  decide (s.reg (.gabEvtPendLo g) &&& s.reg (.gabEvtEnLo g) ≠ 0) ||
    decide (s.reg (.gabEvtPendHi g) &&& s.reg (.gabEvtEnHi g) ≠ 0)

/-- A gable waits in WFE. -/
def State.waitsWfe (s : State) (g : Gable) : Bool := (s.ctxOf g).wfe && !s.eventReady g

/-- A gable is runnable: it is not stopped, its request is RUN, and it does not wait in WFE. -/
def State.runnable (s : State) (g : Gable) : Bool :=
  (s.descOf g).present && !(s.gab g).stopped && decide (s.power.greq[g.val] = .run) && !s.waitsWfe g

/-- A boost that is neither suspended nor at its end of BOOST_MAX us (R213). -/
def State.boostRuns (s : State) (g : Gable) : Bool :=
  (s.gab g).boost.elim false (fun b => decide (b.ran < (s.descOf g).boostMax)) &&
    (decide (s.frame.rsvLeft ≠ 0) || decide ((s.gab g).remain ≠ 0))

/-- The boosted gable that runs first, by order of receipt. -/
def State.pickBoosted (s : State) : Option Gable :=
  (List.finRange 8).foldl
    (fun best g =>
      if s.runnable g && s.boostRuns g then
        let ord := fun (h : Gable) => ((s.gab h).boost).elim 0 (fun b => b.order)
        match best with
        | none => some g
        | some h => if ord g < ord h then some g else best
      else best) none

/-- Of two gables of a class, the first goes before the second (R208): one with a turn to finish goes first, one whose turn
has run out last, and else the one that has waited longer; a tie goes to the lower number (notes/assumptions/57.md). -/
def GabState.before (x y : GabState) : Bool :=
  if decide (x.turn ≠ 0) ≠ decide (y.turn ≠ 0) then decide (x.turn ≠ 0)
  else if x.spent ≠ y.spent then y.spent
  else decide (y.waited < x.waited)

/-- The gable of a set whose turn it is (R208), of the highest urgency class. -/
def State.pickTurn (s : State) (set : List Gable) : Option Gable :=
  match (List.range 4).reverse.find? (fun u => set.any (fun g => decide ((s.descOf g).urg = u))) with
  | none => none
  | some u =>
    (set.filter (fun g => decide ((s.descOf g).urg = u))).foldl
      (fun best g => match best with
        | none => some g
        | some h => if (s.gab g).before (s.gab h) then some g else some h) none

/-- The gable that the switcher runs at an instruction boundary (R208). -/
def State.pickGable (s : State) : Option Gable :=
  match s.pickBoosted with
  | some g => some g
  | none =>
    let run := (List.finRange 8).filter (fun g => s.runnable g)
    match s.pickTurn (run.filter (fun g => decide ((s.gab g).remain ≠ 0))) with
    | some g => some g
    | none => s.pickTurn (run.filter (fun g => (s.descOf g).slackOk))

/-- The core takes instructions: CORE is ON, and neither Ridge nor Brace halts it. -/
def State.coreRuns (s : State) : Bool := s.up && s.domOn dCORE && !s.core.halted && !s.braced

/-- A turn begins when a gable without one is chosen outside a boost; those of its class whose turns ran out wait for theirs
from then on. -/
def State.beginTurn (s : State) (g : Gable) : State :=
  if (s.gab g).turn = 0 && !s.boostRuns g then
    let s := { s with gabs := Vector.ofFn (fun h : Gable =>
      if (s.descOf h).urg = (s.descOf g).urg then { s.gab h with spent := false } else s.gab h) }
    s.setGab g (fun x => { x with turn := s.cfg.quantum })
  else s

/-- The switcher at an instruction boundary (R150, R204): the ILB is discarded at a switch; buffered stores stay. -/
def State.switchGable (s : State) : State :=
  if s.coreRuns then
    let next := s.pickGable
    if s.core.running = next then
      match next with
      | none => s
      | some g => s.beginTurn g
    else
      let s := s.setCore (fun c => { c with running := next, ilb := [] })
      match next with
      | none => s
      | some g => ((s.setCtxOf g (fun c => { c with wfe := false })).tellDlost g).beginTurn g
  else s

/-! ## Budgets (R207, R209) -/

/-- A gable's budget for a frame. -/
def State.effectiveBudget (s : State) (g : Gable) : Nat := (s.descOf g).budget - (s.gab g).overrun

/-- A gable gives up the rest of its frame (R210, R217). -/
def GabState.giveUp (x : GabState) : GabState := { x with released := x.released + x.remain, remain := 0, turn := 0, spent := false }

/-- A frame begins. -/
def State.frameStart (s : State) : State :=
  let s := { s with gabs := Vector.ofFn (fun g : Gable =>
    { s.gab g with used := 0, released := 0, overrun := 0, slack := false, remain := s.effectiveBudget g }) }
  s.setFrame (fun f => { f with tick := 0, num := f.num + 1, rsvLeft := s.cfg.linkRsv })

/-! ## Boosts (R212, R213) -/

/-- Start a boost as line 27 pends for a command or message, where the gable has enabled it. -/
def State.boostStart (s : State) (g : Gable) : State :=
  if s.lineEnabled g 27 && (s.gab g).boost.isNone then
    let s := (s.setGab g (fun x => { x with boost := some { order := s.frame.boostSeq, ran := 0 } })).setFrame
      (fun f => { f with boostSeq := f.boostSeq + 1 })
    s.satField (.gabBoostStat g) 15 0
  else s

/-- A boost ends, and the engine answers what the firmware has not (R213, R271). -/
def State.boostEnd (s : State) (g : Gable) : State :=
  if (s.gab g).boost.isSome then (s.setGab g (fun x => { x with boost := none })).timeoutReplies g else s

/-- End a boost when line 27 is no longer pending and nothing further is queued (R213). -/
def State.boostCheck (s : State) (g : Gable) : State :=
  if !s.linePending g 27 && (s.purlin.msgq[g.val]).isEmpty then s.boostEnd g else s

/-- LINK leaves ON for OFF: both ports keep nothing (R105), and LINKPLL stops. With the message queues empty, boosts may
end (R213). -/
def State.linkLost (s : State) : State :=
  let s := (List.finRange 2).foldl (fun (t : State) p => t.portDown p) s
  let s := (s.setPurlin (fun u => { u with msgq := Vector.replicate 8 [], opens := Vector.replicate 8 (Vector.replicate 2 none) })).clearReg
    .clkStat (bitMask 5)
  (List.finRange 8).foldl (fun (t : State) g => t.boostCheck g) s

/-! ## Stop and restart (R217, R218) -/

/-- A gable stops at a double fault. -/
def State.stopGable (s : State) (g : Gable) : State :=
  let auto := (s.descOf g).policy = 1 && decide ((s.gab g).autoCount < (s.descOf g).limit)
  let s := s.setGab g (fun x => { x.giveUp with stopped := true, stopAt := s.now, restartPend := auto })
  let s := s.boostEnd g
  let s := if g = 0 then s else s.pendLine 0 31
  s.setCore (fun c => { c with running := if c.running = some g then none else c.running })

/-- How many of the oldest buffered stores commit so that none of a gable's is left. -/
def storesThrough (g : Gable) : List SbEntry → Nat
  | [] => 0
  | e :: rest =>
    let n := storesThrough g rest
    if n ≠ 0 then n + 1 else if e.gable = g then 1 else 0

/-- The registers of a gable's performance counters. -/
def State.clearPerf (s : State) (g : Gable) : State :=
  (List.finRange 8).foldl (fun (t : State) k => t.setReg (.gabPerf g k) 0) s

/-- The context a gable starts with at its entry vector (R152). -/
def State.startContext (s : State) (g : Gable) : State :=
  s.setCtxOf g (fun _ => { Ctx.reset with pc := (s.descOf g).entry })

/-- A gable's call slot at its restart: a pending call is withdrawn, a running one runs on with its result discarded
(R134, R218). -/
def State.withdrawCall (s : State) (g : Gable) : State :=
  let s := match s.ridge.slots[g.val] with
    | .free => s
    | .pending _ _ => s.setRidge (fun r => { r with slots := vset r.slots g .free })
    | .running _ => s.setRidge (fun r => { r with discard := vset r.discard g true })
  s.setReg (.rdgResult g) 0

/-- Hold engages on a gable's pad groups. -/
def State.holdGable (s : State) (g : Gable) : State :=
  (List.finRange 4).foldl (fun t p => if t.cfg.groupOwner p = g then t.hold p .word else t) s

/-- Restart a gable in the order of R218. -/
def State.restartGable (s : State) (g : Gable) : State :=
  let s := s.withdrawCall g
  let s := s.commitMany (storesThrough g s.core.sb)
  let s := s.flushGable g
  let s := (s.holdGable g).haltEnginesOf g
  let s := s.closeGable g
  let s := s.thtRestart g
  let s := (s.setReg (.gabEvtPendLo g) 0).setReg (.gabEvtPendHi g) 0
  let s := (((s.plateReg (.gabEvtEnLo g)).plateReg (.gabEvtEnHi g)).plateReg (.gabTrapBase g)).plateReg (.lcGctl g)
  let s := s.clearPerf g
  let s := s.setReg (.gabFault g) (satInc (s.reg (.gabFault g)) 30 24 ||| bitMask 16)
  let s := (s.startContext g).setGreq g .run
  let s := s.setGab g (fun x => { x with stopped := false, restartPend := false, turn := 0, spent := false })
  let s := s.boostEnd g
  s.setCore (fun c => { c with ilb := if c.running = some g then [] else c.ilb })

/-! ## Commands -/

/-- GABLE_SWITCH. -/
def execGableSwitch (s : State) : Host.Outcome State Fault Refusal := done s s.switchGable

/-- FRAME_START (R207): the frame's 1,000 ticks have passed. -/
def execFrameStart (s : State) : Host.Outcome State Fault Refusal :=
  done s (s.when (decide (1000 ≤ s.frame.tick)) State.frameStart)

/-- BUDGET_EXHAUSTED: a gable whose REMAIN has reached 0 is switched out at its next boundary (R209). -/
def execBudgetExhausted (g : Gable) (s : State) : Host.Outcome State Fault Refusal :=
  done s (s.when (decide (s.core.running = some g) && decide ((s.gab g).remain = 0)) State.switchGable)

/-- QUANTUM_EXPIRY: the running gable's turn has run out, and the next of its class takes one (R208). -/
def execQuantumExpiry (s : State) : Host.Outcome State Fault Refusal :=
  done s (match s.core.running with
    | none => s
    | some g => s.when (decide ((s.gab g).turn = 0)) State.switchGable)

/-- BOOST_EXPIRY: BOOST_MAX us have run under the boost (R213). -/
def execBoostExpiry (g : Gable) (s : State) : Host.Outcome State Fault Refusal :=
  done s (s.when ((s.gab g).boost.elim false (fun b => decide ((s.descOf g).boostMax ≤ b.ran))) (fun s =>
    ((s.satField (.gabBoostStat g) 31 16).boostEnd g).switchGable))

/-- GABLE_RESTART: DELAY ms after a double fault under AUTO (R217). -/
def execGableRestart (g : Gable) (s : State) : Host.Outcome State Fault Refusal :=
  done s (s.when ((s.gab g).restartPend && decide ((s.gab g).stopAt + 1000 * (s.descOf g).delay ≤ s.now)) (fun s =>
    (s.setGab g (fun x => { x with autoCount := x.autoCount + 1 })).restartGable g))

end Sys2Proof.Machine
end

