-- ==== Sys2Proof/Machine/Gutter.lean ====
section
/-! DEFINITION. Gutter: harvesting, seeds, permits, DUSK, and the two darkness policies (spec/03). -/

namespace Sys2Proof.Machine

/-- Change the supply path. -/
def State.setSupply (s : State) (f : Supply → Supply) : State := { s with supply := f s.supply }

/-- Change Gutter. -/
def State.setGutter (s : State) (f : Gutter → Gutter) : State := { s with gutter := f s.gutter }

/-- The voltage at a ball, in mV, as a command reports it. -/
def State.setVin (s : State) (v : Nat) : State := { s with vinMv := v }
def State.setVst (s : State) (v : Nat) : State := { s with vstMv := v }
def State.setVbat (s : State) (v : Nat) : State := { s with vbatMv := v }
def State.setVsys (s : State) (v : Nat) : State := { s with vsysMv := v }

/-- The codes of SUP_STAT.SRC. -/
def srcVin : Nat := 1
def srcVst : Nat := 2
def srcVbat : Nat := 3

/-- The source carrying VSYS changes: SUP_STAT.SRC shows it, and SRC_CHG is set (R25). -/
def State.setSource (s : State) (src : Nat) : State :=
  if s.fieldOf .supStat 1 0 = src then s else (s.setField .supStat 1 0 src).orReg .supEvt (bitMask 0)

/-- The limit on VSYS from VST and VBAT in mV, typical (Table SUP-2). -/
def vsysLimitMv : Nat := 3450

/-- VST or VBAT carries VSYS: the source's voltage less the drop of its switch, limited to 3.45 V (Table SUP-1;
notes/assumptions/42.md). -/
def State.feedVsys (s : State) (src mv : Nat) : State :=
  let (drop, s) := s.freshDrop
  (s.setSource src).setVsys (min (mv - drop) vsysLimitMv)

/-- VSYS moves to VST, unless VST carries it already (Table SUP-1: VIN_OK = 0 and SHELTER not engaged). -/
def State.feedVst (s : State) : State := if s.fieldOf .supStat 1 0 = srcVst then s else s.feedVsys srcVst s.vstMv

/-- VSYS moves to VBAT (Table SUP-1: VIN_OK = 0 and SHELTER engaged). -/
def State.feedVbat (s : State) : State := if s.fieldOf .supStat 1 0 = srcVbat then s else s.feedVsys srcVbat s.vbatMv

/-! ## Thresholds (Table GUT-1, GUT_THR) -/

/-- A threshold in mV from its code. -/
def thrMv (code : Nat) : Nat := 1600 + 50 * code

def State.tDie (s : State) : Nat := thrMv (s.fieldOf .gutThr 5 0)
def State.tShelter (s : State) : Nat := thrMv (s.fieldOf .gutThr 11 6)
def State.tDusk (s : State) : Nat := thrMv (s.fieldOf .gutThr 17 12)

/-- T_MEAS or T_XMIT. -/
def State.tPermit (s : State) : Permit → Nat
  | .meas => thrMv (s.fieldOf .gutThr 23 18)
  | .xmit => thrMv (s.fieldOf .gutThr 29 24)

/-- The typical values of Table GUT-1 in mV. -/
def boostStartMv : Nat := 1600
def boostStopMv : Nat := 1500
def chargeTargetMv : Nat := 4400
def hysteresisMv : Nat := 50
def autoSeedMv : Nat := 1700

/-- The cell's limit of GUT_STAT.VBAT_OK (R45, R57). -/
def cellMv : Nat := 2000

/-- Five thresholds in the order that R61 asks for. -/
def thrOrdered (v : Word) : Bool :=
  decide (bitsOf v 5 0 < bitsOf v 11 6) && decide (bitsOf v 11 6 < bitsOf v 17 12) &&
    decide (bitsOf v 17 12 < bitsOf v 23 18) && decide (bitsOf v 23 18 ≤ bitsOf v 29 24)

/-- Gutter's converters and control logic run (GUT_STAT.BOOST_RUN, R43). -/
def State.boostRun (s : State) : Bool := s.bitOf .gutStat 2

/-- The darkness is SHELTER (GUT_CFG.POLICY). -/
def State.policyShelter (s : State) : Bool := s.bitOf .gutCfg 0

/-! ## Permits (R49, R52) -/

/-- A permit's place in GUT_STAT; its rise and fall bits in GUT_EVT are twice it and one more. -/
def permitBit : Permit → Nat
  | .meas => 0
  | .xmit => 1

/-- Lines 17 and 18 and wake sources 14 and 15 tell a rise. -/
def permitLine : Permit → Nat
  | .meas => 17
  | .xmit => 18

def permitSource : Permit → Fin 16
  | .meas => 14
  | .xmit => 15

/-- Deliver a Gutter line to its subscribers; before a cold start nothing is delivered (R316). An enabled line sets the
request of each subscriber to RUN (R148), also of one that does not own the line's wake source
(notes/assumptions/39.md). -/
def State.gutterLine (s : State) (line : Nat) : State := if s.up then s.pendAll line else s

/-- A permit asserts. -/
def State.permitRise (s : State) (p : Permit) : State :=
  let s := (s.orReg .gutStat (bitMask (permitBit p))).orReg .gutEvt (bitMask (2 * permitBit p))
  (s.gutterLine (permitLine p)).accept (permitSource p)

/-- A permit deasserts. -/
def State.permitFall (s : State) (p : Permit) : State :=
  let s := (s.clearReg .gutStat (bitMask (permitBit p))).orReg .gutEvt (bitMask (2 * permitBit p + 1))
  s.gutterLine 19

/-- VST stands at or above a permit's threshold, and the permit does not show it. -/
def State.permitRises (s : State) (p : Permit) : Bool :=
  s.boostRun && !s.bitOf .gutStat (permitBit p) && decide (s.tPermit p ≤ s.vstMv)

/-- VST stands below a permit's threshold less the hysteresis, and the permit does not show it. -/
def State.permitFalls (s : State) (p : Permit) : Bool :=
  s.bitOf .gutStat (permitBit p) && decide (s.vstMv + hysteresisMv < s.tPermit p)

/-- A permit follows VST. -/
def State.permitFollow (s : State) (p : Permit) : State :=
  if s.permitRises p then s.permitRise p
  else if s.permitFalls p then s.permitFall p
  else s

/-! ## DUSK (R53) -/

/-- DUSK's condition holds while it is armed. -/
def State.duskFires (s : State) : Bool :=
  s.boostRun && s.gutter.duskArmed && !s.vinOk && decide (s.vstMv < s.tDusk)

/-- The subscribers of DUSK. -/
def Cfg.duskSubscribers (c : Cfg) : List Gable := (List.finRange 8).filter (fun g => c.routed g 16)

/-- FLAGS[2] of a darkness record: SHELTER (spec/15 R291). In a DUSK record it shows the policy that R53 asks the record to
hold (notes/assumptions/44.md). -/
def flagShelter : Nat := 4

/-- DUSK fires. In SLEEP or DEEP it brings the warden to RUN when any gable subscribes: each subscriber's request
becomes RUN (notes/assumptions/22.md). Its record holds the RTC value, VST and the policy. None is written while the warden
is OFF or in BARE (notes/assumptions/40.md). -/
def State.duskFire (s : State) : State :=
  let s := ((s.orReg .gutStat (bitMask 5)).orReg .gutEvt (bitMask 4)).setGutter (fun g => { g with duskArmed := false })
  if s.up then
    let dark := !s.domainScheme && (s.power.gstate = .sleep || s.power.gstate = .deep)
    let subs := s.cfg.duskSubscribers
    let s := (s.logDark recDusk 0 (if s.policyShelter then flagShelter else 0)).pendAll 16
    let s := { s with ridge := { s.ridge with duskTrig := true } }
    if dark && !subs.isEmpty then (subs.foldl (fun t g => t.setGreq g .run) s).noteWake else s
  else s

/-- DUSK's rearm condition holds. -/
def State.duskRearms (s : State) : Bool := s.vinOk || decide (s.tDusk + 100 ≤ s.vstMv)

/-- DUSK rearms, and GUT_STAT.DUSK ends. -/
def State.duskArm (s : State) : State :=
  (s.clearReg .gutStat (bitMask 5)).setGutter (fun g => { g with duskArmed := true })

/-- DUSK follows VST and a fall of VIN_OK. -/
def State.duskFollow (s : State) : State :=
  if s.duskFires then s.duskFire
  else if s.boostRun && decide (s.tDusk + 100 ≤ s.vstMv) then s.duskArm
  else s

/-! ## Darkness (R56 to R59, R316, R319) -/

/-- Every circuit on VSYS loses its state: what the next cold start does not take from elsewhere is gone. Brace is
abandoned (R42, R62). -/
def State.loseVsys (s : State) : State :=
  let s := s.clearReg .supStat (bitMask 5 ||| bitMask 6 ||| bitMask 9)
  let s := s.setSupply (fun p =>
    { p with
      brace := .released, braceTest := none, braceReal := false, stormPrior := none, avs := none,
      pollWait := false, avsSetWait := none })
  let s := s.setPower (fun p => { p with dom := Vector.replicate 24 .off, switching := [], paused := false })
  let s := s.setRidge (fun r => { r with suspend := none, ctx := RidgeCtx.reset })
  { s with core := { s.core with running := none, sb := [], ilb := [] } }

/-- The warden goes dark: a RESUME record follows at the next cold start (R60). -/
def State.darken (s : State) : State := s.loseVsys.setSupply (fun p => { p with darkPending := true })

/-- The warden is already in SHELTER or in the lockout. -/
def State.inDarkness (s : State) : Bool := decide (s.life = .shelter) || decide (s.life = .lockout)

/-- SHELTER engages (R57, R62): Ridge abandons everything and stands at the word of its SHELTER routine (spec/06 R112).
Its record is written while the warden is up, and not in OFF or BARE (notes/assumptions/40.md). -/
def State.engageShelter (s : State) : State :=
  let s := if s.up then s.logDark recShelterIn 0 0 else s
  let s := (s.darken).feedVbat
  let s := s.setCtx (fun c => { c with addr := 2, routine := .trigger 2, phase := .braced })
  { s.setSupply (fun p => { p with darkShelter := true, darkRtcLost := false, noCell := false }) with life := .shelter }

/-- The conditions of R57 come to hold: SHELTER engages, or without a cell this darkness is handled as DORMANT (R58). A
later fall of VST through T_SHELTER in a darkness found without a cell is judged afresh (notes/assumptions/41.md). -/
def State.shelterCome (s : State) : State :=
  if cellMv ≤ s.vbatMv then s.engageShelter
  else
    let s := if s.up then s.logDark recShelterNocell 0 0 else s
    s.setSupply (fun p => { p with noCell := true })

/-- The conditions of R57 hold under a SHELTER policy. -/
def State.shelterHolds (s : State) : Bool :=
  !s.inDarkness && s.policyShelter && !s.vinOk && decide (s.vstMv < s.tShelter)

/-- The RTC and the tamper latch lose their supply. -/
def State.loseRtc (s : State) : State :=
  ((s.clearReg .tmrRtcCtl (bitMask 1)).setPower (fun p => { p with tampLatch := false, tampHigh := false, tampOpen := false })).setSupply
    (fun p => { p with darkRtcLost := true, darkShelter := false })

/-- VAON is locked out (R56, R23). -/
def State.enterLockout (s : State) : State := { (s.darken).loseRtc with life := .lockout }

/-- The conditions of the lockout hold. -/
def State.lockoutHolds (s : State) : Bool :=
  !s.inDarkness && (!s.policyShelter || s.supply.noCell) && !s.vinOk && decide (s.vstMv < s.tDie)

/-- DUSK, then the darkness policy, judged on the present VST, VBAT and VIN_OK. -/
def State.darkFollow (s : State) : State :=
  let s := s.duskFollow
  let s := if s.shelterHolds && !s.supply.noCell then s.shelterCome else s
  if s.lockoutHolds then s.enterLockout else s

/-- SHELTER ends when VST is at T_MEAS or VIN_OK is 1, and a cold start follows (R57). -/
def State.shelterEnds (s : State) : Bool :=
  decide (s.life = .shelter) && (s.vinOk || decide (s.tPermit .meas ≤ s.vstMv))

/-- SHELTER ends: without VIN, VST carries VSYS from now on; with it, the cell does until the VIN path does (R25). -/
def State.endShelter (s : State) : State :=
  let s := if s.vinOk then s else s.feedVst
  { s with life := .waiting 3 }

/-- What VIN_OK becoming 1 does here: DUSK rearms and SHELTER ends. -/
def State.vinBack (s : State) : State :=
  let s := s.setSupply (fun p => { p with noCell := false })
  let s := if s.boostRun then s.duskArm else s
  if s.shelterEnds then s.endShelter else s

/-- A GUT_THR write that passed R61 acts on the present VST as a crossing. -/
def State.thrTake (s : State) (v : Word) : State :=
  let s := s.setReg .gutThr v
  let s := (s.permitFollow .meas).permitFollow .xmit
  let s := s.darkFollow
  if s.shelterEnds then s.endShelter else s

/-- SHELTER_IN. -/
def execShelterIn (vst vbat : Nat) (s : State) : Host.Outcome State Fault Refusal :=
  done s (((s.setVst vst).setVbat vbat).when
    (((s.setVst vst).setVbat vbat).shelterHolds) State.shelterCome)

/-- SHELTER_END. -/
def execShelterEnd (vst : Nat) (s : State) : Host.Outcome State Fault Refusal :=
  done s ((s.setVst vst).when ((s.setVst vst).shelterEnds) State.endShelter)

/-- The seed island loses its supply: settings and history are lost (R45), and a running seed ends without reaching its
target. -/
def State.islandLost (s : State) : State :=
  let s := s.clearReg .gutStat (bitMask 9)
  let s := if s.gutter.seedAt.isSome then (s.clearReg .gutStat (bitMask 6)).orReg .gutEvt (bitMask 6) else s
  s.setGutter (fun g => { g with seedAt := none, seeds := [], darkSeeds := 0, island := SeedIsland.reset })

/-- SHELTER_CELL_LOSS (R319). -/
def execShelterCellLoss (s : State) : Host.Outcome State Fault Refusal :=
  done s (s.when (decide (s.life = .shelter)) (fun s =>
    let s := s.loseRtc.islandLost.setVbat 0
    let s := if s.vinOk then s else s.feedVst
    { s with life := .lockout }))

/-- DORMANT_LOCKOUT. -/
def execDormantLockout (vst : Nat) (s : State) : Host.Outcome State Fault Refusal :=
  done s ((s.setVst vst).when ((s.setVst vst).lockoutHolds) State.enterLockout)

/-- The registers of the RTC island (spec/04, "TMR_ registers"). -/
def rtcIslandRegs : List Reg :=
  [.tmrRtcSec, .tmrRtcSet, .tmrRtcCtl, .tmrRtcAlmSec, .tmrRtcAlmFrac, .tmrRtcAlmCtl] ++ (List.finRange 8).map Reg.tmrRtcFrac

/-- The RTC island powers up (spec/04 R78): the RTC starts from 0 on LRC, with VALID 0 and RESTARTED 1. -/
def State.rtcPowerUp (s : State) : State :=
  let s := rtcIslandRegs.foldl (fun (t : State) r => t.setReg r r.reset) (s.clearReg .clkStat (bitMask 6))
  { s with clk := { s.clk with rtcFrac := 0, rtcPhase := 0, rtcAcc := 0, rtcSetPend := none, rtcEdge := true } }

/-- DORMANT_RELEASE: the lockout releases, the RTC island powers up, and a cold start follows (R56). -/
def execDormantRelease (vst : Nat) (s : State) : Host.Outcome State Fault Refusal :=
  done s ((s.setVst vst).when
    (decide (s.life = Life.lockout) && decide (s.tPermit .meas ≤ vst)) (fun s => { s.rtcPowerUp with life := .waiting 4 }))

/-! ## Gutter itself (R43, R44) -/

/-- The values Gutter starts with (R44): thresholds and inputs at their defaults; policy and seed settings from the seed
island while the cell supplies it, else from ROM. -/
def State.gutterStart (s : State) : State :=
  let i := if cellMv ≤ s.vbatMv then s.gutter.island else SeedIsland.reset
  let cfg := putBits (putBits (Reg.reset .gutCfg) 0 0 (if i.shelter then 1 else 0)) 5 5 (if i.autoSeed then 1 else 0)
  let seed := putBits (putBits (Reg.reset .gutSeed) 4 0 i.target.toNat) 15 8 i.period.toNat
  let s := ((s.setReg .gutThr (Reg.reset .gutThr)).setReg .gutCfg cfg).setReg .gutSeed seed
  let s := ((s.setReg .gutEvt 0).setReg .gutMppt 0).setField .gutStat 5 0 4
  let s := s.setGutter (fun g => { g with duskArmed := false })
  ((s.permitFollow .meas).permitFollow .xmit)

/-- GUTTER_START: VST reaches boost start. -/
def execGutterStart (vst : Nat) (s : State) : Host.Outcome State Fault Refusal :=
  done s ((s.setVst vst).when (!s.boostRun && decide (boostStartMv ≤ vst)) State.gutterStart)

/-- GUTTER_STOP: VST falls below boost stop; permits, DUSK and the converters go with the control logic. -/
def execGutterStop (vst : Nat) (s : State) : Host.Outcome State Fault Refusal :=
  done s ((s.setVst vst).when (s.boostRun && decide (vst < boostStopMv)) (fun s =>
    (s.setField .gutStat 5 0 0).setGutter (fun g => { g with duskArmed := false })))

/-- CHARGE_TARGET_REACHED (R43). -/
def execChargeTargetReached (s : State) : Host.Outcome State Fault Refusal :=
  done s ((s.setVst chargeTargetMv).setField .gutStat 4 3 0)

/-- An input charges VST (R43). -/
def State.inputActs (s : State) (en : Nat) (voc lo hi : Nat) : Bool :=
  s.boostRun && s.bitOf .gutCfg en && decide (lo ≤ voc) && decide (voc ≤ hi) && decide (s.vstMv < chargeTargetMv)

/-- A number in a field of `w` bits; one that the field cannot hold is a free value. -/
def State.fitField (s : State) (w n : Nat) : Nat × State :=
  if n < 2 ^ w then (n, s) else ((s.freshWord.1).toNat % 2 ^ w, s.freshWord.2)

/-- A quotient rounded down or up, which the spec leaves open. -/
def State.roundDiv (s : State) (n d : Nat) : Nat × State :=
  if n % d = 0 then (n / d, s) else (n / d + (if s.freshRound.1 then 1 else 0), s.freshRound.2)

/-- The PV fraction in hundredths (GUT_CFG.PV_FRAC). -/
def State.pvFrac (s : State) : Nat := 70 + 5 * s.fieldOf .gutCfg 4 3

/-- OPEN_CIRCUIT_SAMPLE: each enabled input's sample enters GUT_MPPT, with the PV operating point, and the converter
runs for the next 0.5 s if the sample lies in its range. -/
def State.sampleOpenCircuit (s : State) (teg pv : Nat) : State :=
  let s := if s.bitOf .gutCfg 1 then
    let (v, s) := s.fitField 10 teg
    s.setField .gutMppt 27 18 v else s
  let s := if s.bitOf .gutCfg 2 then
    let (q, s) := s.roundDiv pv 10
    let (q, s) := s.fitField 9 q
    let (o, s) := s.roundDiv (pv * s.pvFrac) 1000
    let (o, s) := s.fitField 9 o
    (s.setField .gutMppt 8 0 q).setField .gutMppt 17 9 o else s
  (s.putBit .gutStat 3 (s.inputActs 1 teg 20 1000)).putBit .gutStat 4 (s.inputActs 2 pv 300 5000)

def execOpenCircuitSample (tegVoc pvVoc : Nat) (s : State) : Host.Outcome State Fault Refusal :=
  done s (s.when s.boostRun (fun s => s.sampleOpenCircuit tegVoc pvVoc))

/-- PERMIT_ASSERT. -/
def execPermitAssert (p : Permit) (vst : Nat) (s : State) : Host.Outcome State Fault Refusal :=
  done s ((s.setVst vst).when ((s.setVst vst).permitRises p) (fun s => s.permitRise p))

/-- PERMIT_DEASSERT. -/
def execPermitDeassert (p : Permit) (vst : Nat) (s : State) : Host.Outcome State Fault Refusal :=
  done s ((s.setVst vst).when ((s.setVst vst).permitFalls p) (fun s => s.permitFall p))

/-- DUSK. -/
def execDusk (vst : Nat) (s : State) : Host.Outcome State Fault Refusal :=
  done s ((s.setVst vst).when ((s.setVst vst).duskFires) State.duskFire)

/-- DUSK_REARM. -/
def execDuskRearm (vst : Nat) (s : State) : Host.Outcome State Fault Refusal :=
  done s ((s.setVst vst).when
    (s.boostRun && (s.setVst vst).duskRearms) State.duskArm)

/-! ## Seeds (R46 to R48, R315) -/

/-- A seed target in mV. -/
def seedTargetMv (code : Nat) : Nat := 1800 + 50 * code

/-- Seeds that are allowed now: three less those within the period. -/
def State.seedsLeft (s : State) : Nat := 3 - s.gutter.seeds.length

/-- A seed begins. One that begins in darkness is counted for the RESUME record (R60). -/
def State.startSeed (s : State) : State :=
  (s.orReg .gutStat (bitMask 6)).setGutter (fun g =>
    { g with
      seedAt := some s.now
      seeds := g.seeds ++ [s.now]
      darkSeeds := if s.supply.darkPending then g.darkSeeds + 1 else g.darkSeeds })

/-- A seed ends, with SEED_DONE or SEED_FAIL. -/
def State.finishSeed (s : State) (ok : Bool) : State :=
  ((s.clearReg .gutStat (bitMask 6)).orReg .gutEvt (bitMask (if ok then 5 else 6))).setGutter (fun g =>
    { g with seedAt := none })

/-- The seed island starts a seed of its own (R47). -/
def State.autoSeeds (s : State) : Bool :=
  decide (cellMv ≤ s.vbatMv) && s.gutter.island.autoSeed && !s.vinOk && decide (s.vstMv < autoSeedMv) &&
    decide (seedTargetMv s.gutter.island.target.toNat + 100 ≤ s.vbatMv) && s.gutter.seedAt.isNone &&
    decide (0 < s.seedsLeft)

/-- The seed island starts a seed where something else than a fall of VST lets it (R47). -/
def State.seedFollow (s : State) : State := s.when s.autoSeeds State.startSeed

/-- AUTOMATIC_SEED. -/
def execAutomaticSeed (vst vbat : Nat) (s : State) : Host.Outcome State Fault Refusal :=
  done s (((s.setVst vst).setVbat vbat).when
    (((s.setVst vst).setVbat vbat).autoSeeds) State.startSeed)

/-- The code of the first check that SEED_STORE fails (R48). -/
def State.seedFails (s : State) : Option Byte :=
  let target := seedTargetMv (s.fieldOf .gutSeed 4 0)
  firstFail
    [(s.gutter.seedAt.isSome, E_BUSY),
     (decide (target ≤ s.vstMv), E_RANGE),
     (decide (s.vbatMv < cellMv) || decide (s.vbatMv < target + 100), E_EMPTY),
     (decide (s.seedsLeft = 0), E_QUOTA)]

/-- SEED_STORE: service 0x07. -/
def execSeedStore (g : Gable) (s : State) : Host.Outcome State Fault Refusal :=
  done s (s.when (s.serviceBegins g 0x07) (fun s =>
    match s.seedFails with
    | some c => s.endService g c
    | none => (s.startSeed).endService g E_OK))

/-- SEED_END: a running seed ends at its target, or as VBAT falls (R46). -/
def execSeedEnd (vst vbat : Nat) (s : State) : Host.Outcome State Fault Refusal :=
  done s (((s.setVst vst).setVbat vbat).when s.gutter.seedAt.isSome (fun s =>
    let target := seedTargetMv (s.fieldOf .gutSeed 4 0)
    if target ≤ vst then s.finishSeed true
    else if vbat < target + 100 then s.finishSeed false
    else s))

/-- SEED_TIMEOUT: 60 s have passed. With VST still below the automatic seed start the next seed begins (R47). -/
def execSeedTimeout (s : State) : Host.Outcome State Fault Refusal :=
  done s (s.when (s.gutter.seedAt.elim false (fun t => decide (t + 60000000 ≤ s.now))) (fun s =>
    (s.finishSeed false).seedFollow))

/-- SEED_ALLOWANCE_RETURN: the oldest seed leaves the period. -/
def execSeedAllowanceReturn (s : State) : Host.Outcome State Fault Refusal :=
  done s (s.setGutter (fun g => { g with seeds := g.seeds.drop 1 })).seedFollow

/-- VBAT_OK_RISE: the seed island starts with its ROM defaults (R45). -/
def execVbatOkRise (vbat : Nat) (s : State) : Host.Outcome State Fault Refusal :=
  done s ((s.setVbat vbat).when (!s.bitOf .gutStat 9 && decide (cellMv ≤ vbat)) (fun s =>
    (s.orReg .gutStat (bitMask 9)).setGutter (fun g => { g with seeds := [], island := SeedIsland.reset })))

/-- VBAT_OK_FALL. An engaged SHELTER stays (R315). -/
def execVbatOkFall (vbat : Nat) (s : State) : Host.Outcome State Fault Refusal :=
  done s ((s.setVbat vbat).when (s.bitOf .gutStat 9 && decide (vbat < cellMv)) State.islandLost)

end Sys2Proof.Machine
end

