-- ==== Sys2Proof/Machine/Supply.lean ====
section
/-! DEFINITION. The power path, VCORE and AVSBus (spec/02). -/

namespace Sys2Proof.Machine

/-! ## VCORE (R29 to R31, R313) -/

/-- The internal converter's target in mV. -/
def vcodeMv (code : Nat) : Nat := 400 + 5 * code

/-- SUP_VCORE.DONE: the external regulator has shown VDone, or the internal converter is within 10 mV of its target. -/
def State.vcoreDone (s : State) : Bool :=
  s.bitOf .supStat 7 ||
    (decide (s.supply.vcMv ≤ vcodeMv (s.fieldOf .supVcore 15 8) + 10) &&
      decide (vcodeMv (s.fieldOf .supVcore 15 8) ≤ s.supply.vcMv + 10))

/-- Request a code of the internal converter. -/
def State.setInternal (s : State) (code : Nat) : State :=
  ((s.setField .supVcore 7 0 code).setField .supVcore 15 8 code).putBit .supStat 7 false

/-- The internal converter has settled at its target. -/
def State.settle (s : State) : State :=
  s.setSupply (fun p => { p with vcMv := vcodeMv (s.fieldOf .supVcore 15 8) })

/-- VCORE moves to the internal converter at code min(current code, 0x3C) (R29, R30). -/
def State.moveInternal (s : State) : State :=
  if s.bitOf .supStat 7 then (s.setInternal (min (s.fieldOf .supVcore 7 0) 0x3C)).settle else s

/-- A successful external request: the source switches once VDone is seen (R33). -/
def State.setExternal (s : State) (code : Nat) : State :=
  ((s.setField .supVcore 7 0 code).orReg .supStat (bitMask 7)).clearReg .supStat (bitMask 8)

/-- Where a voltage request goes (R116), or that it is refused (R31). -/
inductive VreqRoute where
  | external
  | internal
  | refused
  deriving DecidableEq, Repr

def State.vreqRoute (s : State) (code : Nat) : VreqRoute :=
  if 0x6E < code then .refused
  else if s.bitOf .supAvsCfg 16 && s.vinOk && s.domOn dOSCF then .external
  else if 0x3C < code then .refused
  else .internal

/-! ## AVSBus (R32 to R34, R317, R318) -/

/-- The token is out (R34, SUP_STAT.AVS_TOKEN): a request is on the bus, or a Ridge word that will make one holds it. -/
def State.avsBusy (s : State) : Bool := s.bitOf .supStat 9

/-- The millivolts that a command carries (R32). -/
def AvsReq.mv (r : AvsReq) : Nat := vcodeMv r.code.toNat

/-- The first frame of a request (R32): a voltage request writes and commits the target, a status poll reads the status,
of the rail that SUP_AVS_CFG.RAIL selects. -/
def State.avsFrame (s : State) (code : Nat) (origin : AvsOrigin) : AvsReq :=
  { cmd := if origin = .poll then .readStatus else .writeCommit
    rail := BitVec.ofNat 4 (s.fieldOf .supAvsCfg 3 0)
    code := BitVec.ofNat 8 code, attempt := 0, origin := origin, polling := false, ending := false }

/-- Put a request on the bus with the token. -/
def State.avsStart (s : State) (code : Nat) (origin : AvsOrigin) : State :=
  (s.setSupply (fun p => { p with avs := some (s.avsFrame code origin) })).orReg .supStat (bitMask 9)

/-- FRC clocks the AVSBus, qualified: no AVSBus traffic takes place before FRC is (R30, R313; notes/assumptions/43.md). -/
def State.avsClocked (s : State) : Bool := s.domOn dOSCF && s.bitOf .clkStat 3

/-- A voltage request can go on the bus now: the token is free and the bus is clocked. -/
def State.avsOpen (s : State) : Bool := !s.avsBusy && s.avsClocked

/-- A Read of Status with the present target. -/
def State.startPoll (s : State) : State := s.avsStart (s.fieldOf .supVcore 7 0) .poll

/-- The bus can run, the poll period apart (R318): the AVS gate runs only once FRC is qualified (spec/04 R66). -/
def State.busRuns (s : State) : Bool := s.bitOf .supAvsCfg 16 && s.vinOk && s.domOn dOSCF && s.gateRuns 8

/-- A Read of Status is made, or waits for the token; at most one waits (R318). -/
def State.askPoll (s : State) : State :=
  if s.avsBusy then s.setSupply (fun p => { p with pollWait := true }) else s.startPoll

/-- An AVS_SET call's request once the token is free: it ends the service where it is refused, and waits for the
internal converter, or goes on the bus. -/
def State.serviceVreq (s : State) (g : Gable) (code : Nat) : State :=
  match s.vreqRoute code with
  | .refused => (s.setRidge (fun r => { r with vreqFail := true })).endService g E_RANGE
  | .internal => s.setInternal code
  | .external => s.avsStart code (.service g)

/-- A voltage request that the external regulator serves waits while the token is out or the bus is not yet clocked. -/
def State.vreqWaits (s : State) (code : Nat) : Bool := decide (s.vreqRoute code = .external) && !s.avsOpen

/-- What takes the token when it is free: a waiting AVS_SET call first, then a waiting poll, which is dropped if the bus
cannot run (notes/assumptions/17.md). A Ridge word takes it by RIDGE_TOKEN_ACQUIRED. -/
def State.avsNext (s : State) : State :=
  match s.supply.avsSetWait with
  | some (g, code) =>
    if s.vreqWaits code.toNat then s
    else (s.setSupply (fun p => { p with avsSetWait := none })).serviceVreq g code.toNat
  | none =>
    if s.supply.pollWait && !s.avsBusy then
      let s := s.setSupply (fun p => { p with pollWait := false })
      if s.busRuns then s.startPoll else s
    else s

/-- A request ends with a code, and the token is freed. -/
def State.avsEnd (s : State) (code : Byte) : State :=
  match s.supply.avs with
  | none => s
  | some r =>
    let s := (s.setSupply (fun p => { p with avs := none })).clearReg .supStat (bitMask 9)
    let s := match r.origin with
      | .service g => (s.setRidge (fun k => { k with vreqFail := decide (code ≠ E_OK) })).endService g code
      | .ridge => s.setRidge (fun k => { k with vreqPend := decide (code ≠ E_OK) })
      | .coldStart => s
      | .poll => s
    s.avsNext

/-- The third failed attempt: VCORE from the internal converter at 0.70 V, and the failure raised (R33). -/
def State.avsFallback (s : State) : State :=
  let s := ((s.setInternal 0x3C).settle).setReg .supAvsFail (satInc (s.reg .supAvsFail) 15 8 ||| bitMask 0)
  (s.pendLine 0 21).avsEnd E_TIMEOUT

/-- An attempt of a voltage request fails, with the cause that SUP_AVS_FAIL records (R33). -/
def State.avsAttemptFails (s : State) (r : AvsReq) (cause : Nat) : State :=
  let s := s.setField .supAvsFail 3 1 cause
  if r.attempt + 1 = 3 then s.avsFallback
  else s.setSupply (fun p =>
    { p with avs := some { r with cmd := .writeCommit, attempt := r.attempt + 1, polling := false } })

/-- Record the fields of a response in SUP_AVS_STATUS, also of one that fails its CRC (notes/assumptions/37.md). -/
def State.avsRecord (s : State) (ack : BitVec 2) (status : BitVec 5) (data : BitVec 16) : State :=
  s.setReg .supAvsStatus (BitVec.ofNat 32 (data.toNat + 0x10000 * status.toNat + 0x200000 * ack.toNat))

/-- A request outstanding as VIN_OK falls or EN is cleared makes no further attempt (R317). A frame that is on the bus
completes first, with its response or without one, and the request then ends with E_DLOST; between the frames of VDone's
polling it ends at once (notes/assumptions/37.md). With none outstanding, a waiting AVS_SET call is judged again. -/
def State.avsAbort (s : State) : State :=
  match s.supply.avs with
  | none => s.avsNext
  | some r =>
    if r.polling then s.avsEnd E_DLOST
    else s.setSupply (fun p => { p with avs := some { r with ending := true } })

/-- VIN_OK falls (R24, R25, R29, R317): VSYS goes to VST, unless SHELTER is engaged,
DUSK and the darkness policy are judged (R53, R57), and the seed island may start a seed (R47). -/
def State.vinLost (s : State) : State :=
  let s := (s.clearReg .supStat (bitMask 2)).orReg .supEvt (bitMask 1)
  let s := s.setSupply (fun p => { p with buck := .off, handover := false })
  let s := if s.life = .shelter then s else s.feedVst
  s.moveInternal.avsAbort.darkFollow.seedFollow

/-- VIN_OK_FALL. -/
def execVinOkFall (vin : Nat) (s : State) : Host.Outcome State Fault Refusal :=
  done s ((s.setVin vin).when s.vinOk State.vinLost)

/-- VIN_OK_ASSERT: the debounce has passed, and the soft start begins. -/
def execVinOkAssert (vin : Nat) (s : State) : Host.Outcome State Fault Refusal :=
  done s ((s.setVin vin).when (!s.vinOk && !s.bitOf .supStat 3) (fun s =>
    ((s.orReg .supStat (bitMask 2)).setSupply (fun p => { p with buck := .softStart })).vinBack))

/-- BUCK_IN_REGULATION: the VIN path charges VST from now on, and the hand-over starts. -/
def execBuckInRegulation (s : State) : Host.Outcome State Fault Refusal :=
  done s (s.when (decide (s.supply.buck = .softStart)) (fun s =>
    s.setSupply (fun p => { p with buck := .regulated, handover := true })))

/-- VIN_PATH_CARRYING: the make-before-break ends and VSYS is the buck's output, 3.30 V (Table SUP-1). -/
def execVinPathCarrying (s : State) : Host.Outcome State Fault Refusal :=
  done s (s.when s.supply.handover (fun s =>
    ((s.setSource srcVin).setSupply (fun p => { p with handover := false })).setVsys 3300))

/-- VIN_OVERVOLTAGE (R26). -/
def execVinOvervoltage (vin : Nat) (s : State) : Host.Outcome State Fault Refusal :=
  done s ((s.setVin vin).when (!s.bitOf .supStat 3) (fun s =>
    let s := (s.orReg .supStat (bitMask 3)).orReg .supEvt (bitMask 2)
    if s.vinOk then s.vinLost else s.setSupply (fun p => { p with buck := .off, handover := false })))

/-- VIN_OV_CLEAR: the lockout ends; VIN_OK then asserts after its debounce like any return of VIN (R26). -/
def execVinOvClear (vin : Nat) (s : State) : Host.Outcome State Fault Refusal :=
  done s ((s.setVin vin).clearReg .supStat (bitMask 3))

/-- AVS_SET: service 0x06, checked under R31. Its request waits for the token if that is out, and for FRC's first
qualification after a cold start (R313, R34). -/
def execAvsSet (g : Gable) (s : State) : Host.Outcome State Fault Refusal :=
  done s (s.when (s.serviceBegins g 0x06) (fun s =>
    let code := bitsOf (s.reg (.rdgArg0 g)) 7 0
    if s.vreqRoute code = .refused then s.serviceVreq g code
    else
      let s := s.serviceWait
      if s.vreqWaits code then
        s.setSupply (fun p => { p with avsSetWait := some (g, BitVec.ofNat 8 code) })
      else s.serviceVreq g code))

/-- AVS_RESPONSE (R33): a status poll ends with its response; a voltage request's response is an acknowledgement, after
which the status is polled, or a failed attempt. -/
def execAvsResponse (crcOk : Bool) (ack : BitVec 2) (status : BitVec 5) (data : BitVec 16) (s : State) :
    Host.Outcome State Fault Refusal :=
  done s (match s.supply.avs with
    | none => s
    | some r =>
      if r.polling then s
      else
        let s := s.avsRecord ack status data
        if r.ending then s.avsEnd E_DLOST
        else if r.origin = .poll then s.avsEnd E_OK
        else if !crcOk then s.avsAttemptFails r 4
        else if ack ≠ 0 then s.avsAttemptFails r ack.toNat
        else s.setSupply (fun p => { p with avs := some { r with cmd := .readStatus, polling := true } }))

/-- AVS_STATUS_POLL: a Read of Status of a voltage request, with its response. VDone makes VCORE external; a response that
fails its CRC, or carries an acknowledgement other than 0b00, is a failed attempt as any response is (R33). -/
def execAvsStatusPoll (a : PollReply) (status : BitVec 5) (data : BitVec 16) (s : State) :
    Host.Outcome State Fault Refusal :=
  done s (match s.supply.avs with
    | none => s
    | some r =>
      if !r.polling then s
      else
        let s := s.avsRecord a.ack status data
        if !a.crcOk then s.avsAttemptFails r 4
        else if a.ack ≠ 0 then s.avsAttemptFails r a.ack.toNat
        else if a.vdone then (s.setExternal r.code.toNat).avsEnd E_OK else s)

/-- AVS_ATTEMPT_TIMEOUT: 100 us without VDone, or without a response (R33). A poll that no response ends gives the token
back (notes/assumptions/17.md). -/
def execAvsAttemptTimeout (s : State) : Host.Outcome State Fault Refusal :=
  done s (match s.supply.avs with
    | none => s
    | some r =>
      if r.ending then s.avsEnd E_DLOST
      else if r.origin = .poll then s.avsEnd E_TIMEOUT
      else s.avsAttemptFails r 0)

/-- AVS_POLL_PERIOD (R318). -/
def execAvsPollPeriod (s : State) : Host.Outcome State Fault Refusal :=
  done s (s.when (s.busRuns && decide (s.fieldOf .supAvsCfg 15 8 ≠ 0)) State.askPoll)

/-- STATUS_ALERT: a Read of Status as soon as the bus is free (R32). -/
def execStatusAlert (s : State) : Host.Outcome State Fault Refusal :=
  done s (s.when s.busRuns State.askPoll)

/-- VC_LIMIT_ONSET: the internal converter enters current limit, or the draw falls back. -/
def execVcLimitOnset (limiting : Bool) (s : State) : Host.Outcome State Fault Refusal :=
  done s (s.when (!s.bitOf .supStat 7) (fun s =>
    if limiting then
      if s.bitOf .supStat 8 then s else (s.orReg .supStat (bitMask 8)).orReg .supEvt (bitMask 7)
    else s.clearReg .supStat (bitMask 8)))

end Sys2Proof.Machine
end

