-- ==== Sys2Proof/Machine/Domains.lean ====
section
/-! DEFINITION. Domain switching, what each domain loses and takes back, dependencies, and warm reset (spec/05). -/

namespace Sys2Proof.Machine

/-! ## Codes (R113) -/

/-- A domain state by its two-bit code; 0 changes nothing. -/
def domCode (v : Nat) : Option DomState :=
  match v with
  | 1 => some .on
  | 2 => some .ret
  | 3 => some .off
  | _ => none

/-- The code of a domain state. -/
def DomState.code : DomState → Nat
  | .on => 1
  | .ret => 2
  | .off => 3

/-- Depth of a domain state, ON least deep. -/
def DomState.depth (d : DomState) : Nat := d.code

/-- The entry of a domain in a 48-bit DOM field. -/
def domEntry (f : BitVec 48) (d : Dom) : Option DomState := domCode (f.toNat / 4 ^ d.val % 4)

/-- A DOM field with a domain's entry replaced. -/
def domPut (f : BitVec 48) (d : Dom) (code : Nat) : BitVec 48 :=
  BitVec.ofNat 48 (f.toNat - f.toNat / 4 ^ d.val % 4 * 4 ^ d.val + code * 4 ^ d.val)

/-- The bank of a bank domain. -/
def bankDom (d : Dom) : Option BankNo := if 8 ≤ d.val then some ⟨d.val - 8, by omega⟩ else none

/-! ## Dependencies (Table PWR-2, R182, R311) -/

/-- LINKPLL is referenced to EXTREF at run time (R311). -/
def State.linkOnExtref (s : State) : Bool :=
  s.bitOf .clkStat 4 && (List.finRange 2).any (fun n => s.bitOf (.purPcfg n) 0) &&
    (List.finRange 2).all (fun n => !s.bitOf (.purPcfg n) 0 || s.bitOf (.purPcfg n) 5)

/-- Domain states that keep Table PWR-2, with no failed bank ON. -/
def State.depsOk (s : State) (v : Vector DomState 24) : Bool :=
  let on := fun (d : Dom) => decide (v[d.val] = .on)
  (!on dBUR || on dOSCF) && (!on dSENS || on dOSCF) && (!on dLINK || on dOSCF || s.linkOnExtref) &&
    (!on dPOOL || (List.finRange 16).all (fun b => !s.cfg.thtBanks.getLsbD b.val || on (dBK b))) &&
    (List.finRange 16).all (fun b => !(on (dBK b) && s.bitOf .bnkStat b.val))

/-- The states once every switch under way is complete. -/
def State.settled (s : State) : Vector DomState 24 :=
  s.power.switching.foldl (fun v w => vset v w.dom w.target) s.power.dom

/-- The state that an entry of a DOM field gives a domain: a failed bank stays OFF whatever a RET or OFF entry says
(R182). -/
def State.entryOf (s : State) (f : BitVec 48) (d : Dom) : Option DomState :=
  match domEntry f d, bankDom d with
  | some .ret, some b => if s.bitOf .bnkStat b.val then some .off else some .ret
  | e, _ => e

/-- The states that a DOM field leads to. -/
def State.afterField (s : State) (f : BitVec 48) : Vector DomState 24 :=
  let now := s.settled
  Vector.ofFn (fun d : Dom => (s.entryOf f d).getD now[d.val])

/-! ## Order (R90) -/

/-- The order in which domains go to lower states. -/
def loweringOrder : List Dom :=
  [dCORE, dCACHE, dBUR, dSENS, dLINK, dPOOL, dPRF] ++ (List.finRange 16).map dBK ++ [dOSCF]

/-- The switches that a DOM field makes, in the order of R90 and R113: lowering ones first. -/
def State.switchesFor (s : State) (f : BitVec 48) : List Switch :=
  let now := s.settled
  let pick := fun (lower : Bool) (d : Dom) =>
    match s.entryOf f d with
    | none => none
    | some t =>
      let old := now[d.val]
      if t = old then none
      else if decide (old.depth < t.depth) = lower then some ({ dom := d, target := t } : Switch) else none
  loweringOrder.filterMap (pick true) ++ loweringOrder.reverse.filterMap (pick false)

/-- Begin the switches of a DOM field. Before those of one that takes OSCF out of ON, VCORE moves to the internal converter
(spec/02 R30). -/
def State.beginSwitches (s : State) (f : BitVec 48) : State :=
  let l := s.switchesFor f
  let s := if l.any (fun w => decide (w.dom = dOSCF) && decide (w.target ≠ .on)) then s.moveInternal else s
  s.setPower (fun p => { p with switching := p.switching ++ l })

/-- A DOM field that takes OSCF out of ON is tested as a request to disable FRC_OUT (R73): a refusal is recorded, and
the entry is dropped. Whether it was refused is answered first. -/
def State.testOscf (s : State) (f : BitVec 48) : Bool × BitVec 48 × State :=
  match domEntry f dOSCF with
  | none => (false, f, s)
  | some t =>
    if t ≠ .on && s.settled[dOSCF.val] = .on then
      match s.gateRefusal [0] with
      | some (p, c) => (true, domPut f dOSCF 0, s.recordGateRefusal p c 8)
      | none => (false, f, s)
    else (false, f, s)

/-! ## What a domain loses and takes back -/

/-- A register that the switcher keeps in the context block (Table GAB-3). -/
def Reg.inContext : Reg → Bool
  | .gabTrapBase _ => true
  | .gabEpc _ => true
  | .gabTcause _ => true
  | .gabTaddr _ => true
  | .gabTstat _ => true
  | .gabEvtEnLo _ => true
  | .gabEvtEnHi _ => true
  | .gabEvtPendLo _ => true
  | .gabEvtPendHi _ => true
  | .gabPerfCtl _ => true
  | .gabPerf _ _ => true
  | .lcGctl _ => true
  | _ => false

/-- Registers for which `p` holds take their Reset, Plate fields from the shadow (R87). BUR_CUST_ID goes on showing the
live bank (spec/13 R252). -/
def State.resetRegs (s : State) (q : Reg → Bool) : State :=
  let p := fun (r : Reg) => q r && decide (r ≠ .burCustId)
  let kept := s.regs.filter (fun x => !p x.1)
  let plate := (s.cfg.shadow.filter (fun x => p x.1)).map (fun x => (x.1, s.cfg.resetWord x.1))
  { s with regs := kept ++ plate }

/-- Registers of a domain take their Reset as it returns from OFF; those that context blocks hold are kept. -/
def State.resetDomain (s : State) (d : RegDomain) : State :=
  s.resetRegs (fun r => decide (r.domain = d) && !r.inContext)

/-- Conversions pending in the ADC are lost. -/
def State.adcClear (s : State) : State := { s with clk := { s.clk with adc := Vector.replicate 8 none, adcLast := 7, adcNow := none } }

/-- A trained port enters link sleep as LINK goes to RET (R105). -/
def State.linkRet (s : State) : State :=
  s.setPurlin (fun u => { u with ports := u.ports.map (fun q => if q.link = .trained then q.goToSleep else q) })

/-- A port that trained on FRC enters link sleep where LINK stays ON as OSCF leaves it (R105). -/
def State.linkStill (s : State) : State :=
  (List.finRange 2).foldl
    (fun (t : State) p =>
      if t.domOn dLINK && decide ((t.port p).link = .trained) && !t.bitOf (.purPcfg p) 5 then t.setPort p PortState.goToSleep
      else t) s

/-- A switch that puts ports to sleep waits until each may enter link sleep (R256). -/
def State.switchWaits (s : State) (w : Switch) : Bool :=
  (decide (w.dom = dLINK) && decide (w.target = .ret) && s.domOn dLINK && (List.finRange 2).any (fun p => s.portBusy p)) ||
    (decide (w.dom = dOSCF) && decide (w.target ≠ .on) && s.domOn dLINK &&
      (List.finRange 2).any (fun p => s.portBusy p && !s.bitOf (.purPcfg p) 5))

/-- What happens as a domain leaves ON (R30, R85, R88, R96, R185, R248). -/
def State.leaveOn (s : State) (d : Dom) (off : Bool) : State :=
  if d = dCORE then
    let s := s.drain.holdFor dCORE
    if off then s.setCore (fun c => { c with ilb := [], running := none }) else s
  else if d = dCACHE then
    let s := (s.drain.dropWaiting (fun _ => true)).finishTransfers (fun _ => true)
    if off then s.cacheWriteBack else s
  else if d = dBUR then s.holdFor dBUR
  else if d = dPOOL then (if off then s.poolLost else s)
  else if d = dLINK then (if off then s.linkLost else s.linkRet)
  else if d = dSENS then (if off then s.adcClear else s)
  else if d = dOSCF then
    let s := s.moveInternal.linkStill
    { s.clearReg .clkStat (bitMask 3) with clk := { s.clk with frc := .idle } }
  else match bankDom d with
    | some b => s.drain.cacheLeaveBank b off
    | none => s

/-- What a domain loses as it goes from RET to OFF, which keeps nothing but the Burin store array (R86, R88, R105). -/
def State.leaveRet (s : State) (d : Dom) : State :=
  if d = dCORE then s.setCore (fun c => { c with ilb := [], running := none })
  else if d = dCACHE then s.cacheWriteBack
  else if d = dPOOL then s.poolLost
  else if d = dLINK then s.linkLost
  else if d = dSENS then s.adcClear
  else match bankDom d with
    | some b => s.cacheLeaveBank b true
    | none => s

/-- What a domain finds as it leaves OFF (R87, R186, R199, R232). -/
def State.leaveOff (s : State) (d : Dom) (on : Bool) : State :=
  if d = dCORE then s.resetDomain .core
  else if d = dCACHE then
    let s := s.cacheClear.resetDomain .cache
    match s.core.running with
    | none => s
    | some g => s.plateReg (.lcGctl g)
  else if d = dPOOL then (((s.resetDomain .pool).thtRebuild).showDlost).relink
  else if d = dLINK then s.resetDomain .link
  else if d = dBUR then (s.resetDomain .bur).burRestart
  else if d = dSENS then (s.resetDomain .sens).adcClear
  else if d = dOSCF then s.resetDomain .oscf
  else match bankDom d with
    | some b => if on && s.bitOf .bnkCfg b.val then s.zeroBank b else s.undefBank b
    | none => s

/-- What happens as a domain reaches ON: FRC starts to qualify again on its retained code (R63, R66), no engine has
reached a SYNC word, what restarts left of Thatch's holdings is done, a port in link sleep that saw line activity trains
(R256). -/
def State.enterOn (s : State) (d : Dom) : State :=
  if d = dOSCF then s.frcBegin
  else if d = dBUR then s.burEnterOn
  else if d = dPOOL then s.thtResume
  else if d = dLINK then
    (List.finRange 2).foldl (fun (t : State) p => if (t.port p).act then t.leaveSleep p else t) s
  else s

/-- One switch completes: the domain counts as being in its new state from now on (R106). -/
def State.completeSwitch (s : State) (w : Switch) : State :=
  let old := s.power.dom[w.dom.val]
  let s :=
    if old = .on then s.leaveOn w.dom (decide (w.target = .off))
    else if old = .ret && w.target = .off then s.leaveRet w.dom
    else s
  let s := s.setPower (fun p => { p with dom := vset p.dom w.dom w.target })
  let s := if w.dom = dOSCF && w.target ≠ .on then s.avsNext else s
  let s := if old = .off then s.leaveOff w.dom (decide (w.target = .on)) else s
  if w.target = .on then s.enterOn w.dom else s

/-- The switch under way completes, and the next one begins, unless Brace has pre-empted Ridge (R112) or the switch
waits. -/
def State.popSwitch (s : State) : State :=
  if s.power.paused then s
  else match s.power.switching with
    | [] => s
    | w :: rest =>
      if s.switchWaits w then s else
      let s := s.setPower (fun p => { p with switching := rest, paused := s.braced && !rest.isEmpty })
      s.completeSwitch w

/-! ## Profile tables -/

/-- The Plate table of a state (R92's codes); the OFF state takes every domain to OFF. -/
def State.profileOf (s : State) : GState → BitVec 48
  | .run => s.cfg.profiles[0]
  | .idle => s.cfg.profiles[1]
  | .sleep => s.cfg.profiles[2]
  | .deep => s.cfg.profiles[3]
  | .off => BitVec.allOnes 48
  | .trans => 0

/-- A DOM field with every bank's entry that of the state before the entry (R94). -/
def State.returnBanks (s : State) (f : BitVec 48) : BitVec 48 :=
  (List.finRange 16).foldl (fun (f : BitVec 48) b => domPut f (dBK b) (s.power.preBanks[b.val]).code) f

/-- The field that applying a state's table means (R94, R311): on entry to SLEEP or DEEP each bank takes the deeper of
its present state and its entry, and LINK goes to RET where the table has it ON without its reference; on the return to RUN
or IDLE each bank takes the state it held before the entry. -/
def State.profileField (s : State) (g : GState) : BitVec 48 :=
  let f := s.profileOf g
  if g = .sleep || g = .deep then
    let f := if domEntry f dLINK = some .on && domEntry f dOSCF ≠ some .on && !s.linkOnExtref then domPut f dLINK 2 else f
    (List.finRange 16).foldl
      (fun (f : BitVec 48) b =>
        let now := s.settled[(dBK b).val]
        match domEntry f (dBK b) with
        | none => f
        | some t => if now.depth < t.depth then f else domPut f (dBK b) 0) f
  else if s.power.slept then s.returnBanks f
  else f

/-- The field that returns each bank to the state it held before the entry (R94). -/
def State.restoreField (s : State) : BitVec 48 := s.returnBanks 0

/-- Remember the banks' states at an entry from RUN or IDLE. -/
def State.saveBanks (s : State) : State :=
  let now := s.settled
  s.setPower (fun p => { p with preBanks := Vector.ofFn (fun b : Fin 16 => now[8 + b.val]), slept := true })

/-! ## Warm reset (R108) -/

/-- Each gable starts at its entry vector. -/
def State.startGables (s : State) : State :=
  let s := (List.finRange 8).foldl (fun (t : State) g => (t.withdrawCall g).startContext g) s
  { s with
    gabs := s.gabs.map (fun x =>
      { x with stopped := false, restartPend := false, autoCount := 0, turn := 0, spent := false, boost := none })
    power := { s.power with greq := Vector.replicate 8 .run, offAt := none, graceDone := false } }

/-- A register that a warm reset sets to its Reset: those of CORE, CACHE, POOL, BUR and SENS, and the GAB_ registers
(Table PWR-8; notes/assumptions/21.md). -/
def Reg.warmReset (r : Reg) : Bool :=
  (match r.domain with
  | .core => true
  | .cache => true
  | .pool => true
  | .bur => true
  | .sens => true
  | .always => false
  | .link => false
  | .oscf => false) ||
  (decide (0x40050000 ≤ Reg.addr r) && decide (Reg.addr r < 0x40060000))

/-- Warm reset, in the order of R108. -/
def State.warmReset (s : State) : State :=
  let s := s.drain
  let s := s.cacheFlushAll.cacheClear
  let s := s.closeAll
  let s := (s.resetRegs Reg.warmReset).burRestart.adcClear
  let s := s.setCore (fun c => { c with running := none, ilb := [], sb := [], halted := false })
  let s := s.thtRebuild.relink
  let s := (List.finRange 2).foldl (fun (t : State) p =>
    if (t.port p).link = .trained then t.ledgerStart p else t) s
  let s := s.setField .pwrResetCause 2 0 5
  s.startGables

end Sys2Proof.Machine
end

