-- ==== Sys2Proof/Machine/Clocks.lean ====
section
/-! DEFINITION. Oscillator qualification and monitoring, FRC trimming, the RTC, timers and the ADC (spec/04). -/

namespace Sys2Proof.Machine

/-! ## Qualification (R66 to R68) -/

/-- A window: the reference cycles it takes, and the frequencies of target and reference. -/
structure Window where
  n    : Nat
  fTgt : Nat
  fRef : Nat
  deriving DecidableEq, Repr

/-- The count less the expected one, both times the reference frequency, so that it stays whole. -/
def Window.excess (w : Window) (count : Nat) : Int := (count : Int) * w.fRef - (w.n : Int) * w.fTgt

/-- The expected count times the reference frequency. -/
def Window.scale (w : Window) : Nat := w.n * w.fTgt

/-- The count's error is at most `num / den` of the expected count. -/
def Window.within (w : Window) (count num den : Nat) : Bool :=
  decide ((w.excess count).natAbs * den ≤ num * w.scale)

/-- A window of `us` microseconds, rounded up to whole reference cycles. -/
def windowUs (us fTgt fRef : Nat) : Window := { n := (us * fRef + 999999) / 1000000, fTgt := fTgt, fRef := fRef }

/-- Nominal frequencies in Hz (Table CLK-1). -/
def fXt : Nat := 32768
def fLrc : Nat := 32000
def fFrc : Nat := 96000000

/-- The window of an oscillator, from its registers. -/
def State.qualWindow (s : State) : Osc → Window
  | .xt32 => { n := s.fieldOf .clkQualXt 9 0, fTgt := fXt, fRef := fLrc }
  | .frc => windowUs (s.fieldOf .clkQualFrc 11 0) fFrc (if s.bitOf .clkStat 7 then fXt else fLrc)
  | .extref => windowUs 1024 (1000 * s.fieldOf .clkExtref 15 0) fFrc

/-- The tolerance in units of 0.25 %. -/
def State.qualTol (s : State) : Osc → Nat
  | .xt32 => s.fieldOf .clkQualXt 13 10
  | .frc => s.fieldOf .clkQualFrc 15 12
  | .extref => s.fieldOf .clkExtref 19 16

/-- How many attempts a procedure makes; XT32 goes on until its timeout. -/
def State.qualTries (s : State) : Osc → Option Nat
  | .xt32 => none
  | .frc => some (s.fieldOf .clkQualFrc 17 16)
  | .extref => some 3

def State.qualPhase (s : State) : Osc → QualPhase
  | .xt32 => s.clk.xt
  | .frc => s.clk.frc
  | .extref => s.clk.ext

def State.setPhase (s : State) (t : Osc) (p : QualPhase) : State :=
  s.setClk (fun c => match t with
    | .xt32 => { c with xt := p }
    | .frc => { c with frc := p }
    | .extref => { c with ext := p })

/-- The bits of an oscillator in CLK_STAT and CLK_EVT: qualified; q event, fail event, lost event. -/
def qualBit : Osc → Nat
  | .xt32 => 0
  | .frc => 3
  | .extref => 4

def qualEvt : Osc → Nat
  | .xt32 => 0
  | .frc => 3
  | .extref => 5

def failEvt : Osc → Nat
  | .xt32 => 1
  | .frc => 4
  | .extref => 6

def lostEvt : Osc → Nat
  | .xt32 => 2
  | .frc => 4
  | .extref => 7

/-- The oscillator and its reference run. -/
def State.qualRuns (s : State) : Osc → Bool
  | .xt32 => s.bitOf .clkCfg 0
  | .frc => s.frcRuns
  | .extref => s.bitOf .clkCfg 1 && s.frcRuns && s.bitOf .clkStat 3

/-- A code of `w` bits; one outside its range is a free value. -/
def State.fitCode (s : State) (w : Nat) (v : Int) : Nat × State :=
  if 0 ≤ v ∧ v < 2 ^ w then (v.toNat, s) else ((s.freshWord.1).toNat % 2 ^ w, s.freshWord.2)

/-- A quotient of integers rounded to the nearest; which way an exact half goes the spec leaves open. -/
def State.roundInt (s : State) (n : Int) (d : Nat) : Int × State :=
  if 2 * (n % d) < d then (n / d, s)
  else if (d : Int) < 2 * (n % d) then (n / d + 1, s)
  else (n / d + (if s.freshRound.1 then 1 else 0), s.freshRound.2)

/-- The FRC trim code. -/
def State.trimCode (s : State) : Nat := s.fieldOf .clkFrcTrim 12 4

/-- Set the FRC trim code. -/
def State.setTrim (s : State) (v : Int) : State :=
  let (c, s) := s.fitCode 9 v
  s.setField .clkFrcTrim 12 4 c

/-- The correction of the trim code at the end of a failed FRC window within 8 %: one step of the code for each 0.05 % of
error, rounded. -/
def State.qualCorrect (s : State) (count : Nat) : State :=
  let w := s.qualWindow .frc
  if w.within count 8 100 && decide (w.scale ≠ 0) then
    let (r, s) := s.roundInt (w.excess count * 2000) w.scale
    s.setTrim ((s.trimCode : Int) - r)
  else s

/-- The first qualification of FRC after a cold start with VCORE_DEF requests CODE from the external regulator, if that
may run now (R313). -/
def State.vcoreRequest (s : State) : State :=
  if s.supply.vcoreDef then
    let s := s.setSupply (fun p => { p with vcoreDef := false })
    if s.bitOf .supCfg 7 && s.vinOk && s.bitOf .supAvsCfg 16 && !s.avsBusy then
      s.avsStart (s.fieldOf .supVcore 7 0) .coldStart
    else s
  else s

/-- An oscillator is qualified. With FRC's, the AVSBus is clocked, and an AVS_SET call that waited for it goes on. -/
def State.qualify (s : State) (t : Osc) : State :=
  let s := ((s.orReg .clkStat (bitMask (qualBit t))).setPhase t .qualified).clkEvent (bitMask (qualEvt t))
  if t = .frc then s.vcoreRequest.avsNext else s

/-- A procedure fails (R67). -/
def State.qualFail (s : State) (t : Osc) : State :=
  (s.setPhase t (if t = .frc then .retryWait else .idle)).clkEvent (bitMask (failEvt t))

/-- A window of an attempt ends. -/
def State.qualWindowEnds (s : State) (t : Osc) (n count : Nat) : State :=
  if (s.qualWindow t).within count (s.qualTol t) 400 then s.qualify t
  else
    let s := if t = .frc then s.qualCorrect count else s
    match s.qualTries t with
    | none => s
    | some k => if n + 1 ≥ k then s.qualFail t else s.setPhase t (.attempt (n + 1))

/-- QUALIFICATION_WINDOW. -/
def execQualificationWindow (t : Osc) (count : Nat) (s : State) : Host.Outcome State Fault Refusal :=
  done s (s.when (s.qualRuns t) (fun s => match s.qualPhase t with
    | .attempt n => s.qualWindowEnds t n count
    | .idle => s
    | .retryWait => s
    | .qualified => s))

/-- XT32_QUAL_TIMEOUT: the crystal driver stops. -/
def execXt32QualTimeout (s : State) : Host.Outcome State Fault Refusal :=
  done s (match s.clk.xt with
    | .attempt _ => s.qualFail .xt32
    | .idle => s
    | .retryWait => s
    | .qualified => s)

/-- FRC_QUAL_RETRY. -/
def execFrcQualRetry (s : State) : Host.Outcome State Fault Refusal :=
  done s (s.when (s.frcRuns && decide (s.clk.frc = .retryWait)) State.frcBegin)

/-- OSC_MONITOR_WINDOW: XT32 and EXTREF are monitored (R68), FRC is not. -/
def execOscMonitorWindow (t : Osc) (count : Nat) (s : State) : Host.Outcome State Fault Refusal :=
  done s (s.when
    (decide (t ≠ .frc) && s.qualRuns t && decide (s.qualPhase t = .qualified) &&
      !(s.qualWindow t).within count (2 * s.qualTol t) 400) (fun s =>
    ((s.clearReg .clkStat (bitMask (qualBit t))).setPhase t .idle).clkEvent (bitMask (lostEvt t))))

/-- A CLK_CFG write that was accepted: an enable written from 0 to 1 starts qualification (R67), and one written to 0
stops its oscillator, which is then not qualified (notes/assumptions/23.md). -/
def State.clkCfgTake (s : State) (v : Word) : State :=
  let step := fun (s : State) (t : Osc) (k : Nat) (old : Bool) =>
    if v.getLsbD k then (if old then s else s.setPhase t (.attempt 0))
    else (s.clearReg .clkStat (bitMask (qualBit t))).setPhase t .idle
  let xt := s.bitOf .clkCfg 0
  let ext := s.bitOf .clkCfg 1
  step (step (s.setReg .clkCfg v) .xt32 0 xt) .extref 1 ext

/-! ## Trimming (R69, R70) -/

/-- The trim source in use (CLK_STAT.TRIM_ACT): none while it holds. -/
def State.trimAct (s : State) : Nat :=
  if !s.frcRuns || !s.bitOf .clkStat 3 || s.bitOf .clkFrcTrim 3 || s.clk.trimFrozen then 0
  else match s.fieldOf .clkFrcTrim 1 0 with
    | 1 => if s.bitOf .clkStat 4 then 1 else 0
    | 2 =>
      let q := s.port ⟨s.fieldOf .clkFrcTrim 2 2 % 2, by omega⟩
      if q.link = .trained && !q.head then 2 else 0
    | _ => 0

/-- A trim window ends. -/
def State.trimWindowEnds (s : State) (count : Nat) : State :=
  let w : Window := { n := 98304, fTgt := 1, fRef := 1 }
  if !w.within count 2 100 then
    (s.setClk (fun c => { c with trimFrozen := true })).clkEvent (bitMask 8)
  else if !w.within count 1 4000 then
    s.setTrim ((s.trimCode : Int) - (w.excess count).sign)
  else s

/-- TRIM_WINDOW. -/
def execTrimWindow (count : Nat) (s : State) : Host.Outcome State Fault Refusal :=
  done s (s.when (decide (s.trimAct ≠ 0)) (fun s => s.trimWindowEnds count))

/-- SSC_UPDATE: the triangle's upper apex (R71). -/
def execSscUpdate (s : State) : Host.Outcome State Fault Refusal :=
  done s (s.setClk (fun c => { c with sscInForce := s.reg .clkSsc }))

/-- MOSC_TRIM_CORRECTION (R63): one step of the code. -/
def execMoscTrimCorrection (faster : Bool) (s : State) : Host.Outcome State Fault Refusal :=
  done s (
    let r := s.fitCode 8 ((s.fieldOf .clkTrims 15 8 : Int) + (if faster then 1 else -1))
    r.2.setField .clkTrims 15 8 r.1)

/-! ## The RTC (R64, R78 to R80) -/

/-- The source that the RTC counts: XT32 while it is qualified and CLK_CFG lets it (R64). -/
def State.rtcWants (s : State) : Bool := s.bitOf .clkStat 0 && !s.bitOf .clkCfg 3

/-- The RTC takes the source that it wants (R64). -/
def State.rtcSource (s : State) : State := (s.putBit .clkStat 6 s.rtcWants).putBit .tmrRtcCtl 3 s.rtcWants

/-- RTC_SOURCE_CHANGE: at an RTC second boundary, which the last RTC count crossed (R64; notes/assumptions/46.md). -/
def execRtcSourceChange (s : State) : Host.Outcome State Fault Refusal :=
  done s (s.when s.clk.rtcEdge State.rtcSource)

/-- A pending set takes effect on an RTC count (R79). -/
def State.rtcApply (s : State) : State :=
  match s.clk.rtcSetPend with
  | none => s
  | some v =>
    ((s.setReg .tmrRtcSec v).setField .tmrRtcCtl 2 1 1).setClk (fun c =>
      { c with rtcFrac := 0, rtcAcc := 0, rtcSetPend := none, rtcEdge := true })

/-- RTC_SET_APPLY. -/
def execRtcSetApply (s : State) : Host.Outcome State Fault Refusal := done s s.rtcApply

/-- The RTC value and the alarm value in 1/65,536 s. -/
def State.rtcValue (s : State) : Nat := (s.reg .tmrRtcSec).toNat * 65536 + s.clk.rtcFrac.toNat
def State.alarmValue (s : State) : Nat := (s.reg .tmrRtcAlmSec).toNat * 65536 + s.fieldOf .tmrRtcAlmFrac 15 0

/-- RTC_ALARM (R80): in SHELTER it sets FIRED and does nothing else. -/
def execRtcAlarm (s : State) : Host.Outcome State Fault Refusal :=
  done s (s.when (s.bitOf .tmrRtcAlmCtl 0 && decide (s.alarmValue ≤ s.rtcValue)) (fun s =>
    let s := s.setField .tmrRtcAlmCtl 1 0 2
    if s.life = .shelter then s else s.accept 9))

/-! ## Timers (R81, R82) -/

/-- The registers of a timer. -/
structure TimerRegs where
  load  : Reg
  ctl   : Reg
  count : Reg
  deriving DecidableEq, Repr

def moscTimer (n : Fin 4) : TimerRegs := { load := .tmrSLoad n, ctl := .tmrSCtl n, count := .tmrSCount n }
def pclkTimer (g : Gable) : TimerRegs := { load := .tmrFLoad g, ctl := .tmrFCtl g, count := .tmrFCount g }

/-- A timer is counting. -/
def State.timerRuns (s : State) (t : TimerRegs) : Bool := s.bitOf t.ctl 3

/-- A write of a timer's CTL by a gable, reserved bits and rights checked: MODE takes the written value, START starts or
restarts from LOAD unless LOAD is 0, STOP stops and keeps the count. A START with LOAD = 0 is discarded with its whole
write. A write with both bits starts and stops. -/
def State.timerCtl (s : State) (g : Gable) (t : TimerRegs) (v : Word) : State :=
  if v.getLsbD 0 && decide (s.reg t.load = 0) then
    s.recordFault g E_RANGE (BitVec.ofNat 32 (Reg.addr t.ctl))
  else
    let s := s.putBit t.ctl 2 (v.getLsbD 2)
    let s := if v.getLsbD 0 then (s.setReg t.count (s.reg t.load)).orReg t.ctl (bitMask 3) else s
    if v.getLsbD 1 then s.clearReg t.ctl (bitMask 3) else s

/-- A timer passes from 1 to 0: it reloads in periodic mode, and else stops at 0. -/
def State.timerExpire (s : State) (t : TimerRegs) : State :=
  if s.bitOf t.ctl 2 then s.setReg t.count (s.reg t.load)
  else (s.setReg t.count 0).clearReg t.ctl (bitMask 3)

/-- MOSC_TIMER_EXPIRY: the count stands at 1 and passes to 0. -/
def execMoscTimerExpiry (n : Fin 4) (s : State) : Host.Outcome State Fault Refusal :=
  done s (s.when (s.timerRuns (moscTimer n) && decide (s.reg (.tmrSCount n) = 1)) (fun s =>
    (s.timerExpire (moscTimer n)).accept ⟨10 + n.val, by omega⟩))

/-- PCLK_TIMER_EXPIRY: gates PCLK and TMRF run, and the count stands at 1 and passes to 0. -/
def execPclkTimerExpiry (g : Gable) (s : State) : Host.Outcome State Fault Refusal :=
  done s (s.when (s.timerRuns (pclkTimer g) && s.gateRuns 11 && decide (s.reg (.tmrFCount g) = 1)) (fun s =>
    (s.timerExpire (pclkTimer g)).pendLine g 29))

/-! ## The ADC (R83 to R85) -/

/-- The next pending slot in rotating order after the gable last served. -/
def Clocks.adcNext (c : Clocks) : Option Gable :=
  let pend := (List.finRange 8).filter (fun g => (c.adc[g.val]).isSome)
  match pend.find? (fun g => decide (c.adcLast < g)) with
  | some g => some g
  | none => pend.head?

/-- The code of the first check that a conversion request fails (R83). -/
def State.adcFails (s : State) (g : Gable) (v : Word) : Option Byte :=
  let ch := bitsOf v 3 0
  firstFail
    [(decide (13 ≤ ch) || decide (5 ≤ bitsOf v 7 5), E_RSVD),
     (decide (ch < 8) && decide (bitsOf (s.reg .snsAinOwn) (4 * ch + 3) (4 * ch) ≠ g.val), E_NOT_OWNER),
     ((s.clk.adc[g.val]).isSome, E_BUSY)]

/-- A SNS_CONV write with GO = 1 that reached the register. -/
def State.adcRequest (s : State) (g : Gable) (v : Word) : State :=
  match s.adcFails g v with
  | some c => s.recordFault g c (BitVec.ofNat 32 (Reg.addr (.snsConv g)))
  | none =>
    let s := (s.setField (.snsResult g) 17 16 1).setClk (fun c =>
      { c with adc := vset c.adc g (some { ch := BitVec.ofNat 4 (bitsOf v 3 0), avg := BitVec.ofNat 3 (bitsOf v 7 5) }) })
    if s.clk.adcNow.isNone then s.setClk (fun c => { c with adcNow := some g }) else s

/-- The code of a channel before the converter's error (Table CLK-5, spec/16 R302): AIN against 1.20 V, VIN against 76.8 V,
VST, VBAT and VSYS against 9.6 V; a value at or above full scale reads full scale. -/
def State.adcIdeal (s : State) (ch input : Nat) : Nat :=
  min 4095 (if ch < 8 then input * 4096 / 1200000
    else if ch = 8 then s.vinMv * 4096 / 76800
    else if ch = 9 then s.vstMv * 4096 / 9600
    else if ch = 10 then s.vbatMv * 4096 / 9600
    else if ch = 11 then s.vsysMv * 4096 / 9600
    else input)

/-- The greatest error of a conversion in LSB (spec/16 Table ELE-7): INL, DNL and offset, the gain error of the channel,
or 2 degrees of temperature (notes/assumptions/49.md). -/
def adcErrMax (ch code : Nat) : Nat :=
  if ch < 8 then 7 + code * 5 / 1000 else if ch < 12 then 7 + code / 100 else 33

/-- A conversion that the channel can give. -/
def State.adcPlausible (s : State) (ch : Nat) (x : AdcSample) : Bool :=
  decide (x.err.natAbs ≤ adcErrMax ch (s.adcIdeal ch x.input))

/-- The code of a conversion: an input above full scale reads full scale. -/
def State.adcCode (s : State) (ch : Nat) (x : AdcSample) : Nat :=
  if ch < 8 && 1200000 < x.input then 4095
  else (min 4095 (max 0 ((s.adcIdeal ch x.input : Int) + x.err))).toNat

/-- The request in progress ends with the mean of its conversions; the next pending slot is served (R84). -/
def State.adcFinish (s : State) (g : Gable) (r : AdcReq) (codes : List Nat) : State :=
  let (mean, s) := s.roundInt ((codes.sum : Nat) : Int) codes.length
  let s := s.setReg (.snsResult g) (BitVec.ofNat 32 (mean.toNat % 4096 + 0x1000 * r.ch.toNat + 0x20000))
  let s := s.setClk (fun c => { c with adc := vset c.adc g none, adcLast := g })
  s.setClk (fun c => { c with adcNow := c.adcNext })

/-- The conversions fit a request: 2^AVG of them, each within the converter's error. -/
def State.adcFits (s : State) (r : AdcReq) (samples : List AdcSample) : Bool :=
  decide (samples.length = 2 ^ r.avg.toNat) && samples.all (fun x => s.adcPlausible r.ch.toNat x)

/-- ADC_REQUEST_COMPLETE: the request in progress has had its 2^AVG conversions. -/
def execAdcRequestComplete (samples : List AdcSample) (s : State) : Host.Outcome State Fault Refusal :=
  done s (match s.clk.adcNow with
    | none => s
    | some g =>
      match s.clk.adc[g.val] with
      | none => s
      | some r =>
        s.when (s.domOn dSENS && s.gateRuns 7 && s.adcFits r samples) (fun s =>
          s.adcFinish g r (samples.map (fun x => s.adcCode r.ch.toNat x))))

end Sys2Proof.Machine
end

