-- ==== Sys2Proof/Machine/PlateFormat.lean ====
section
/-! DEFINITION. The Plate's byte format, what a slot configures, and the checks of Table PLT-5 (spec/15, with the check
tables of spec/06 and spec/13 and the slot rules of spec/01 to spec/14). -/

namespace Sys2Proof.Machine

/-! ## Reading bytes -/

/-- The byte at an NVM offset; a byte not listed is erased. -/
def nvmByte (n : Nvm) (a : Nat) : Byte := memGet 0xFF n.bytes a

/-- A slot, or an image, as a source of bytes by offset. -/
abbrev Rd := Nat → Byte

def rdBytes (rd : Rd) (off count : Nat) : List Byte := (List.range count).map (fun k => rd (off + k))
def rdLe (rd : Rd) (off count : Nat) : Nat := leNat (rdBytes rd off count)
def rdZero (rd : Rd) (off count : Nat) : Bool := (List.range count).all (fun k => decide (rd (off + k) = 0))

/-- The two slots of the NVM (R276). -/
def slotBase (slotB : Bool) : Nat := if slotB then 0x100000 else 0
def nvmSlot (n : Nvm) (slotB : Bool) : Rd := fun a => nvmByte n (slotBase slotB + a)

/-- An image held as a list. -/
def imageRd (bs : List Byte) : Rd := fun a => bs.getD a 0xFF

/-! ## Header and directory (Table PLT-1) -/

def hdrMagicOk (rd : Rd) : Bool := decide (rdBytes rd 0 4 = [0x4E, 0x56, 0x50, 0x4C])
def hdrCrcOk (rd : Rd) : Bool := decide ((crc32 (rdBytes rd 0 0x3C)).toNat = rdLe rd 0x3C 4)
def hdrNsec (rd : Rd) : Nat := rdLe rd 0x06 2
def hdrSeq (rd : Rd) : Nat := rdLe rd 0x08 4
def hdrSecVer (rd : Rd) : Nat := rdLe rd 0x0C 2
def hdrCommitArb (rd : Rd) : Bool := decide (rdLe rd 0x0E 2 % 2 = 1)
def hdrBodyLen (rd : Rd) : Nat := rdLe rd 0x10 4

/-- The slot's length in bytes, signature included. -/
def slotLen (rd : Rd) : Nat := 0x40 + hdrBodyLen rd + 64

/-- A section of the directory. -/
structure Section where
  ty  : Nat
  opt : Bool
  off : Nat
  len : Nat
  deriving DecidableEq, Repr

def dirEntry (rd : Rd) (k : Nat) : Section :=
  let a := 0x40 + 16 * k
  { ty := rdLe rd a 2, opt := decide (rdLe rd (a + 2) 2 % 2 = 1), off := rdLe rd (a + 4) 4, len := rdLe rd (a + 8) 4 }

def dirOf (rd : Rd) : List Section := (List.range (hdrNsec rd)).map (fun k => dirEntry rd k)

/-- The section of a type. -/
def secFind (rd : Rd) (ty : Nat) : Option Section := (dirOf rd).find? (fun x => decide (x.ty = ty))

/-- The types of Table PLT-2. -/
def tyVendorRdg : Nat := 1
def tyVendorBur : Nat := 2
def tyCustRdg : Nat := 3
def tyCustBur : Nat := 4
def tyOpk : Nat := 5
def tyGables : Nat := 6
def tyKeys : Nat := 7
def tyShadow : Nat := 8
def tyProfiles : Nat := 9
def tyRecovery : Nat := 10
def tyKeyRoll : Nat := 11
def tyImages : Nat := 12

/-- Words of 16 bytes from an offset on, as a store whose first word has the number `first`. -/
def rdStore (rd : Rd) (off first count : Nat) : Store :=
  (List.range count).foldl (fun st k => st.put (first + k) (BitVec.ofNat 128 (rdLe rd (off + 16 * k) 16))) []

/-- A HALT word of Burin; what an absent CUST_BUR section gives. -/
def burHaltWord : BitVec 128 := BitVec.ofNat 128 (7 * 2 ^ 108)

/-- The offset of a section, where there is one. -/
def secOff (rd : Rd) (ty : Nat) : Nat := ((secFind rd ty).map (fun x => x.off)).getD 0

def plateVendorRdg (rd : Rd) : Store := rdStore rd (secOff rd tyVendorRdg + 16) 0 384
def plateVendorBur (rd : Rd) : Store := rdStore rd (secOff rd tyVendorBur + 16) 0 512

def plateCustRdg (rd : Rd) : Store :=
  match secFind rd tyCustRdg with
  | none => []
  | some x => rdStore rd (x.off + 16) 384 128

def plateCustBur (rd : Rd) : Store :=
  match secFind rd tyCustBur with
  | none => (List.range 512).foldl (fun st k => Store.put st (512 + k) burHaltWord) []
  | some x => rdStore rd (x.off + 16) 512 512

/-- VER, SEC_VER and KEY_ID of a vendor section. -/
def vendorVer (rd : Rd) (ty : Nat) : Nat := rdLe rd (secOff rd ty) 4
def vendorSecVer (rd : Rd) (ty : Nat) : Nat := rdLe rd (secOff rd ty + 4) 2
def vendorKeyId (rd : Rd) (ty : Nat) : Nat := rdLe rd (secOff rd ty + 6) 2
def verMajor (v : Nat) : Nat := v / 2 ^ 24
def verMinor (v : Nat) : Nat := v / 2 ^ 16 % 256

/-! ## Descriptors, keys, shadow, profiles, images -/

/-- Descriptor `g` (Table PLT-3). -/
def rdDesc (rd : Rd) (g : Nat) : Desc :=
  let a := secOff rd tyGables + 8 + 128 * g
  let b0 := (rd a).toNat
  let n := fun o c => rdLe rd (a + o) c
  { present := decide (b0 % 2 = 1), stipple := decide (b0 / 2 % 2 = 1), slackOk := decide (b0 / 4 % 2 = 1)
    strict := decide (b0 / 8 % 2 = 1), policy := BitVec.ofNat 2 (b0 / 16), urg := n 1 1, budget := n 2 2
    entry := BitVec.ofNat 32 (n 4 4), trapBase := BitVec.ofNat 32 (n 8 4), banks := BitVec.ofNat 16 (n 0xC 2)
    lines := n 0xE 1, boostMax := n 0xF 1, delay := n 0x10 1, limit := n 0x11 1, ckptPages := n 0x12 2
    svcLo := BitVec.ofNat 32 (n 0x14 4), svcHi := BitVec.ofNat 32 (n 0x18 4), svcCust := BitVec.ofNat 32 (n 0x1C 4)
    subs := BitVec.ofNat 64 (n 0x20 8), evtEn := BitVec.ofNat 64 (n 0x28 8)
    win := Vector.ofFn (fun k : Fin 8 => BitVec.ofNat 32 (n (0x30 + 4 * k.val) 4))
    engines := BitVec.ofNat 4 (n 0x50 1), groups := BitVec.ofNat 4 (n 0x51 1), wakes := BitVec.ofNat 16 (n 0x52 2)
    quota := Vector.ofFn (fun k : Fin 4 => n (0x54 + 2 * k.val) 2), lcGctl := BitVec.ofNat 32 (n 0x5C 4)
    ains := BitVec.ofNat 8 (n 0x60 1) }

/-- One KEYS entry: gable, method, and the bytes that follow. -/
structure KeyEntry where
  gable  : Nat
  method : Nat
  body   : List Byte
  deriving DecidableEq, Repr

/-- The KEYS entries; `none` when the bytes do not parse as entries. -/
def keysParse : Nat → List Byte → Option (List KeyEntry)
  | _, [] => some []
  | 0, _ => none
  | n + 1, g :: m :: 0 :: 0 :: rest =>
    let size := if m = 0 then 32 else 48
    if 2 ≤ m.toNat || 8 ≤ g.toNat || rest.length < size then none
    else (keysParse n (rest.drop size)).map (fun l => { gable := g.toNat, method := m.toNat, body := rest.take size } :: l)
  | _ + 1, _ => none

/-- The entries of the KEYS section. -/
def plateKeys (rd : Rd) : Option (List KeyEntry) :=
  match secFind rd tyKeys with
  | none => some []
  | some x => keysParse 16 (rdBytes rd x.off x.len)

def KeyEntry.cred (k : KeyEntry) : Cred :=
  if k.method = 0 then .key k.body else .password (k.body.take 16) (k.body.drop 16)

/-- The bytes of a KEYS entry as stored. -/
def KeyEntry.bytes (k : KeyEntry) : List Byte := [BitVec.ofNat 8 k.gable, BitVec.ofNat 8 k.method, 0, 0] ++ k.body

/-- CRED of a gable (R290). -/
def credWord (keys : List KeyEntry) (g : Gable) : Word :=
  match keys.find? (fun k => decide (k.gable = g.val)) with
  | none => 0
  | some k => BitVec.ofNat 32 (leNat ((sha256 k.bytes).take 4))

/-- The pairs of the SHADOW section as addresses and values. -/
def shadowPairs (rd : Rd) : List (Nat × Word) :=
  match secFind rd tyShadow with
  | none => []
  | some x => (List.range (x.len / 8)).map (fun k => (rdLe rd (x.off + 8 * k) 4, BitVec.ofNat 32 (rdLe rd (x.off + 8 * k + 4) 4)))

/-- The register that a SHADOW address names, if it has a field whose Reset is "Plate". -/
def shadowReg (a : Nat) : Option Reg :=
  match Reg.atAddr? 0 a with
  | none => none
  | some r => if r.fields.any (fun f => f.plate) then some r else none

/-- Words that the descriptors give registers (Table PLT-3). They stand before SHADOW's pairs, so that the descriptors
decide them. -/
def descShadow (g : Gable) (d : Desc) : List (Reg × Word) :=
  [(.gabTrapBase g, d.trapBase), (.gabEvtEnLo g, d.evtEn.setWidth 32), (.gabEvtEnHi g, (d.evtEn >>> 32).setWidth 32),
   (.lcGctl g, d.lcGctl), (.gabId g, BitVec.ofNat 32 (g.val + if d.stipple then 8 else 0)),
   (.gabSched g, BitVec.ofNat 32 (d.budget % 1024 + 0x400 * (d.urg % 4) + (if d.slackOk then 0x1000 else 0) + 0x10000 * d.boostMax)),
   (.gabRestart g, BitVec.ofNat 32 (d.policy.toNat + 0x100 * d.delay + 0x10000 * d.limit)),
   (.gabSvcLo g, d.svcLo), (.gabSvcHi g, d.svcHi), (.gabSvcCust g, d.svcCust),
   (.thtGcfg g, if d.strict then 1 else 0)] ++
  (List.finRange 8).map (fun k => (Reg.gabWin g k, d.win[k.val])) ++
  (List.finRange 4).map (fun k => (Reg.thtQuota g k, BitVec.ofNat 32 (d.quota[k.val])))

/-- The line counts of four gables as LC_PART packs them. -/
def lineCounts (desc : Vector Desc 8) (hi : Bool) : Word :=
  ((List.finRange 8).filter (fun g => decide (4 ≤ g.val) = hi)).foldl
    (fun (w : Word) g => putBits w (6 * (g.val % 4) + 5) (6 * (g.val % 4)) desc[g.val].lines) 0

/-- PLT_ABI: the nibbles of the versions of format, Ridge, Burin and firmware. -/
def abiWord (rd : Rd) : Word :=
  let nib := fun (maj min : Nat) => 16 * (maj % 16) + min % 16
  let vr := vendorVer rd tyVendorRdg
  let vb := vendorVer rd tyVendorBur
  BitVec.ofNat 32 (leNat [BitVec.ofNat 8 (nib (rd 0x1B).toNat (rd 0x1A).toNat), BitVec.ofNat 8 (nib (verMajor vb) (verMinor vb)),
    BitVec.ofNat 8 (nib (verMajor vr) (verMinor vr)), BitVec.ofNat 8 (nib (rd 5).toNat (rd 4).toNat)])

/-- Words that other sections than SHADOW give registers: the line counts, QUANTUM, and the loaded versions. -/
def slotShadow (rd : Rd) (desc : Vector Desc 8) : List (Reg × Word) :=
  [(.lcPartLo, lineCounts desc false), (.lcPartHi, lineCounts desc true),
   (.gabSchedCfg, BitVec.ofNat 32 (rdLe rd (secOff rd tyGables + 2) 1)),
   (.rdgVer, BitVec.ofNat 32 (vendorVer rd tyVendorRdg)), (.burVer, BitVec.ofNat 32 (vendorVer rd tyVendorBur)),
   (.pltAbi, abiWord rd)]

/-- The profile table of a state; without the section every entry is 0. -/
def rdProfile (rd : Rd) (k : Nat) : BitVec 48 :=
  match secFind rd tyProfiles with
  | none => 0
  | some x => BitVec.ofNat 48 (rdLe rd (x.off + 6 * k) 6)

/-- The IMAGES records as addresses and bytes; `none` when the section does not parse. -/
def imagesParse (rd : Rd) : Nat → Nat → Nat → Option (List (Nat × List Byte))
  | _, _, 0 => some []
  | 0, _, _ => none
  | n + 1, off, left =>
    if left < 8 then none
    else
      let len := rdLe rd (off + 4) 4
      let size := 8 + (len + 3) / 4 * 4
      if left < size then none
      else (imagesParse rd n (off + size) (left - size)).map (fun l => (rdLe rd off 4, rdBytes rd (off + 8) len) :: l)

def plateImages (rd : Rd) : Option (List (Nat × List Byte)) :=
  match secFind rd tyImages with
  | none => some []
  | some x => imagesParse rd (x.len / 8 + 1) x.off x.len

/-! ## The configuration that a slot gives -/

/-- The first page of each checkpoint region, in gable order from page 0x40 (Table PLT-7). -/
def ckptBase (desc : Vector Desc 8) (g : Gable) : Nat :=
  ((List.finRange 8).filter (fun h => decide (h < g))).foldl
    (fun n h => n + (if desc[h.val].present then desc[h.val].ckptPages else 0)) 0x40

/-- Banks that BNK_OWN designates to Thatch. -/
def ownCode (lo hi : Word) (b : Nat) : Nat :=
  if b < 8 then bitsOf lo (4 * b + 3) (4 * b) else bitsOf hi (4 * (b - 8) + 3) (4 * (b - 8))

def thatchBanks (lo hi : Word) : BitVec 16 :=
  (List.range 16).foldl (fun (m : BitVec 16) b => if ownCode lo hi b = 8 then m ||| BitVec.ofNat 16 (2 ^ b) else m) 0

/-- The configuration of a slot. -/
def plateCfg (rd : Rd) (slotB : Bool) : Cfg :=
  let desc := Vector.ofFn (fun g : Fin 8 => let d := rdDesc rd g.val; if d.present then d else Desc.absent)
  let keys := (plateKeys rd).getD []
  let shadow := slotShadow rd desc ++ ((List.finRange 8).flatMap (fun g => descShadow g desc[g.val])) ++
    (shadowPairs rd).filterMap (fun x => (shadowReg x.1).map (fun r => (r, x.2)))
  let word := fun (r : Reg) => ({ Cfg.reset with shadow := shadow } : Cfg).resetWord r
  { desc := desc
    linkRsv := rdLe rd (secOff rd tyGables) 2
    quantum := rdLe rd (secOff rd tyGables + 2) 1
    domScheme := (word .pwrCfg).getLsbD 0
    profiles := Vector.ofFn (fun k : Fin 4 => rdProfile rd k.val)
    creds := Vector.ofFn (fun g : Fin 8 => (keys.find? (fun k => decide (k.gable = g.val))).map KeyEntry.cred)
    shadow := shadow
    thtBanks := thatchBanks (word .bnkOwnLo) (word .bnkOwnHi)
    slotB := slotB
    seq := BitVec.ofNat 32 (hdrSeq rd)
    regions := Vector.ofFn (fun g : Fin 8 =>
      { base := ckptBase desc g
        pages := if desc[g.val].present then desc[g.val].ckptPages else 0
        cred := credWord keys g })
    vendorKeys := [] }

/-! ## Checks 3 to 8 of Table PLT-5 -/

/-- Check 3: stepping, ladle and format rows of Table PLT-4. -/
def check3 (rd : Rd) : Bool :=
  decide (rdLe rd 0x14 2 ≤ 0x0B00) && decide (0x0B00 ≤ rdLe rd 0x16 2) && decide (rdLe rd 0x18 2 ≤ 0x0201) &&
    decide (rd 5 = 2)

/-- Two sections overlap. -/
def overlap (x y : Section) : Bool := decide (x.off < y.off + y.len) && decide (y.off < x.off + x.len)

/-- No two entries of a list are related. -/
def noPair {α : Type} (p : α → α → Bool) : List α → Bool
  | [] => true
  | x :: xs => xs.all (fun y => !p x y) && noPair p xs

/-- The length that a section's type asks for. -/
def secLenOk (rd : Rd) (x : Section) : Bool :=
  if x.ty = tyVendorRdg then decide (x.len = 16 + 16 * 384 + 64) && decide (rdLe rd (x.off + 8) 4 = 384)
  else if x.ty = tyVendorBur then decide (x.len = 16 + 16 * 512 + 64) && decide (rdLe rd (x.off + 8) 4 = 512)
  else if x.ty = tyCustRdg then decide (x.len = 16 + 16 * 128)
  else if x.ty = tyCustBur then decide (x.len = 16 + 16 * 512)
  else if x.ty = tyOpk then decide (x.len = 64)
  else if x.ty = tyGables then decide (x.len = 8 + 8 * 128)
  else if x.ty = tyKeys then (plateKeys rd).isSome
  else if x.ty = tyShadow then decide (x.len % 8 = 0)
  else if x.ty = tyProfiles then decide (x.len = 24)
  else if x.ty = tyRecovery || x.ty = tyKeyRoll then decide (x.len = 32)
  else if x.ty = tyImages then (plateImages rd).isSome
  else true

/-- The reserved bytes of a section are zero (R277): those of Tables PLT-2 and PLT-3, the low byte of a vendor VER, and
bytes 14 and 15 of each Burin word (R236). -/
def secReservedOk (rd : Rd) (x : Section) : Bool :=
  let burWords := (List.range 512).all (fun k => rdZero rd (x.off + 16 + 16 * k + 14) 2)
  if x.ty = tyVendorRdg then rdZero rd x.off 1 && rdZero rd (x.off + 12) 4
  else if x.ty = tyVendorBur then rdZero rd x.off 1 && rdZero rd (x.off + 12) 4 && burWords
  else if x.ty = tyCustRdg then rdZero rd (x.off + 2) 14
  else if x.ty = tyCustBur then rdZero rd (x.off + 2) 14 && burWords
  else if x.ty = tyGables then
    rdZero rd (x.off + 3) 1 && (List.range 8).all (fun g =>
      let a := x.off + 8 + 128 * g
      decide ((rd a).toNat < 64) && rdZero rd (a + 0x61) 31)
  else true

/-- A bank's state that the RUN table gives at cold start (R113). -/
def runBank (c : Cfg) (b : BankNo) : DomState := (domEntry c.profiles[0] (dBK b)).getD .off

/-- A bank is ON under the slot: by the RUN table, or, without a table, always (notes/assumptions/24.md). -/
def bankRuns (rd : Rd) (c : Cfg) (b : BankNo) : Bool :=
  match secFind rd tyProfiles with
  | none => true
  | some _ => decide (runBank c b = .on)

/-- An IMAGES record lies inside banks that run and that some gable owns. -/
def imageOk (rd : Rd) (c : Cfg) (r : Nat × List Byte) : Bool :=
  decide (r.1 + r.2.length ≤ 0x200000) &&
    (List.finRange 16).all (fun b =>
      !(decide (0x20000 * b.val < r.1 + r.2.length) && decide (r.1 < 0x20000 * (b.val + 1))) ||
        (bankRuns rd c b && (c.bankOwner b).isSome))

/-- Check 4: structure (R277, R278). -/
def check4 (rd : Rd) (c : Cfg) : Bool :=
  let n := hdrNsec rd
  let secs := dirOf rd
  let has := fun t => (secFind rd t).isSome
  decide (1 ≤ n) && decide (n ≤ 32) && decide (slotLen rd ≤ 0x100000) &&
    decide (rdLe rd 0x0E 2 < 2) && rdZero rd 0x1C 32 &&
    (List.range n).all (fun k => decide (rdLe rd (0x40 + 16 * k + 2) 2 < 2) && rdZero rd (0x40 + 16 * k + 12) 4) &&
    secs.all (fun x => decide (x.off % 16 = 0) && decide (0x40 + 16 * n ≤ x.off) &&
      decide (x.off + x.len ≤ 0x40 + hdrBodyLen rd)) &&
    noPair overlap secs && noPair (fun x y => decide (x.ty = y.ty)) secs &&
    has tyVendorRdg && has tyVendorBur && has tyOpk && has tyGables && has tyShadow &&
    (c.domScheme || has tyProfiles) &&
    secs.all (fun x => (decide (1 ≤ x.ty) && decide (x.ty ≤ 12)) || x.opt) &&
    secs.all (fun x => secLenOk rd x && secReservedOk rd x) &&
    secs.all (fun x => x.ty = tyImages || decide (x.off < secOff rd tyImages) || !has tyImages) &&
    decide (vendorKeyId rd tyVendorRdg ≤ 3) && decide (vendorKeyId rd tyVendorBur ≤ 3) &&
    (shadowPairs rd).all (fun x => (shadowReg x.1).isSome) &&
    ((plateImages rd).getD []).all (fun r => imageOk rd c r)

/-- Check 5 for a vendor section (R279): the key that KEY_ID names has the hash in mask ROM and an intact revocation fuse,
and signed everything before the signature. -/
def vendorSigOk (rd : Rd) (keys : List VendorKey) (ty : Nat) : Bool :=
  match secFind rd ty, keys[vendorKeyId rd ty]? with
  | some x, some k => k.intact && decide (sha256 k.key = k.hash) &&
      ecdsaOk k.key (rdBytes rd x.off (x.len - 64)) (rdBytes rd (x.off + (x.len - 64)) 64)
  | _, _ => false

/-- Check 5: both vendor sections. -/
def vendorOk (rd : Rd) (keys : List VendorKey) : Bool :=
  vendorSigOk rd keys tyVendorRdg && vendorSigOk rd keys tyVendorBur

/-- The operator signature (R279): over slot bytes 0x00 to 0x40 + BODY_LEN - 1, with the OPK section's key. -/
def operatorOk (rd : Rd) : Bool :=
  let n := 0x40 + hdrBodyLen rd
  ecdsaOk (rdBytes rd (secOff rd tyOpk) 64) (rdBytes rd 0 n) (rdBytes rd n 64)

/-- The SHA-256 of the operator key. -/
def opkHash (rd : Rd) : List Byte := sha256 (rdBytes rd (secOff rd tyOpk) 64)

/-- Check 6 besides the signature: the key is the enrolled one, or none is enrolled (R279, R281). -/
def opkOk (rd : Rd) (root : Option RootCopy) : Bool :=
  match root with
  | none => true
  | some r => decide (opkHash rd = r.opkHash)

/-- Check 7: the floors (R280). -/
def floorsOk (rd : Rd) (root : Option RootCopy) : Bool :=
  match root with
  | none => true
  | some r => decide (r.arbPlate ≤ hdrSecVer rd) && decide (r.arbRdg ≤ vendorSecVer rd tyVendorRdg) &&
      decide (r.arbBur ≤ vendorSecVer rd tyVendorBur)

/-- A customer section fits the vendor section loaded with it. -/
def custAbiOk (rd : Rd) (ty vty : Nat) : Bool :=
  match secFind rd ty with
  | none => true
  | some x => decide ((rd x.off).toNat = verMajor (vendorVer rd vty)) &&
      decide ((rd (x.off + 1)).toNat ≤ verMinor (vendorVer rd vty))

/-- A firmware ABI of major 1 and minor 0. -/
def fwAbiOk (v : Nat) : Bool := decide (v = 0x100)

/-- Check 8: microcode and ABI rows of Table PLT-4. -/
def check8 (rd : Rd) : Bool :=
  decide (verMajor (vendorVer rd tyVendorRdg) = 3) && decide (verMajor (vendorVer rd tyVendorBur) = 2) &&
    custAbiOk rd tyCustRdg tyVendorRdg && custAbiOk rd tyCustBur tyVendorBur && fwAbiOk (rdLe rd 0x1A 2) &&
    fwAbiOk (rdLe rd (secOff rd tyGables + 4) 4)

/-! ## Check 9: microwords (Table RDG-6, Table BUR-3) -/

def rdgNxt (w : BitVec 128) : Nat := ubits w 127 124
def rdgCond (w : BitVec 128) : Nat := ubits w 123 118
def rdgTarget (w : BitVec 128) : Nat := ubits w 117 109
def rdgDom (w : BitVec 128) : BitVec 48 := BitVec.ofNat 48 (ubits w 108 61)
def rdgPadh (w : BitVec 128) : Nat := ubits w 60 53
def rdgClkg (w : BitVec 128) : Nat := ubits w 52 37
def rdgVreq (w : BitVec 128) : Bool := w.getLsbD 36
def rdgVcode (w : BitVec 128) : Nat := ubits w 35 28
def rdgTmr (w : BitVec 128) : Nat := ubits w 27 16
def rdgEvt (w : BitVec 128) : Nat := ubits w 15 10
def rdgCnt (w : BitVec 128) : Nat := ubits w 9 4

/-- The EVT codes that Table RDG-1 allows in the customer region. -/
def evtCustomer (e : Nat) : Bool :=
  e = 0 || e = 3 || e = 4 || e = 6 || e = 7 || 0x20 ≤ e

/-- A two-bit entry of a field is 0b11. -/
def hasThree (count v : Nat) : Bool := (List.range count).any (fun k => decide (v / 4 ^ k % 4 = 3))

/-- The first check of Table RDG-6 that the word at an address fails; 0 when it fails none. Words 0x1FE and 0x1FF hold the
entry table, to which check 12 alone applies. -/
def rdgCheck (a : Nat) (w : BitVec 128) : Nat :=
  let cust := 0x180 ≤ a
  let nxt := rdgNxt w
  let t := rdgTarget w
  let e := rdgEvt w
  if 0x1FE ≤ a then
    if (List.range 16).any (fun k => let b := ubits w (8 * k + 7) (8 * k); decide (0x80 ≤ b) && decide (0x7E ≤ b % 128))
    then 12 else 0
  else if ubits w 3 0 ≠ 0 then 1
  else if 9 ≤ nxt then 2
  else if hasThree 4 (rdgPadh w) || hasThree 8 (rdgClkg w) then 3
  else if (decide (0x6F ≤ rdgVcode w) && decide (rdgVcode w ≤ 0xFE)) || (!rdgVreq w && rdgVcode w ≠ 0) then 4
  else if (decide (0x13 ≤ e) && decide (e ≤ 0x1F)) || (cust && !evtCustomer e) then 5
  else if 0x22 ≤ rdgCnt w then 6
  else if nxt = 7 && (t / 16 % 16 ≠ 0 || (decide (256 ≤ t) && t % 16 ≠ 0)) then 7
  else if a = 7 && nxt ≠ 8 then 8
  else if cust && (nxt = 1 || nxt = 2 || nxt = 3 || nxt = 4 || nxt = 6) && (decide (t < 0x180) || decide (0x1FD < t)) then 9
  else if cust && (nxt = 8 || (rdgDom w).toNat % 16 ≠ 0 || (rdgDom w).toNat / 4 ^ 6 % 4 ≠ 0) then 10
  else if a = 0x1FD && nxt ≠ 1 && nxt ≠ 5 && nxt ≠ 7 then 11
  else 0

/-- The lowest failing word of a range of Ridge's store, with its cause. -/
def rdgFirstBad (st : Store) (first count : Nat) : Option (Nat × Nat) :=
  (List.range count).findSome? (fun k =>
    let c := rdgCheck (first + k) (st.word (first + k))
    if c = 0 then none else some (first + k, c))

/-- Check 9. A slot without CUST_RDG has no customer words to check: its zero words are those that Table PLT-2 gives it
(notes/assumptions/29.md). -/
def check9 (rd : Rd) : Bool :=
  (rdgFirstBad (plateVendorRdg rd) 0 384).isNone &&
    ((secFind rd tyCustRdg).isNone || (rdgFirstBad (plateCustRdg rd) 384 128).isNone) &&
    (burFirstBad (plateVendorBur rd) 0 512).isNone && (burFirstBad (plateCustBur rd) 512 512).isNone

/-! ## Check 10: configuration -/

/-- Masks that share no bit with another. -/
def disjoint (ms : List Nat) : Bool := noPair (fun x y => decide (x &&& y ≠ 0)) ms

/-- The descriptors of the gables that are present. -/
def Cfg.present (c : Cfg) : List Desc := c.desc.toList.filter (fun d => d.present)

/-- R19. -/
def cfgOwners (c : Cfg) : Bool :=
  let p := c.present
  disjoint (c.thtBanks.toNat :: p.map (fun d => d.banks.toNat)) && disjoint (p.map (fun d => d.engines.toNat)) &&
    disjoint (p.map (fun d => d.groups.toNat)) && disjoint (p.map (fun d => d.wakes.toNat)) &&
    disjoint (p.map (fun d => d.ains.toNat))

/-- R312, and the line-count and checkpoint-page totals. -/
def cfgRanges (c : Cfg) : Bool :=
  decide (c.linkRsv ≤ 1000) && decide (c.quantum ≠ 0) &&
    (List.finRange 8).all (fun g =>
      let d := c.desc[g.val]
      !d.present ||
        (decide (d.urg ≤ 3) && decide (d.budget ≤ 1000) && decide (d.ckptPages % 2 = 0) && decide (d.ckptPages ≤ 960) &&
          decide (d.lines ≤ 48) && (decide (d.boostMax ≠ 0) || (c.creds[g.val]).isNone) &&
          decide (d.policy.toNat < 2) && (decide (d.policy ≠ 1) || decide (d.limit ≠ 0)))) &&
    decide ((c.present.map (fun d => d.lines)).sum ≤ 48) &&
    decide ((c.present.map (fun d => d.ckptPages)).sum ≤ 960)

/-- R206, R212, R214. -/
def cfgBudgets (c : Cfg) : Bool :=
  decide (c.linkRsv + (c.present.map (fun d => d.budget)).sum ≤ 1000) &&
    (List.finRange 8).all (fun g => (c.creds[g.val]).isNone || (c.desc[g.val]).evtEn.getLsbD 27) &&
    decide ((((List.finRange 8).filter (fun g => (c.creds[g.val]).isSome)).map (fun g => (c.desc[g.val]).boostMax)).sum ≤ 800)

/-- A bank is failed or designated to Thatch. -/
def barred (c : Cfg) (failed : BitVec 16) (b : BankNo) : Bool := failed.getLsbD b.val || c.thtBanks.getLsbD b.val

/-- R203: a valid shared window. -/
def cfgWindow (c : Cfg) (failed : BitVec 16) (w0 w1 : Word) : Bool :=
  !w0.getLsbD 3 ||
    (decide (bitsOf w0 31 12 ≤ bitsOf w1 31 12) && decide (bitsOf w0 2 0 ≠ 0) && decide (bitsOf w1 31 12 < 0x200) &&
      (List.finRange 16).all (fun b => !barred c failed b ||
        decide (bitsOf w1 31 12 < 32 * b.val) || decide (32 * b.val + 32 ≤ bitsOf w0 31 12)))

/-- R203, R144, R152 for each gable. -/
def cfgWindows (c : Cfg) (failed : BitVec 16) : Bool :=
  (List.finRange 8).all (fun g =>
    let d := c.desc[g.val]
    !d.present ||
      ((List.finRange 4).all (fun k => cfgWindow c failed (d.win[2 * k.val]) (d.win[2 * k.val + 1])) &&
        decide (d.trapBase.toNat % 256 = 0) && c.mayRange g .x d.trapBase.toNat 256 &&
        decide (d.entry.toNat % (if d.stipple then 2 else 4) = 0) && c.may g .x d.entry.toNat))

/-- The bank a circular window's ring lies in, of those with a length. -/
def cfgRings (c : Cfg) (failed : BitVec 16) : Bool :=
  (List.finRange 8).all (fun n =>
    let w := c.resetWord (.bnkCwin n)
    let base := 8 * bitsOf w 17 0
    let len := 8 * bitsOf w 31 18
    decide (len = 0) || (List.finRange 16).all (fun b => !failed.getLsbD b.val ||
      decide (base + len ≤ 0x20000 * b.val) || decide (0x20000 * (b.val + 1) ≤ base)))

/-- R182. -/
def cfgFailed (c : Cfg) (failed : BitVec 16) : Bool :=
  (List.finRange 16).all (fun b => !failed.getLsbD b.val ||
    (!c.thtBanks.getLsbD b.val && (c.bankOwner b).isNone &&
      (List.finRange 4).all (fun k => decide (domEntry (c.profiles[k.val]) (dBK b) ≠ some .on)))) && cfgRings c failed

/-- LINKPLL is referenced to EXTREF as a slot check reads it (R311). -/
def cfgOnExtref (c : Cfg) : Bool :=
  let p := fun (n : Port) => c.resetWord (.purPcfg n)
  (List.finRange 2).any (fun n => (p n).getLsbD 0) &&
    (List.finRange 2).all (fun n => !(p n).getLsbD 0 || (p n).getLsbD 5)

/-- The states that a profile table gives domains 0 to 7 under Table PWR-3. -/
def cfgLimits (c : Cfg) (k : Fin 4) : Bool :=
  let f := c.profiles[k.val]
  let at_ := fun (d : Dom) => domEntry f d
  let low := fun (d : Dom) => at_ d = some .ret || at_ d = some .off
  let banksLow := (List.finRange 16).all (fun b => at_ (dBK b) ≠ some .on)
  if k.val < 2 then at_ dCORE = some .on && at_ dCACHE = some .on && at_ dOSCF = some .on
  else if k.val = 2 then
    at_ dCORE = some .ret && at_ dCACHE = some .ret && low dOSCF && (low dLINK || cfgOnExtref c) && low dPOOL && low dBUR &&
      low dPRF && low dSENS && banksLow
  else
    at_ dCORE = some .ret && low dCACHE && at_ dOSCF = some .off && low dLINK && low dPOOL && low dBUR && low dPRF && low dSENS &&
      banksLow

/-- A table keeps Table PWR-2 (R89); a bank entry of 0 means OFF in RUN and RUN's state in IDLE. -/
def cfgDeps (c : Cfg) (k : Fin 4) : Bool :=
  let f := c.profiles[k.val]
  let on := fun (d : Dom) => domEntry f d = some .on
  let bankOn := fun (b : BankNo) => on (dBK b) || (k.val = 1 && domEntry f (dBK b) = none && runBank c b = .on)
  (!on dBUR || on dOSCF) && (!on dSENS || on dOSCF) && (!on dLINK || on dOSCF || cfgOnExtref c) &&
    (!on dPOOL || (List.finRange 16).all (fun b => !c.thtBanks.getLsbD b.val || bankOn b))

/-- R89 and R113 for the tables of a slot that has the section, under either scheme; and Table PWR-3 under the Profile
scheme, whose global states it bounds. -/
def cfgProfiles (rd : Rd) (c : Cfg) : Bool :=
  (secFind rd tyProfiles).isNone || (List.finRange 4).all (fun k =>
    (List.range 8).all (fun d => decide ((c.profiles[k.val]).toNat / 4 ^ d % 4 ≠ 0)) && (c.domScheme || cfgLimits c k) &&
      cfgDeps c k)

/-- A pool of the Thatch layout: valid, base, count, log2 of its size, OWNED, FALLBACK. -/
structure PoolCfg where
  valid : Bool
  base  : Nat
  count : Nat
  log   : Nat
  owned : Bool
  fall  : Bool
  deriving DecidableEq, Repr

def poolCfg (c : Cfg) (p : Fin 4) : PoolCfg :=
  let w0 := c.resetWord (.thtPool0 p)
  let w1 := c.resetWord (.thtPool1 p)
  { valid := w1.getLsbD 22, base := bitsOf w0 20 0, count := bitsOf w1 15 0, log := bitsOf w1 19 16, owned := w1.getLsbD 20
    fall := w1.getLsbD 21 }

/-- The next pool. -/
def nextPool (c : Cfg) (p : Fin 4) : Option PoolCfg := if h : p.val + 1 < 4 then some (poolCfg c ⟨p.val + 1, h⟩) else none

/-- R220 for one pool. -/
def cfgPool (c : Cfg) (p : Fin 4) : Bool :=
  let q := poolCfg c p
  let graded := (c.resetWord .thtCfg).getLsbD 0
  let stop := q.base + q.count * 2 ^ q.log
  !q.valid ||
    (decide (6 ≤ q.log) && decide (q.log ≤ 12) && decide (1 ≤ q.count) && decide (q.count ≤ 32768) &&
      decide (q.base % 2 ^ q.log = 0) && decide (stop ≤ 0x200000) &&
      (List.finRange 16).all (fun b => c.thtBanks.getLsbD b.val || decide (stop ≤ 0x20000 * b.val) ||
        decide (0x20000 * (b.val + 1) ≤ q.base)) &&
      (List.finRange 4).all (fun r => let o := poolCfg c r
        decide (r ≤ p) || !o.valid || decide (stop ≤ o.base) || decide (o.base + o.count * 2 ^ o.log ≤ q.base)) &&
      (if graded then
        (List.finRange 4).all (fun r => !decide (r < p) || ((poolCfg c r).valid && decide ((poolCfg c r).log < q.log))) &&
          (!q.fall || (nextPool c p).elim false (fun o => o.valid && decide (o.owned = q.owned)))
      else decide (p = 0)))

/-- R220, R234, R262. -/
def cfgThatch (c : Cfg) : Bool :=
  let t := c.resetWord .thtCfg
  let pcfg := fun (n : Port) => c.resetWord (.purPcfg n)
  (List.finRange 4).all (fun p => cfgPool c p) &&
    (if t.getLsbD 3 then
      let p : Fin 4 := ⟨bitsOf t 2 1 % 4, by omega⟩
      let q := poolCfg c p
      let cred := fun (n : Port) => bitsOf (pcfg n) 15 8
      q.valid && q.owned && decide (9 ≤ q.log) &&
        decide (cred 0 + cred 1 + 2 ≤ bitsOf (c.resetWord (.thtLinkq p)) 15 0) &&
        (List.finRange 2).all (fun n => decide (1 ≤ cred n) && decide (cred n ≤ 64))
    else (List.finRange 2).all (fun n => !(pcfg n).getLsbD 0))

/-- The mapped pads of the engines as numbers: group and pin. -/
def cfgPads (c : Cfg) : List (EngineNo × Nat) :=
  (List.finRange 4).flatMap (fun n => (List.range 8).filterMap (fun k =>
    let w := c.resetWord (if k < 4 then .burPinmap0 n else .burPinmap1 n)
    let b := bitsOf w (8 * (k % 4) + 7) (8 * (k % 4))
    if 128 ≤ b then some (n, b % 64) else none))

/-- R235. -/
def cfgPins (c : Cfg) : Bool :=
  let ps := cfgPads c
  noPair (fun x y => decide (x.2 = y.2)) ps &&
    ps.all (fun x =>
      let p : PadGroup := ⟨x.2 % 4, by omega⟩
      !(c.resetWord (.pwrGpioOe p)).getLsbD (x.2 / 4) &&
        (match c.engineOwner x.1 with
        | none => false
        | some g => (c.desc[g.val]).groups.getLsbD p.val))

/-- A code of an owner field that names a gable, Thatch where `tht` lets it, or none. -/
def ownerCode (tht : Bool) (v : Nat) : Bool := v < 8 || (tht && v = 8) || v = 0xF

/-- R284: no SHADOW value puts a reserved encoding or a value out of range into a Plate field. -/
def shadowValueOk (r : Reg) (v : Word) : Bool :=
  r.fields.all (fun f => !f.plate || (decide (f.vlo ≤ bitsOf v f.hi f.lo) && decide (bitsOf v f.hi f.lo ≤ f.vhi))) &&
    (match r with
    | .bnkOwnLo | .bnkOwnHi => (List.range 8).all (fun k => ownerCode true (bitsOf v (4 * k + 3) (4 * k)))
    | .bnkCwinOwn | .snsAinOwn => (List.range 8).all (fun k => ownerCode false (bitsOf v (4 * k + 3) (4 * k)))
    | _ => true)

/-- Check 10. -/
def check10 (rd : Rd) (c : Cfg) (failed : BitVec 16) : Bool :=
  cfgOwners c && cfgRanges c && cfgBudgets c && cfgWindows c failed && cfgFailed c failed && cfgProfiles rd c && cfgThatch c &&
    cfgPins c && thrOrdered (c.resetWord .gutThr) &&
    (shadowPairs rd).all (fun x => (shadowReg x.1).elim true (fun r => shadowValueOk r x.2))

/-! ## Causes in order (Table PLT-5) -/

/-- The first failing cause of a list of checks; 0 when all pass. -/
def firstCause : List (Bool × Nat) → Nat
  | [] => 0
  | (ok, cause) :: rest => if ok then firstCause rest else cause

/-- Checks 3 to 8 on a slot's or an image's bytes. -/
def checks3to8 (rd : Rd) (c : Cfg) (keys : List VendorKey) (root : Option RootCopy) : List (Bool × Nat) :=
  [(check3 rd, 3), (check4 rd c, 4), (vendorOk rd keys, 5), (operatorOk rd && opkOk rd root, 6), (floorsOk rd root, 7),
   (check8 rd, 8)]

/-- A slot is present (R276). -/
def slotPresent (n : Nvm) (slotB : Bool) : Bool :=
  let rd := nvmSlot n slotB
  (!slotB || !n.sfdp || decide (0x200000 ≤ n.density)) && hdrMagicOk rd && hdrCrcOk rd &&
    decide (hdrSeq rd ≠ 0) && decide (hdrSeq rd ≠ 0xFFFFFFFF)

/-- The cause of a slot's first failing check; 0 when it passes. -/
def slotCause (n : Nvm) (slotB readOk : Bool) (keys : List VendorKey) (root : Option RootCopy) (failed : BitVec 16) : Nat :=
  let rd := nvmSlot n slotB
  let c := plateCfg rd slotB
  firstCause ([(slotPresent n slotB, 1), (readOk, 2)] ++ checks3to8 rd c keys root ++
    [(check9 rd, 9), (check10 rd c failed, 10)])

end Sys2Proof.Machine
end

