-- ==== Sys2Proof/Machine/Plate.lean ====
section
/-! DEFINITION. Checkpoints and the Plate programmer at run time (spec/15 R288, R289, R292). -/

namespace Sys2Proof.Machine

/-! ## Checkpoints (R292) -/

/-- A half of a checkpoint region as its header describes it. -/
structure Half where
  gen   : Nat
  len   : Nat
  valid : Bool
  deriving DecidableEq, Repr

/-- First page of a half. -/
def halfPage (r : Region) (h : Bool) : Nat := r.base + if h then r.pages / 2 else 0

/-- The largest LEN that a region's half holds. -/
def halfMax (r : Region) : Nat := 32 * r.pages - 16

/-- Read a half of a region from the Proof store (R292). -/
def Nonvolatile.half (n : Nonvolatile) (r : Region) (h : Bool) : Half :=
  let a := 64 * halfPage r h
  let word := fun o => leNat (memGetAll 0 n.proof (a + o) 4)
  let len := word 4
  let fits := decide (1 ≤ len) && decide (len ≤ halfMax r) && decide (r.pages ≠ 0)
  { gen := word 0, len := len
    valid := fits && decide ((crc32 (memGetAll 0 n.proof (a + 16) (if fits then len else 0))).toNat = word 8) }

/-- The half that holds the current checkpoint. -/
def Nonvolatile.current (n : Nonvolatile) (r : Region) : Option Bool :=
  let a := n.half r false
  let b := n.half r true
  if a.valid && b.valid then some (decide (a.gen < b.gen))
  else if a.valid then some false
  else if b.valid then some true
  else none

/-- The half that a new checkpoint goes into, and its GEN. -/
def Nonvolatile.target (n : Nonvolatile) (r : Region) : Bool × Nat :=
  match n.current r with
  | none => (false, 1)
  | some h => (!h, ((n.half r h).gen + 1) % 2 ^ 32)

/-- A range of bank addresses lies in banks that are ON. -/
def State.rangeOn (s : State) (a count : Nat) : Bool :=
  (List.finRange 16).all (fun b =>
    decide (a + count ≤ 0x20000 * b.val) || decide (0x20000 * (b.val + 1) ≤ a) || s.bankOn b)

/-- The code of the first check that a CHECKPOINT fails. -/
def State.ckptFails (s : State) (g : Gable) (src len : Nat) : Option Byte :=
  let r := s.cfg.regions[g.val]
  firstFail
    [(decide (r.pages = 0), E_QUOTA),
     (decide (len = 0) || decide (halfMax r < len), E_RANGE),
     (decide (src % 4 ≠ 0), E_ALIGN),
     (!s.cfg.mayRange g .r src len, E_WINDOW),
     (!s.rangeOn src len, E_DLOST)]

/-- Write one page of the array. -/
def State.putPage (s : State) (p : Nat) (data : List Byte) : State := s.setNv (fun n => n.putPage p data)

/-- A page's 64 bytes; those past the data are not stated, and are free. -/
def State.padPage (s : State) (data : List Byte) : List Byte × State :=
  if data.length < 64 then
    let (fill, s) := s.freeBytes 16
    ((data ++ fill).take 64, s)
  else (data, s)

/-- Copy the data pages of a checkpoint, in ascending order: the data so far, whether an uncorrectable word ended the copy,
and the state. Page `k` of the half holds data bytes from 64 k - 16 on. -/
def State.ckptPages (s : State) (page src len : Nat) : Nat → List Byte × Bool × State
  | 0 => ([], false, s)
  | n + 1 =>
    match s.ckptPages page src len n with
    | (data, true, s) => (data, true, s)
    | (data, false, s) =>
      let o := 64 * (n + 1) - 16
      let count := min 64 (len - o)
      let (bs, bad, s) := s.bankReadMany reqRidge (src + o) count
      if bad then (data, true, s)
      else
        let (pg, s) := s.padPage bs
        (data ++ bs, false, s.putPage (page + n + 1) pg)

/-- The copy of a checkpoint that passed its checks (R292): data pages, then the page with the header. -/
def State.ckptCopy (s : State) (g : Gable) (src len : Nat) : Byte × State :=
  let s := s.cleanGable g
  let r := s.cfg.regions[g.val]
  let (h, gen) := s.nv.target r
  let page := halfPage r h
  match s.ckptPages page src len ((len + 16 + 63) / 64 - 1) with
  | (_, true, s) => (E_RANGE, s)
  | (tail, false, s) =>
    let (head, bad, s) := s.bankReadMany reqRidge src (min 48 len)
    if bad then (E_RANGE, s)
    else
      let crc := (crc32 (head ++ tail)).toNat
      let (pg, s) := s.padPage (leBytes 4 gen ++ leBytes 4 len ++ leBytes 4 crc ++ leBytes 4 0 ++ head)
      (E_OK, s.putPage page pg)

/-- CHECKPOINT by a gable, whole: its code and the state. -/
def State.checkpoint (s : State) (g : Gable) : Byte × State :=
  let src := (s.reg (.rdgArg0 g)).toNat
  let len := (s.reg (.rdgArg1 g)).toNat
  match s.ckptFails g src len with
  | some c => (c, s)
  | none => s.ckptCopy g src len

/-- CHECKPOINT: service 0x04. PRF is back in its former state when the call is done. -/
def execCheckpoint (g : Gable) (s : State) : Host.Outcome State Fault Refusal :=
  done s (s.when (s.serviceBegins g 0x04) (fun s =>
    let (c, s) := s.checkpoint g
    s.endService g c))

/-! ## Updating the Plate (R288, R289) -/

/-- The code of the first check that a PLATE_UPDATE fails. -/
def State.updateFails (s : State) (g : Gable) (src len : Nat) (image : List Byte) : Option Byte :=
  let rd := imageRd image
  firstFail
    [(s.nv.upd.isSome, E_BUSY),
     (decide (len < 0x80) || decide (0x100000 < len), E_RANGE),
     (decide (src % 4 ≠ 0), E_ALIGN),
     (!s.cfg.mayRange g .r src len, E_WINDOW),
     (!hdrMagicOk rd || !hdrCrcOk rd || decide (hdrSeq rd ≤ s.cfg.seq.toNat), E_VERSION),
     (s.nv.nvm.sfdp && decide (s.nv.nvm.density < 0x200000), E_RANGE)]

/-- Erase a range of the NVM. -/
def nvmErase (n : Nvm) (a count : Nat) : Nvm :=
  { n with bytes := n.bytes.filter (fun c => decide (c.1 < a) || decide (a + count ≤ c.1)) }

/-- Erase the 4 KiB sectors of a slot that an image covers. -/
def imageErase (n : Nvm) (slotB : Bool) (image : List Byte) : Nvm :=
  nvmErase n (slotBase slotB) ((image.length + 0xFFF) / 0x1000 * 0x1000)

/-- PLATE_UPDATE by a caller: its code and the state, in which the programmer has started: the sectors are erased, so
that a cut from now on finds the slot absent (notes/assumptions/30.md). While FRC is not qualified or gate NVM is off,
the NVM interface does not start (spec/04 R66), and the sectors are erased with the work that PLATE_PROGRAM_DONE tells.
-/
def State.plateUpdate (s : State) (g : Gable) : Byte × State :=
  let src := (s.reg (.rdgArg0 g)).toNat
  let len := (s.reg (.rdgArg1 g)).toNat
  let t := s.cleanGable g
  let r := t.bankReadMany reqRidge src (if src + len ≤ 0x200000 then len else 0)
  match s.updateFails g src len r.1 with
  | some c => (c, s)
  | none =>
    let s := r.2.2
    let n := if s.gateRuns 9 then imageErase s.nv.nvm (!s.cfg.slotB) r.1 else s.nv.nvm
    (E_OK, (s.setNv (fun m => { m with nvm := n, upd := some { slotB := !s.cfg.slotB, image := r.1 } })).setField .pltUpdStat 1 0 1)

/-- PLATE_UPDATE: service 0x08. -/
def execPlateUpdate (g : Gable) (s : State) : Host.Outcome State Fault Refusal :=
  done s (s.when (s.serviceBegins g 0x08) (fun s =>
    let (c, s) := s.plateUpdate g
    s.endService g c))

/-- Program bytes into erased NVM. -/
def nvmProgram (n : Nvm) (a : Nat) (bs : List Byte) : Nvm := { n with bytes := memPutAll 0xFF n.bytes a bs }

/-- The code that PLT_UPD_STAT shows for a cause of Table PLT-5 (R289). -/
def updateCode (cause : Nat) : Byte :=
  if cause = 0 then E_OK
  else if cause = 4 then E_RANGE
  else if cause = 5 || cause = 6 then E_AUTH
  else E_VERSION

/-- The programmer has worked through R289. After an NVM operation that did not complete, what the pages but the first
hold is not stated, and is free; the first page is erased. -/
def State.programDone (s : State) (u : Update) (nvmOk : Bool) : State :=
  let base := slotBase u.slotB
  let rd := imageRd u.image
  let erased := imageErase s.nv.nvm u.slotB u.image
  let cause := firstCause (checks3to8 rd (plateCfg rd u.slotB) s.cfg.vendorKeys s.rootCopy)
  let code := if nvmOk then updateCode cause else E_TIMEOUT
  let (later, s) := if nvmOk then (u.image.drop 256, s) else s.freeBytes ((u.image.length - 256) / 4)
  let n1 := nvmProgram erased (base + 256) later
  let n2 := if code = E_OK then nvmProgram n1 base (u.image.take 256) else n1
  let s := s.setNv (fun n => { n with nvm := n2, upd := none })
  s.setReg .pltUpdStat (BitVec.ofNat 32 (3 + 0x100 * code.toNat + 0x10000))

/-- PLATE_PROGRAM_DONE, while the NVM interface runs: `nvmOk` tells that every NVM operation completed in its time and
the read-back matched. -/
def execPlateProgramDone (nvmOk : Bool) (s : State) : Host.Outcome State Fault Refusal :=
  done s (s.when (s.gateRuns 9) (fun s => match s.nv.upd with
    | none => s
    | some u => s.programDone u nvmOk))

end Sys2Proof.Machine
end

