-- ==== Sys2Proof/Machine/PurlinLink.lean ====
section
/-! DEFINITION. Purlin's link layer (spec/14): training, loss, link sleep, superframes, credits and the role swap. -/

namespace Sys2Proof.Machine

/-! ## Training (R254) -/

/-- Ordered sets of one training stage. -/
def stageSets : Nat := 8

/-- Rank of a role preference: tail, either, head. -/
def roleRank (role : BitVec 2) : Nat :=
  match role.toNat with
  | 0 => 0
  | 1 => 2
  | _ => 1

/-- CLK_STAT.LINKPLL_LOCK. -/
def State.pllLocked (s : State) : Bool := s.bitOf .clkStat 5

/-- A port trains: LINK is ON, the port may run, and LINKPLL is locked. -/
def State.trains (s : State) (p : Port) : Bool :=
  s.portOn p && s.pllLocked && decide ((s.port p).link = .training)

/-- A port sends eight TS2 with a ticket. -/
def State.sendTs2 (s : State) (p : Port) (tkt : BitVec 16) : State :=
  s.setPort p (fun q => q.transmit (List.replicate stageSets (.ts2 (s.ownRate p) (s.ownRole p) tkt p)) 0)

/-- The count of consecutive TS1 is broken before it was complete (R254). -/
def PortState.breakTs1 (q : PortState) : PortState := { q with ts1 := if q.ts1 < stageSets then 0 else q.ts1 }

/-- TS1: after eight consecutive ones the port sends its TS2. Its RATE and ticket are resolved from TS2. -/
def execTs1 (p : Port) (_rate role : BitVec 2) (_tkt : BitVec 16) (s : State) : Host.Outcome State Fault Refusal :=
  done s (s.when (s.trains p && decide ((s.port p).ts1 < stageSets)) (fun s =>
    let s := s.setPort p (fun q => { q with ts1 := q.ts1 + 1, peerRole := role })
    if (s.port p).ts1 = stageSets then (s.setPort p (fun q => { q with ts2 := 0 })).sendTs2 p (s.port p).ticket else s))

/-- Roles and rate are resolved (R254). Equal preferences with equal tickets draw again, the warden the ticket `own`. -/
def State.resolveRoles (s : State) (p : Port) (rate role : BitVec 2) (tkt own : BitVec 16) : State :=
  let mine := roleRank (s.ownRole p)
  let peer := roleRank role
  let q := s.port p
  if mine = peer && q.ticket = tkt then
    (s.setPort p (fun q => { q with ts2 := 0, ticket := own })).sendTs2 p own
  else
    let head := !s.bare && (decide (peer < mine) || (decide (mine = peer) && decide (tkt < q.ticket)))
    let agreed := if rate < s.ownRate p then rate else s.ownRate p
    let s := s.setPort p (fun q => { q with head := head, rate := agreed, peerRole := role })
    if agreed = 0 then s.setPort p (fun q => { q with ts2 := 2 * stageSets, wire := [], line := [] })
    else (s.clearReg .clkStat (bitMask 5)).sendTs2 p q.ticket

/-- TS2: the eighth resolves roles and rate, and above 0.5 Gbit/s eight more follow at the agreed rate once LINKPLL has
locked again. Before eight consecutive TS1 it breaks their run. -/
def execTs2 (p : Port) (rate role : BitVec 2) (tkt own : BitVec 16) (s : State) : Host.Outcome State Fault Refusal :=
  done s (s.when (s.trains p) (fun s =>
    if (s.port p).ts1 < stageSets then s.setPort p PortState.breakTs1
    else if (s.port p).ts2 < 2 * stageSets && role ≠ 3 then
      let s := s.setPort p (fun q => { q with ts2 := q.ts2 + 1 })
      if (s.port p).ts2 = stageSets then s.resolveRoles p rate role tkt own else s
    else s))

/-- The last training stage: start-of-frame sets are exchanged. -/
def PortState.framing (q : PortState) : Bool := decide (q.link = .training) && decide (q.ts2 = 2 * stageSets)

/-- LINKPLL_LOCK: LINKPLL has locked to its reference; enabled ports that are down begin to train, and those in training
proceed at their rate. -/
def execLinkpllLock (s : State) : Host.Outcome State Fault Refusal :=
  done s (s.when ((List.finRange 2).any (fun p => s.portOn p && s.pllRef p)) (fun s =>
    (List.finRange 2).foldl (fun (t : State) p => if (t.port p).link = .down then t.train1 p else t)
      (s.orReg .clkStat (bitMask 5))))

/-- The two fixed receive buffers of a port in the BARE state (R274). -/
def bareBuffers : List Nat := [0, 0]

/-- LINK_TRAINED: two start-of-frame sets at the period; the ledger starts. -/
def execLinkTrained (p : Port) (s : State) : Host.Outcome State Fault Refusal :=
  done s (s.when (s.portOn p && (s.port p).framing && decide (2 ≤ (s.port p).sofs)) (fun s =>
    let s := (s.setPort p (fun q => { q with link := .trained, empty := if s.bare then bareBuffers else q.empty })).orReg
      (.purPevt p) (bitMask 0)
    s.ledgerStart p))

/-! ## Loss and sleep (R255, R256) -/

/-- LOSS_OF_LINK. -/
def execLossOfLink (p : Port) (s : State) : Host.Outcome State Fault Refusal :=
  done s (s.when (s.domOn dLINK && decide ((s.port p).link = .trained)) (fun s =>
    let s := (s.orReg (.purPevt p) (bitMask 1)).satField (.purPerr p) 31 24
    let s := (s.closePort p).setPort p (fun q => { q with link := .down, ctl := [], data := [], wire := [], line := [] })
    s.train1 p))

/-- SLP received: the port stops in the same way, with SLP four times, unless a frame is queued, which makes it train
again. -/
def execSlp (p : Port) (s : State) : Host.Outcome State Fault Refusal :=
  done s (s.when (s.portOn p && decide ((s.port p).link = .trained)) (fun s =>
    let s := (s.setPort p PortState.goToSleep).orReg (.purPevt p) (bitMask 4)
    if (s.port p).queued then s.leaveSleep p else s))

/-- R105 requires link sleep: the warden is in, or on its way to, SLEEP or DEEP of the Profile scheme, without the
linked-sleep row of Table PWR-3 and outside a brace storm. -/
def State.sleepDue (s : State) : Bool :=
  let g := s.power.target.getD s.power.gstate
  !s.domainScheme && !s.storm && (g = .sleep || g = .deep) &&
    !(g = .sleep && s.linkOnExtref && decide (s.settled[dLINK.val] = .on))

/-- LINK_SLEEP. -/
def execLinkSleep (p : Port) (s : State) : Host.Outcome State Fault Refusal :=
  done s (s.when
    (s.sleepDue && decide ((s.port p).link = .trained) && !s.portPending p && !(s.port p).queued)
    (fun s => s.setPort p PortState.goToSleep))

/-- LINE_ACTIVITY: a PUR wake; the port trains once LINK is ON (R105, R256). -/
def execLineActivity (p : Port) (s : State) : Host.Outcome State Fault Refusal :=
  done s (s.when (decide ((s.port p).link = .asleep)) (fun s =>
    ((s.setPort p (fun q => { q with act := true })).purWake p).leaveSleep p))

/-! ## Credits (R260, R261, R264) -/

/-- Grant the empty buffers as a new epoch's CUM (R264). -/
def State.reissue (s : State) (p : Port) : State :=
  let free := (s.port p).empty.length - s.portHeld p
  (s.setPort p (fun q =>
    { q with
      epochOut := q.epochOut + 1, cumOut := BitVec.ofNat 16 free, fresh := 0, sinceCred := 0, regrant := false
      ctl := .credit (q.epochOut + 1) (BitVec.ofNat 16 free) :: q.ctl }))

/-- The CREDIT that a superframe's start is due, if any, ahead of the other control frames (R261): none while the books are
frozen, but for a reissue. -/
def State.creditDue (s : State) (p : Port) : State :=
  let q := s.port p
  if q.link ≠ .trained then s
  else if q.regrant then s.reissue p
  else if q.swap ≠ .linked then s
  else if q.fresh ≠ 0 || 63 ≤ q.sinceCred then
    s.setPort p (fun q =>
      let cum := q.cumOut + BitVec.ofNat 16 q.fresh
      { q with cumOut := cum, fresh := 0, sinceCred := 0, ctl := .credit q.epochOut cum :: q.ctl })
  else s.setPort p (fun q => { q with sinceCred := q.sinceCred + 1 })

/-- CREDIT received (R261, R264): the credits held follow CUM; a changed EPOCH is the peer's reissue, which ends a swap
here, and a new tail reissues in turn. -/
def State.creditIn (s : State) (p : Port) (epoch : Byte) (cum : BitVec 16) : State :=
  s.setPort p (fun q =>
    if epoch = q.epochIn then { q with cumIn := cum }
    else
      let q : PortState := { q with epochIn := epoch, cumIn := cum, sentIn := 0 }
      if q.swap = .reissue then { q with swap := .linked, reissued := false, regrant := q.regrant || !q.head } else q)

/-- CREDIT. -/
def execCredit (p : Port) (epoch : Byte) (cum : BitVec 16) (s : State) : Host.Outcome State Fault Refusal :=
  done s (s.when (s.portOn p && decide ((s.port p).link = .trained)) (fun s => s.creditIn p epoch cum))

/-! ## Superframes (R257) -/

/-- Characters of a superframe. -/
def PortState.capacity (q : PortState) : Nat := 800 * (q.rate.toNat + 1)

/-- Send frames from a queue while their EFD leaves eight characters before the next SOF: those sent and those left,
with the characters used. `credits` bounds how many. -/
def packFrames (cap : Nat) : Nat → Nat → List TxFrame → List TxFrame × List TxFrame × Nat
  | used, _, [] => ([], [], used)
  | used, 0, f :: fs => ([], f :: fs, used)
  | used, credits + 1, f :: fs =>
    if used + f.chars.length + 8 ≤ cap then
      let (a, b, u) := packFrames cap (used + f.chars.length) credits fs
      (f :: a, b, u)
    else ([], f :: fs, used)

/-- Fill a superframe after its SOF: control frames first, then the frames that credits allow, then IDLE (R257, R261,
R263). A frame queued later goes out with a later superframe (notes/assumptions/53.md). -/
def PortState.fillFrame (q : PortState) (sof : TxFrame) : PortState :=
  let (c, ctl, used) := packFrames q.capacity sof.chars.length q.ctl.length q.ctl
  let credits := if q.swap = .linked && ctl.isEmpty then q.held else 0
  let (d, data, _) := packFrames q.capacity used credits q.data
  PortState.transmit { q with ctl := ctl, data := data, sentIn := q.sentIn + BitVec.ofNat 16 d.length } (sof :: (c ++ d))
    q.capacity

/-- The states of a swap as a superframe begins (Table PUR-5): an acknowledgement that was sent moves on, an old tail
becomes head with SFN + 1. -/
def PortState.swapStart (q : PortState) : PortState :=
  let q : PortState := if q.swap = .acked && !q.ctl.any (fun f => match f with | .swapAck _ => true | _ => false)
    then { q with swap := .swapping } else q
  if q.swap = .swapping && !q.head then { q with head := true, swap := .reissue } else q

/-- A port starts a superframe: the head, and the tail once it follows one; not the old head of a swap. -/
def PortState.starts (q : PortState) : Bool :=
  (decide (q.link = .trained) && !(decide (q.swap = .swapping) && q.head)) ||
    (q.framing && (q.head || decide (q.sofs ≠ 0)))

/-- SUPERFRAME. -/
def execSuperframe (p : Port) (s : State) : Host.Outcome State Fault Refusal :=
  done s (s.when (s.portOn p) (fun s =>
    let s := if (s.port p).link = .trained then s.setPort p PortState.swapStart else s
    if (s.port p).starts then
      let s := s.creditDue p
      s.setPort p (fun q =>
        let q : PortState := if q.head then { q with sfn := q.sfn + 1 } else q
        let q : PortState := { q with swapFor :=
          if q.swap = .reqSent then q.swapFor + 1 else if q.swap = .backoff then q.swapFor - 1 else q.swapFor }
        let sof := TxFrame.sof q.head q.sfn
        if q.link = .trained then q.fillFrame sof else q.transmit [sof] q.capacity)
    else s))

/-- A start-of-frame set counts toward training. -/
def PortState.countSof (q : PortState) : PortState := { q with sofs := min (q.sofs + 1) 2 }

/-- SOF_H received: a tail aligns and copies SFN; the old head of a swap becomes tail. -/
def execSofH (p : Port) (sfn : Byte) (s : State) : Host.Outcome State Fault Refusal :=
  done s (s.when (s.portOn p) (fun s =>
    s.setPort p (fun q =>
      if q.framing && !q.head then { q.countSof with sfn := sfn }
      else if q.link = .trained then
        if !q.head then { q with sfn := sfn }
        else if q.swap = .swapping then { q with head := false, sfn := sfn, swap := .reissue }
        else q
      else q)))

/-- SOF_T received: a head counts it toward training; the new head of a swap has finished it, and reissues. -/
def execSofT (p : Port) (sfn : Byte) (s : State) : Host.Outcome State Fault Refusal :=
  done s (s.when (s.portOn p && (s.port p).head) (fun s =>
    let q := s.port p
    if q.framing then s.setPort p PortState.countSof
    else if q.link = .trained && q.swap = .reissue && q.sfn = sfn && !q.reissued then
      (s.orReg (.purPevt p) (bitMask 2)).setPort p (fun q => { q with regrant := true, reissued := true })
    else s))

/-! ## Role swap (R263) -/

/-- The port's swap is answered and asked: trained, and not in the BARE state. -/
def State.swaps (s : State) (p : Port) : Bool := s.portOn p && decide ((s.port p).link = .trained) && !s.bare

/-- A local request: freeze and send SWAP_REQ. -/
def State.swapAsk (s : State) (p : Port) (tkt : BitVec 16) : State :=
  if s.swaps p && decide ((s.port p).swap = .linked) then
    s.setPort p (fun q =>
      { q with swap := .reqSent, swapTicket := tkt, swapFor := 0, ctl := q.ctl ++ [.swapReq tkt] })
  else s

/-- Acknowledge the peer's request, withdrawing an own one. -/
def PortState.swapYield (q : PortState) (tkt : BitVec 16) : PortState :=
  { q with
    swap := .acked, swapFor := 0
    ctl := q.ctl.filter (fun f => match f with | .swapReq _ => false | _ => true) ++ [.swapAck tkt] }

/-- SWAP_REQ received (Table PUR-5). `backoff` is the wait drawn at equal tickets, in superframes. -/
def execSwapReq (p : Port) (tkt : BitVec 16) (backoff : Nat) (s : State) : Host.Outcome State Fault Refusal :=
  done s (s.when (s.swaps p) (fun s =>
    s.setPort p (fun q =>
      match q.swap with
      | .linked => q.swapYield tkt
      | .reqSent =>
        if tkt < q.swapTicket then q
        else if tkt = q.swapTicket then
          { q with
            swap := .backoff, swapFor := backoff % 8 + 1
            ctl := q.ctl.filter (fun f => match f with | .swapReq _ => false | _ => true) }
        else q.swapYield tkt
      | .backoff => q.swapYield tkt
      | .acked => q
      | .swapping => q
      | .reissue => q)))

/-- SWAP_ACK received. -/
def execSwapAck (p : Port) (tkt : BitVec 16) (s : State) : Host.Outcome State Fault Refusal :=
  done s (s.when (s.swaps p && decide ((s.port p).swap = .reqSent) && decide ((s.port p).swapTicket = tkt)) (fun s =>
    s.setPort p (fun q => { q with swap := .swapping })))

/-- SWAP_TIMEOUT: 8 superframes with no SWAP_ACK. -/
def execSwapTimeout (p : Port) (s : State) : Host.Outcome State Fault Refusal :=
  done s (s.when (decide ((s.port p).swap = .reqSent) && decide (8 ≤ (s.port p).swapFor)) (fun s =>
    (s.setPort p (fun q => { q with swap := .linked, swapFor := 0 })).orReg (.purPevt p) (bitMask 3)))

/-- BACKOFF_END: the wait that was drawn has passed, and SWAP_REQ goes out with a new ticket. -/
def execBackoffEnd (p : Port) (tkt : BitVec 16) (s : State) : Host.Outcome State Fault Refusal :=
  done s (s.when (s.portOn p && decide ((s.port p).swap = .backoff) && decide ((s.port p).swapFor = 0)) (fun s =>
    s.setPort p (fun q =>
      { q with swap := .reqSent, swapTicket := tkt, swapFor := 0, ctl := q.ctl ++ [.swapReq tkt] })))

/-! ## Errors (R253, R259) -/

/-- Count a discarded frame by its cause (R259). -/
def State.countDiscard (s : State) (p : Port) : DiscardCause → State
  | .fcs => s.satField (.purPerr p) 15 8
  | .other => s.discardFrame p

/-- The four control buffers of a port are full: a PING or an OPEN holds one until its answer has left
(notes/assumptions/52.md). -/
def PortState.ctlFull (q : PortState) : Bool :=
  decide (4 ≤ (q.ctl.filter (fun f => match f with
    | .ping _ => true
    | .openResp _ _ _ => true
    | .ts1 _ _ _ _ => false
    | .ts2 _ _ _ _ => false
    | .sof _ _ => false
    | .slp => false
    | .credit _ _ => false
    | .swapReq _ => false
    | .swapAck _ => false
    | .response _ _ _ _ _ _ _ => false)).length)

/-- A frame can arrive: the port is trained. -/
def State.receives (s : State) (p : Port) : Bool := s.portOn p && decide ((s.port p).link = .trained)

/-- What a port does with a received frame before its command is looked at (R259): a frame that must be discarded counts and
does nothing else; a credit-consuming one whose FCS holds leaves its buffer empty (R260). -/
def State.receive (s : State) (f : Frame) (k : State → State) : State :=
  s.when (s.receives f.port) (fun s =>
    match f.discard with
    | some .fcs => s.countDiscard f.port .fcs
    | some .other =>
      let s := s.countDiscard f.port .other
      if !f.violation && f.fcsOk && !control f.opc && decide (s.portHeld f.port < (s.port f.port).empty.length) then
        s.bufferBack f.port
      else s
    | none => if control f.opc && (s.port f.port).ctlFull then s.discardFrame f.port else k s)

/-- DISCARDED_FRAME: one that is not discarded is not this event. -/
def execDiscardedFrame (p : Port) (body : Option (List Byte)) (s : State) : Host.Outcome State Fault Refusal :=
  done s (s.receive { port := p, body := body } (fun s => s))

/-- CHARACTER_VIOLATION: a group that no character has at the receiver's running disparity. It breaks a run of TS1. -/
def execCharacterViolation (c : CodeGroup) (s : State) : Host.Outcome State Fault Refusal :=
  done s (s.when (s.portOn c.port && violates c.plus c.group) (fun s =>
    (s.satField (.purPerr c.port) 7 0).setPort c.port (fun q => if q.link = .training then q.breakTs1 else q)))

/-! ## Writes of PUR_PCFG and PUR_PCTL -/

/-- A PUR_PCFG write that was accepted: EN starts training or takes the port down. With LINK_EN = 0 no port may be enabled,
and EN stays 0 (spec/12 R234, notes/assumptions/55.md). -/
def State.pcfgTake (s : State) (p : Port) (v : Word) : State :=
  let was := s.bitOf (.purPcfg p) 0
  let v := if s.bitOf .thtCfg 3 then v else v &&& ~~~ (bitMask 0)
  let s := s.setReg (.purPcfg p) v
  if v.getLsbD 0 then (if was then s else if s.pllLocked then s.train1 p else s)
  else if was then s.portDown p
  else s

/-- A PUR_PCTL write: RETRAIN starts training, SWAP asks for a swap with the ticket given. -/
def State.pctlTake (s : State) (p : Port) (v : Word) (tkt : BitVec 16) : State :=
  let s := if v.getLsbD 0 then s.train1 p else s
  if v.getLsbD 1 then s.swapAsk p tkt else s

end Sys2Proof.Machine
end

