-- ==== Sys2Proof/Machine/PurlinReply.lean ====
section
/-! DEFINITION. Replies of gable firmware to messages, and its message queue (spec/14 R273). -/

namespace Sys2Proof.Machine

/-- The largest DATA of a reply. -/
def replyMax : Nat := 484

/-- The pending REPLY command of a gable on a port, if there is one. -/
def State.replyPending (s : State) (g : Gable) (p : Port) : Option PendingCmd :=
  match s.session g p with
  | none => none
  | some x => match x.pending with
    | none => none
    | some c => if c.reply then some c else none

/-- The code of the first check that a PUR_REPLY fails after check 1, with the length, and the state after the handle was
looked at. The quota that check 8 of R224 tests is check 4 here. -/
def State.replyCheck (s : State) (g : Gable) (a : Nat) : Option Byte × Nat × State :=
  match s.checkHandle (holderOf g) a (.transfer 8) with
  | (code, _, _, s) =>
    if code.isSome && code ≠ some E_QUOTA then (code, 0, s)
    else
      let s := s.evictRange (a + 8) 8
      let r := s.bankReadMany reqWindow (a + 8) 2
      let len := leNat r.1
      (if len = 0 || replyMax < len then some E_RANGE else code, len, r.2.2)

/-- A reply that passed its checks: the buffer passes to holder 8, its bytes go out as the response, and it is freed. -/
def State.replySend (s : State) (g : Gable) (p : Port) (c : PendingCmd) (a len : Nat) : State :=
  let s := (s.bufOp (holderOf g) a (.transfer 8)).2.2.2
  let s := s.evictRange (a + 16) len
  let (bs, _, s) := s.bankReadMany reqWindow (a + 16) len
  (s.respond g p c.opc 0 E_OK c.seq bs).bufOp 8 a .free |>.2.2.2

/-- A PUR_REPLY write with GO. While POOL is not ON its CODE is E_DLOST (notes/assumptions/54.md). -/
def State.replyGo (s : State) (g : Gable) (p : Port) : State :=
  let a := (s.reg (.purReplyH g)).toNat
  match s.replyPending g p with
  | none => s.setField (.purReply g) 15 8 E_RANGE.toNat
  | some c =>
    if !s.domOn dPOOL then s.setField (.purReply g) 15 8 E_DLOST.toNat
    else match s.replyCheck g a with
    | (some code, _, s) => s.setField (.purReply g) 15 8 code.toNat
    | (none, len, s) => (s.replySend g p c a len).setField (.purReply g) 15 8 E_OK.toNat

/-- A PUR_REPLY write. -/
def State.replyTake (s : State) (g : Gable) (v : Word) : State :=
  if v.getLsbD 0 then s.replyGo g (if v.getLsbD 1 then 1 else 0) else s

/-- A read of PUR_MSGQ: the oldest handle is removed; a boost may end with it (R213). -/
def State.msgqPop (s : State) (g : Gable) : Word × State :=
  match s.purlin.msgq[g.val] with
  | [] => (0, s)
  | h :: rest =>
    (BitVec.ofNat 32 h, (s.setPurlin (fun u => { u with msgq := vset u.msgq g rest })).boostCheck g)

end Sys2Proof.Machine
end

