-- ==== Sys2Proof/Machine/Bus.lean ====
section
/-! DEFINITION. Reading registers (spec/00, "Register blocks"): rights, the values that fields show, and the effects of
RC fields. -/

namespace Sys2Proof.Machine

/-! ## Rights (spec/00 R6, R310; the access lines) -/

/-- Whether an access line's class holds a gable. A gable that the line grants a register as WO reads 0 there, and no
fault is recorded (Table SCO-4; notes/assumptions/31.md). The alarm and the MOSC timers belong to the owners of their wake
sources, 9 and 10 to 13 (Table PWR-4). -/
def State.grants (s : State) (w : Who) (g : Gable) : Bool :=
  match w with
  | .nobody => false
  | .all => true
  | .g0 => decide (g = 0)
  | .alarmOwner => decide (s.cfg.wakeOwner 9 = some g)
  | .timerOwner n => decide (s.cfg.wakeOwner (10 + n.val) = some g)
  | .wakePinOwner n => decide (s.cfg.wakeOwner n.val = some g)
  | .groupOwner p => decide (s.cfg.groupOwner p = g)
  | .anyGroupOwner => (List.finRange 4).any (fun p => decide (s.cfg.groupOwner p = g))
  | .engineOwner n => decide (s.cfg.engineOwner n = some g)
  | .engineOwnerOrG0 n => decide (s.cfg.engineOwner n = some g) || decide (g = 0)
  | .bankOwnerOrG0 b => decide (s.cfg.bankOwner b = some g) || decide (g = 0)
  | .cwinOwnerOrG0 n => decide (s.cwinOwner n = some g) || decide (g = 0)
  | .gable h => decide (h = g)
  | .snapshot i =>
    let d := i.val / 2 / 3
    if h : 8 ≤ d ∧ d < 24 then decide (s.cfg.bankOwner ⟨d - 8, by omega⟩ = some g) || decide (g = 0) else true
  | .recovery => false
  | .perBit => true

/-- A word with a bit for each number below `n` for which `f` holds. -/
def bitsWhere (n : Nat) (f : Nat → Bool) : Word :=
  (List.range n).foldl (fun m k => if f k then m ||| bitMask k else m) 0

/-- Wake sources of a gable, as bits. -/
def State.wakeBits (s : State) (g : Gable) : Word := bitsWhere 16 (fun n => decide (s.cfg.wakeOwner n = some g))

/-- The bits of a register that a gable may write (R310). -/
def State.bitWriters (s : State) (r : Reg) (g : Gable) : Word :=
  match r with
  | .clkGate =>
    bitsWhere 16 (fun k =>
      if h : 3 ≤ k ∧ k ≤ 6 then decide (s.cfg.engineOwner ⟨k - 3, by omega⟩ = some g)
      else (k = 11 || k = 13 || k = 14 || k = 15) && decide (g = 0))
  | .pwrPadStat => bitsWhere 20 (fun k => if h : 16 ≤ k ∧ k < 20 then decide (s.cfg.groupOwner ⟨k - 16, by omega⟩ = g) else false)
  | .pwrPadRelease => bitsWhere 4 (fun k => if h : k < 4 then decide (s.cfg.groupOwner ⟨k, h⟩ = g) else false)
  | .pwrWakeEn => s.wakeBits g
  | .pwrWakePend => s.wakeBits g
  | .pwrWakeMasked => s.wakeBits g
  | .pwrResCtl => if g = 0 then 3 else 1
  | _ => if s.grants r.writers g then BitVec.allOnes 32 else 0

/-! ## Values shown live -/

/-- Bit `k` as a number. -/
def bitAt (b : Bool) (k : Nat) : Nat := if b then 2 ^ k else 0

/-- The code of a global state (spec/05 R92, PWR_STAT.GSTATE). -/
def GState.code (g : GState) : Nat := g.depth

/-- The code that PWR_DOM shows for a domain. -/
def State.domShown (s : State) (d : Dom) : Nat :=
  if s.switchingDom = some d then 0 else (s.power.dom[d.val]).code

/-- PWR_DOM bits of domains `first` on. -/
def State.domWord (s : State) (first count : Nat) : Word :=
  BitVec.ofNat 32 ((List.finRange 24).foldl (fun (v : Nat) d =>
    if first ≤ d.val && d.val < first + count then v + s.domShown d * 4 ^ (d.val - first) else v) 0)

/-- A snapshot word (R107). -/
def State.snapWord (s : State) (g : Gable) (i : Fin 154) : Word :=
  let c := ((s.res.snap[g.val]).cnt[i.val / 2]'(by omega)).toNat
  BitVec.ofNat 32 (if i.val % 2 = 0 then c else c / 2 ^ 32)

/-- RDG_STAT (spec/06). -/
def State.rdgStatWord (s : State) : Word :=
  let c := s.ridge.ctx
  let state := if s.life = .shelter then 4
    else if s.braced then 2
    else if s.ridge.suspend.isSome then 3
    else if c.routine = .dispatch then 0 else 1
  let call := match c.routine with
    | .service g n => n.toNat * 0x10000 + g.val * 0x1000000
    | .dispatch => 0
    | .init => 0
    | .trigger _ => 0
  BitVec.ofNat 32 (c.addr.toNat + state * 0x200 + c.stack.length * 0x1000 + call)

def Slot.code : Slot → Nat
  | .free => 0
  | .pending _ _ => 1
  | .running _ => 2

/-- A gable's health code (GAB_HEALTH). -/
def State.healthOf (s : State) (g : Gable) : Nat :=
  if !(s.descOf g).present then 0
  else if !(s.gab g).stopped then 1
  else if (s.gab g).restartPend then 3 else 2

/-- Valid or dirty lines of a gable. -/
def State.countLines (s : State) (g : Gable) (dirty : Bool) : Nat :=
  ((List.finRange 48).filter (fun i =>
    let l := s.cache.lines[i.val]
    l.valid && decide (l.gable = g) && (!dirty || l.dirty))).length

/-- A gable's core-data stores do not allocate (LC_STAT.STREAMING): its detector, while enabled, has stopped them (R194). -/
def State.streaming (s : State) (g : Gable) : Bool :=
  s.bitOf (.lcGctl g) 3 && (s.cache.stream[(CacheReq.data.str g).val]).stopped

def EngState.code : EngState → Nat
  | .halted => 0
  | .running => 1
  | .fifoWait => 2
  | .waitWord => 3
  | .permitGate => 4
  | .commitHold => 5
  | .parked => 6

def LinkState.code : LinkState → Nat
  | .down => 0
  | .training => 1
  | .trained => 2
  | .asleep => 3
  | .recovery => 4

def SwapState.code : SwapState → Nat
  | .linked => 0
  | .reqSent => 1
  | .acked => 2
  | .backoff => 3
  | .swapping => 4
  | .reissue => 5

/-- BUR_STAT_n. -/
def State.burStatWord (s : State) (n : EngineNo) : Word :=
  let e := s.engine n
  BitVec.ofNat 32 (e.pc.toNat + e.st.code * 0x400 + bitAt e.swf 13 + e.stack.length * 0x4000 + bitAt e.inCustomer 17)

/-- Engines for which `f` holds, as bits from `lo` on. -/
def State.engineBits (s : State) (lo : Nat) (f : Engine → Bool) : Nat :=
  (List.finRange 4).foldl (fun (v : Nat) n => v + bitAt (f (s.engine n)) (lo + n.val)) 0

/-- PUR_PSTAT_n. -/
def PortState.statWord (q : PortState) : Word :=
  BitVec.ofNat 32 (q.link.code + bitAt q.head 3 + q.rate.toNat * 0x10 + q.swap.code * 0x40 +
    bitAt (decide (q.swap ≠ .linked)) 9 + q.sfn.toNat * 0x10000)

/-- PUR_SESS of a gable. -/
def State.sessWord (s : State) (g : Gable) : Word :=
  BitVec.ofNat 32 (bitAt (s.session g 0).isSome 0 + bitAt (s.session g 1).isSome 1 +
    bitAt (s.replyPending g 0).isSome 2 + bitAt (s.replyPending g 1).isSome 3)

/-- PUR_SEQ of a gable on a port; 0 without a session. -/
def State.seqWord (s : State) (g : Gable) (p : Port) : Word := (s.session g p).elim 0 (fun x => x.lastSeq)

/-- A lockout still runs: 2^LEVEL s have not passed. -/
def State.lockRemain (s : State) (g : Gable) : Nat :=
  match (s.lockOf g).since with
  | none => 0
  | some t => t + 1000000 * 2 ^ (s.lockOf g).level - s.now

/-- PUR_LOCK of a gable. REMAIN is in units of 10 ms, rounded up (notes/assumptions/25.md). -/
def State.lockWord (s : State) (g : Gable) : Word :=
  let l := s.lockOf g
  BitVec.ofNat 32 (l.fails + bitAt l.since.isSome 4 + l.level * 0x100 + ((s.lockRemain g + 9999) / 10000) * 0x10000)

/-- PLT_CKPT of a gable. -/
def State.ckptWord (s : State) (g : Gable) : Word :=
  let r := s.cfg.regions[g.val]
  match s.nv.current r with
  | none => 0
  | some h => BitVec.ofNat 32 (1 + bitAt h 1 + ((s.nv.half r h).gen % 65536) * 0x10000)

/-- LEN of a gable's current checkpoint. -/
def State.ckptLen (s : State) (g : Gable) : Word :=
  let r := s.cfg.regions[g.val]
  match s.nv.current r with
  | none => 0
  | some h => BitVec.ofNat 32 (s.nv.half r h).len

/-- A word whose pin bits come from the pins' state where an engine takes them (spec/05, PWR_GPIO_). -/
def State.gpioWord (s : State) (p : PadGroup) (r : Reg) (oe : Bool) : Word :=
  bitsWhere 12 (fun k =>
    if (s.slotAt p k).isSome then (if oe then (s.pinState p k).2 else (s.pinState p k).1) else s.bitOf r k)

/-- What a register shows: stored fields, and the fields that show live state. -/
def State.shown (s : State) (r : Reg) : Word :=
  match r with
  | .supVcore => putBits (s.reg r) 16 16 (bitAt s.vcoreDone 0)
  | .gutStat => putBits (s.reg r) 8 7 s.seedsLeft
  | .gutSeed => putBits (s.reg r) 17 16 s.seedsLeft
  | .clkStat => putBits (putBits (s.reg r) 2 2 (bitAt s.frcRuns 0)) 9 8 s.trimAct
  | .clkGateBusy => bitsWhere 16 (fun k => s.gateBusy k)
  | .tmrRtcFrac _ => s.reg r
  | .snsPend => bitsWhere 8 (fun k => if h : k < 8 then (s.clk.adc[k]).isSome else false)
  | .pwrStat =>
    BitVec.ofNat 32 (bitAt s.domainScheme 0 + (if s.domainScheme then 0 else s.power.gstate.code) * 2 +
      bitAt s.power.holdAt.isSome 4 + bitAt (s.power.offAt.isSome && !s.power.graceDone) 5)
  | .pwrGreq => BitVec.ofNat 32 ((List.finRange 8).foldl (fun (v : Nat) g => v + (s.power.greq[g.val]).code * 8 ^ g.val) 0)
  | .pwrDomLo => s.domWord 0 16
  | .pwrDomHi => s.domWord 16 8
  | .pwrGpioOut p => s.gpioWord p r false
  | .pwrGpioOe p => s.gpioWord p r true
  | .pwrGpioIn p => (s.pinLevels p).setWidth 32
  | .pwrWakeEn => putBits (putBits (s.reg r) 16 16 (bitAt (s.bitOf (.purPcfg 0) 0) 0)) 17 17 (bitAt (s.bitOf (.purPcfg 1) 0) 0)
  | .pwrResStat g => BitVec.ofNat 32 (bitAt (s.res.snap[g.val]).valid 0 + bitAt s.res.wrap 1)
  | .pwrResSnap g i => s.snapWord g i
  | .rdgStat => s.rdgStatWord
  | .rdgResult g => putBits (s.reg r) 9 8 (s.ridge.slots[g.val]).code
  | .gabId g => BitVec.ofNat 32 (g.val + bitAt (s.descOf g).stipple 3)
  | .gabUse g =>
    let x := s.gab g
    BitVec.ofNat 32 (x.used % 1024 + x.remain % 1024 * 0x400 + x.released % 1024 * 0x100000 + bitAt x.boost.isSome 30)
  | .gabFrame => BitVec.ofNat 32 (s.frame.tick % 1024 + s.frame.num.toNat * 0x400)
  | .gabRsv => BitVec.ofNat 32 (s.cfg.linkRsv % 1024 + s.frame.rsvLeft % 1024 * 0x400)
  | .gabHealth => BitVec.ofNat 32 ((List.finRange 8).foldl (fun (v : Nat) g => v + s.healthOf g * 4 ^ g.val) 0)
  | .lcStat g => BitVec.ofNat 32 (s.countLines g false + s.countLines g true * 0x40 + bitAt (s.streaming g) 12)
  | .thtQuota g p => putBits (s.reg r) 31 16 (s.chargeOf (holderOf g) p)
  | .thtLinkq p => putBits (s.reg r) 31 16 (s.chargeOf 8 p)
  | .burCommitStat =>
    BitVec.ofNat 32 (s.fieldOf r 13 0 + s.engineBits 16 (fun e => decide (e.st = .commitHold)) + s.engineBits 20 Engine.inCustomer)
  | .burStat n => s.burStatWord n
  | .burFifo n => putBits (putBits (s.reg r) 4 0 (s.engine n).txf.length) 12 8 (s.engine n).rxf.length
  | .burShift n => (s.engine n).shifter
  | .burCount n =>
    let e := s.engine n
    BitVec.ofNat 32 (e.x.toNat + e.bitsOut.toNat * 0x10000 + e.bitsIn.toNat * 0x1000000)
  | .burCrc n => (s.engine n).crc
  | .purCfg => putBits (s.reg r) 8 8 (bitAt s.bare 0)
  | .purPstat p => (s.port p).statWord
  | .purPcred p =>
    let q := s.port p
    BitVec.ofNat 32 (s.fieldOf (.purPcfg p) 15 8 + q.fresh % 256 * 0x100 + q.held % 256 * 0x10000 +
      q.epochOut.toNat * 0x1000000)
  | .purSess g => s.sessWord g
  | .purSeqP0 g => s.seqWord g 0
  | .purSeqP1 g => s.seqWord g 1
  | .purLock g => s.lockWord g
  | .purMsgq g => BitVec.ofNat 32 ((s.purlin.msgq[g.val]).headD 0)
  | .purMsgqStat g => BitVec.ofNat 32 (s.purlin.msgq[g.val]).length
  | .pltCkpt g => s.ckptWord g
  | .pltCkptLen g => s.ckptLen g
  | .pltCkptReg g =>
    let x := s.cfg.regions[g.val]
    BitVec.ofNat 32 (x.base + x.pages * 0x10000)
  | .prfStat =>
    BitVec.ofNat 32 (bitAt (!s.nv.prfQ.isEmpty) 0 + min s.nv.worn.length 255 * 0x100 + s.nv.evHead * 0x10000 +
      s.nv.dkHead * 0x1000000)
  | .burRxf n => (s.engine n).rxf.headD 0
  | _ => s.reg r

/-! ## Reads -/

/-- The bits of a register's RC fields. -/
def Reg.rcMask (r : Reg) : Word :=
  r.fields.foldl (fun m f => if f.ty = .rc then m ||| maskBits f.hi f.lo else m) 0

/-- What a granted read does besides (Table SCO-4 RC; spec/04 R78; spec/13 R249; spec/14 PUR_MSGQ). A load narrower than the
register clears every RC field of it, also those outside the bytes it reads (notes/assumptions/34.md). -/
def State.readEffect (s : State) (g : Gable) (r : Reg) : State :=
  match r with
  | .burRxf n => (s.rxfRead g n).2
  | .purMsgq g => (s.msgqPop g).2
  | .tmrRtcSec => s.setReg (.tmrRtcFrac g) (s.clk.rtcFrac.setWidth 32)
  | _ => s.when (decide (r.rcMask ≠ 0)) (fun s => s.clearReg r r.rcMask)

/-- A read of a register by a gable: its value and the state (R6 where it is refused). -/
def State.regRead (s : State) (g : Gable) (r : Reg) : Word × State :=
  if s.grants r.readers g then
    match r with
    | .burRxf n => s.rxfRead g n
    | _ => (s.shown r, s.readEffect g r)
  else (0, s.recordFault g E_WINDOW (BitVec.ofNat 32 r.addr))

/-! ## Reachability (R75, R86) -/

/-- The block's clock runs, for the blocks whose registers are reached through a crossing into PCLK (R75). -/
def State.pclkRuns (s : State) : Bool := s.frcRuns && s.bitOf .clkStat 3 && s.gateEn 0

/-- An access to a register reaches it: its domain is ON, and a crossing's far clock runs. -/
def State.reachable (s : State) (d : RegDomain) : Bool :=
  match d with
  | .always => true
  | .core => s.domOn dCORE
  | .cache => s.domOn dCACHE
  | .pool => s.domOn dPOOL && s.pclkRuns
  | .bur => s.domOn dBUR && s.pclkRuns
  | .link => s.domOn dLINK
  | .sens => s.domOn dSENS && s.pclkRuns
  | .oscf => s.domOn dOSCF && s.pclkRuns

end Sys2Proof.Machine
end

