-- ==== Sys2Proof/Machine/Trap.lean ====
section
/-! DEFINITION. Taking an exception (spec/07 R141 to R143), the performance counters (R151), and what precedes a gable's
access to device space (R146). -/

namespace Sys2Proof.Machine

/-! ## Performance counters (R151, Table GRV-6) -/

def perfRetired : Fin 8 := 0
def perfRunUs : Fin 8 := 1
def perfFetchWait : Fin 8 := 2
def perfSbFull : Fin 8 := 3
def perfTraps : Fin 8 := 4
def perfEvents : Fin 8 := 5
def perfDevAcc : Fin 8 := 6
def perfMispredict : Fin 8 := 7

/-- A counter counts one occurrence; on wrapping it sets its OVF bit. Mispredictions count whatever EN holds. -/
def State.perf (s : State) (g : Gable) (k : Fin 8) : State :=
  if k = perfMispredict || s.bitOf (.gabPerfCtl g) 0 then
    let v := s.reg (.gabPerf g k)
    let s := s.setReg (.gabPerf g k) (v + 1)
    if v = BitVec.allOnes 32 then s.orReg (.gabPerfCtl g) (bitMask (8 + k.val)) else s
  else s

/-! ## Exceptions (Table GRV-2, R141 to R143) -/

/-- An exception: its vector, its code and the address for GAB_TADDR. -/
structure Trap where
  vec  : Nat
  code : Byte
  addr : Word
  deriving DecidableEq, Repr

def trapFetch (code : Byte) (a : Nat) : Trap := { vec := 1, code := code, addr := BitVec.ofNat 32 a }
def trapIecc (a : Nat) : Trap := { vec := 2, code := E_OK, addr := BitVec.ofNat 32 a }
def trapUnd : Trap := { vec := 3, code := E_RSVD, addr := 0 }
def trapSoft : Trap := { vec := 4, code := E_OK, addr := 0 }
def trapAlign (a : Nat) : Trap := { vec := 5, code := E_ALIGN, addr := BitVec.ofNat 32 a }
def trapDwin (a : Nat) : Trap := { vec := 6, code := E_WINDOW, addr := BitVec.ofNat 32 a }
def trapDlost (a : Nat) : Trap := { vec := 7, code := E_DLOST, addr := BitVec.ofNat 32 a }
def trapDecc (a : Nat) : Trap := { vec := 8, code := E_OK, addr := BitVec.ofNat 32 a }

/-- The exception for the code that a device access answers. -/
def trapData (code : Byte) (a : Nat) : Trap := if code = E_DLOST then trapDlost a else trapDwin a

/-- Steps 2 to 4 of R141: the trap registers take the cause, events are masked, and the program counter is the vector
entry's. The event line is 0 for an exception. -/
def State.enterTrap (s : State) (g : Gable) (t : Trap) (line : Nat) : State :=
  let s := s.setReg (.gabEpc g) (s.ctxOf g).pc
  let s := s.setReg (.gabTcause g) (BitVec.ofNat 32 (t.vec + 0x100 * t.code.toNat + 0x10000 * line))
  let s := s.setReg (.gabTaddr g) t.addr
  let s := (s.putBit (.gabTstat g) 2 (s.bitOf (.gabTstat g) 1)).orReg (.gabTstat g) (bitMask 1 ||| bitMask 0)
  let base := bitsOf (s.reg (.gabTrapBase g)) 31 8 * 256
  (s.setCtxOf g (fun c => { c with pc := BitVec.ofNat 32 (base + 16 * t.vec), wfe := false })).setCore
    (fun c => { c with ilb := [] })

/-- An exception: older stores commit first, and one raised while TRAP_ACT is 1 is a double fault, which stops the
gable, with GAB_EPC for its GAB_FAULT_ADDR (R141, R143, spec/11 GAB_FAULT_ADDR). -/
def State.takeTrap (s : State) (g : Gable) (t : Trap) : State :=
  let s := s.drain
  if s.bitOf (.gabTstat g) 0 then (s.recordFault g t.code (s.reg (.gabEpc g))).stopGable g
  else (s.enterTrap g t 0).perf g perfTraps

/-! ## Device-space accesses given as rows (R146) -/

/-- Before a gable's access to device space every buffered store commits (R146), and the access counts (Table GRV-6). -/
def State.deviceAccess (s : State) (g : Gable) : State := s.drain.perf g perfDevAcc

/-- An access given as a row raises its exception where its gable holds the core (notes/assumptions/1.md). -/
def State.deviceFault (s : State) (g : Gable) (t : Trap) : State :=
  s.when (s.coreRuns && decide (s.core.running = some g)) (fun s => s.takeTrap g t)

end Sys2Proof.Machine
end

