-- ==== Sys2Proof/Machine/RegTake.lean ====
section
/-! DEFINITION. Writing registers: rights, reserved bits and encodings (spec/00 R4 to R6, R14, R310), and what each write
does. -/

namespace Sys2Proof.Machine

/-! ## Field masks -/

/-- The bits of a register's fields of some types. -/
def Reg.maskOf (r : Reg) (p : FieldType → Bool) : Word :=
  r.fields.foldl (fun m f => if p f.ty then m ||| maskBits f.hi f.lo else m) 0

def Reg.rwMask (r : Reg) : Word := r.maskOf (fun t => t = .rw)
def Reg.w1cMask (r : Reg) : Word := r.maskOf (fun t => t = .w1c)
def Reg.w1sMask (r : Reg) : Word := r.maskOf (fun t => t = .w1s)
def Reg.woMask (r : Reg) : Word := r.maskOf (fun t => t = .wo)

/-- The bits that are not reserved. -/
def Reg.definedMask (r : Reg) : Word := r.maskOf (fun _ => true)

/-- A field that a write sets. -/
def FieldType.written (t : FieldType) : Bool :=
  match t with
  | .rw => true
  | .wo => true
  | .w1s => true
  | .ro => false
  | .w1c => false
  | .rc => false

/-- A word's KEY, bits [15:8]. -/
def keyOf (v : Word) : Nat := bitsOf v 15 8

/-- The action bit and the key that a keyed register asks for together (spec/04 R79; spec/05 R108; spec/06 R129; spec/11
R219; spec/13 R244). -/
def Reg.keyed (r : Reg) : Option Nat :=
  match r with
  | .pwrReset => some 0xA5
  | .rdgCommit => some 0x5C
  | .burCommit => some 0x6B
  | .tmrRtcCtl => some 0x9E
  | .gabCtl _ => some 0x3A
  | _ => none

/-- A write places a reserved encoding into a field (R5). -/
def Reg.reservedEncoding (r : Reg) (v : Word) : Bool :=
  r.fields.any (fun f => f.ty.written && (decide (bitsOf v f.hi f.lo < f.vlo) || decide (f.vhi < bitsOf v f.hi f.lo))) ||
    (v.getLsbD 0 && (r.keyed).elim false (fun k => decide (keyOf v ≠ k)))

/-! ## The order of checks (R14) -/

/-- The write is refused for want of rights (R6, R310). -/
def State.writeRefused (s : State) (g : Gable) (r : Reg) (v : Word) : Bool :=
  let m := s.bitWriters r g
  decide (m = 0) || decide ((v ^^^ s.shown r) &&& r.rwMask &&& ~~~ m ≠ 0) ||
    decide (v &&& (r.w1cMask ||| r.w1sMask ||| r.woMask) &&& ~~~ m ≠ 0)

/-- Merge a write by the types of the fields (Table SCO-4). -/
def State.mergeWrite (s : State) (r : Reg) (v : Word) : State :=
  let old := s.reg r
  s.setReg r ((((old &&& ~~~ (r.rwMask)) ||| (v &&& r.rwMask)) &&& ~~~ (v &&& r.w1cMask)) ||| (v &&& r.w1sMask))

/-! ## What particular registers do -/

/-- T_WARN in mV. -/
def State.tWarn (s : State) : Nat := 2200 + 50 * s.fieldOf .supCfg 4 0

/-- A SUP_CFG write may trip the T_WARN comparator, which starts no Brace (R35). -/
def State.supCfgTake (s : State) (v : Word) : State :=
  let s := s.mergeWrite .supCfg v
  if s.vsysMv ≤ s.tWarn then s.orReg .supStat (bitMask 4) else s

/-- A SUP_AVS_CFG write: clearing EN moves VCORE to the internal converter and ends an outstanding request (R29,
R317). -/
def State.avsCfgTake (s : State) (v : Word) : State :=
  let was := s.bitOf .supAvsCfg 16
  let s := s.mergeWrite .supAvsCfg v
  if was && !s.bitOf .supAvsCfg 16 then s.moveInternal.avsAbort else s

/-- A GUT_CFG write: a disabled input stops, and the seed island takes AUTO_SEED (R45), on which it may start a seed
(R47). -/
def State.gutCfgTake (s : State) (v : Word) : State :=
  let s := s.mergeWrite .gutCfg v
  let s := if s.bitOf .gutCfg 1 then s else s.clearReg .gutStat (bitMask 3)
  let s := if s.bitOf .gutCfg 2 then s else s.clearReg .gutStat (bitMask 4)
  (s.setGutter (fun x => { x with island := { x.island with autoSeed := s.bitOf .gutCfg 5 } })).seedFollow

/-- A GUT_THR write (R61). -/
def State.gutThrTake (s : State) (g : Gable) (v : Word) : State :=
  if thrOrdered v then s.thrTake v else s.recordFault g E_RANGE (BitVec.ofNat 32 (Reg.addr .gutThr))

/-- The enable word that a CLK_GATE write asks for: the gates that only Ridge switches are read-only there (R310). -/
def State.gateWord (s : State) (v : Word) : Word :=
  (s.reg .clkGate &&& ~~~ (Reg.rwMask .clkGate)) ||| (v &&& Reg.rwMask .clkGate)

/-- A CLK_GATE write (R72): refused whole while a gate that it disables has an enabled busy gate below it. -/
def State.clkGateTake (s : State) (g : Gable) (v : Word) : State :=
  match s.gateRefusal (s.disabledBy (s.gateWord v)) with
  | some (p, c) => s.recordGateRefusal p c g.val
  | none => s.setReg .clkGate (s.gateWord v)

/-- A TMR_RTC_CTL write with SET: the set waits for the next RTC count (R79). -/
def State.rtcCtlTake (s : State) (v : Word) : State :=
  if v.getLsbD 0 then s.setClk (fun c => { c with rtcSetPend := some (s.reg .tmrRtcSet) }) else s

/-- A PWR_WAKE_MASKED write unmasks each masked source that it names (R103). -/
def State.unmaskAll (s : State) (v : Word) : State :=
  (List.finRange 16).foldl
    (fun (t : State) n => if v.getLsbD n.val && t.bitOf .pwrWakeMasked n.val then t.unmask n else t) s

/-- A write of a pin register: bits of engine pins are read-only (PWR_GPIO_). -/
def State.gpioTake (s : State) (p : PadGroup) (r : Reg) (v : Word) : State :=
  let eng := bitsWhere 12 (fun k => (s.slotAt p k).isSome)
  s.setReg r ((s.reg r &&& eng) ||| (v &&& r.rwMask &&& ~~~ eng))

/-- Whether a service number is implemented: set in RDG_SVC_IMPL, or a valid customer entry (R125 check 2). -/
def State.svcExists (s : State) (n : Nat) : Bool :=
  if n < 32 then s.bitOf .rdgSvcImplLo n
  else if n < 64 then s.bitOf .rdgSvcImplHi (n - 32)
  else if n < 96 then s.bitOf .rdgSvcCust (n - 64)
  else false

/-- Whether a gable's permitted services hold a number (R125 check 3). -/
def State.svcPermitted (s : State) (g : Gable) (n : Nat) : Bool :=
  let d := s.descOf g
  (if n < 32 then d.svcLo.getLsbD n
   else if n < 64 then d.svcHi.getLsbD (n - 32)
   else if n < 96 then d.svcCust.getLsbD (n - 64)
   else false) && ((n ≠ 8 && n ≠ 9) || decide (g = 0))

/-- A call completes at once with a code (R125). -/
def State.callFails (s : State) (g : Gable) (code : Byte) : State :=
  s.setReg (.rdgResult g) (putBits (s.reg (.rdgResult g)) 7 0 code.toNat ||| bitMask 16)

/-- An RDG_CALL write (R125). The result of a busy slot is left unchanged. -/
def State.callTake (s : State) (g : Gable) (v : Word) : State :=
  let n := bitsOf v 7 0
  if s.ridge.slots[g.val] ≠ .free then s
  else if !s.svcExists n || !s.svcPermitted g n then s.callFails g E_NOSVC
  else s.setRidge (fun r =>
    { r with slots := vset r.slots g (.pending r.callSeq (BitVec.ofNat 8 n)), callSeq := r.callSeq + 1 })

/-- An RDG_ARG write (R125). -/
def State.argTake (s : State) (g : Gable) (r : Reg) (v : Word) : State :=
  if s.ridge.slots[g.val] ≠ .free then s.recordFault g E_BUSY (BitVec.ofNat 32 r.addr) else s.setReg r v

/-- RDG_COMMIT.STATE: 0 idle, 1 checking, 2 pending, 3 done, 4 rejected, 5 timeout. -/
def State.rdgCommitState (s : State) : Nat := s.fieldOf .rdgCommit 18 16

/-- An RDG_COMMIT write (R129): GO while a commit is under way does nothing. -/
def State.rdgCommitTake (s : State) (v : Word) : State :=
  let s := s.mergeWrite .rdgCommit v
  if v.getLsbD 0 && s.rdgCommitState ≠ 1 && s.rdgCommitState ≠ 2 then s.setField .rdgCommit 18 16 1 else s

/-- A BUR_COMMIT write (spec/13 R244). -/
def State.burCommitTake (s : State) (v : Word) : State :=
  let s := s.mergeWrite .burCommit v
  if v.getLsbD 0 then s.burCommitGo else s

/-- A GAB_TRAP_BASE write (spec/07 R144). -/
def State.trapBaseTake (s : State) (g : Gable) (v : Word) : State :=
  let base := bitsOf v 31 8 * 256
  if s.cfg.mayRange g .x base 256 then s.mergeWrite (.gabTrapBase g) v
  else s.recordFault g E_WINDOW (BitVec.ofNat 32 (Reg.addr (.gabTrapBase g)))

/-- A GAB_EVT_EN write: bits of lines that are not routed stay 0 (R148). A pending line that it enables is a delivered
event, which under the Profile scheme sets the gable's request to RUN (R91). -/
def State.evtEnTake (s : State) (g : Gable) (r : Reg) (hi : Bool) (v : Word) : State :=
  let news := v &&& s.cfg.routedMask g hi &&& ~~~ (s.reg r) &&& s.reg (if hi then .gabEvtPendHi g else .gabEvtPendLo g)
  let s := s.setReg r (v &&& s.cfg.routedMask g hi)
  if news ≠ 0 && !s.domainScheme then s.eventRequest g else s

/-- A GAB_PERF_CTL write (R151). -/
def State.perfCtlTake (s : State) (g : Gable) (v : Word) : State :=
  let s := s.mergeWrite (.gabPerfCtl g) v
  if v.getLsbD 1 then s.clearPerf g else s

/-- A GAB_FAULT write: CLR clears CODE and COUNT. -/
def State.faultTake (s : State) (g : Gable) (v : Word) : State :=
  let s := s.mergeWrite (.gabFault g) v
  if v.getLsbD 31 then s.setField (.gabFault g) 15 0 0 else s

/-- A BNK_ECC_LAST write: CLR_CNT clears every bank's counters. -/
def State.eccLastTake (s : State) (v : Word) : State :=
  let s := s.mergeWrite .bnkEccLast v
  if v.getLsbD 31 then (List.finRange 16).foldl (fun (t : State) b => t.setReg (.bnkEccCnt b) 0) s else s

/-- The code of the first check that a BNK_BIST.GO fails (R183). -/
def State.bistFails (s : State) (b : BankNo) : Option Byte :=
  firstFail
    [(s.banks.bist.isSome, E_BUSY),
     ((s.cfg.bankOwner b).isSome || s.cfg.thtBanks.getLsbD b.val, E_NOT_OWNER),
     (!s.bankOn b, E_RANGE)]

/-- A BNK_BIST write (R183). Accesses to the bank wait until the test has ended, so the zeroes that it leaves are in place
from its start (notes/assumptions/26.md). -/
def State.bistTake (s : State) (g : Gable) (v : Word) : State :=
  let b : BankNo := ⟨bitsOf v 3 0 % 16, by omega⟩
  if v.getLsbD 4 then
    match s.bistFails b with
    | some c => s.recordFault g c (BitVec.ofNat 32 (Reg.addr .bnkBist))
    | none =>
      (((s.mergeWrite .bnkBist v).orReg .bnkBist (bitMask 5)).zeroBank b).setBanks (fun k => { k with bist := some b })
  else s.mergeWrite .bnkBist v

/-- A BNK_CWIN_n write (R180): a window that is not disabled lies within one bank. -/
def State.cwinTake (s : State) (g : Gable) (n : Fin 8) (v : Word) : State :=
  let base := 8 * bitsOf v 17 0
  let len := 8 * bitsOf v 31 18
  if len ≠ 0 && bankOf base ≠ bankOf (base + len - 1) || 0x200000 < base + len then
    s.recordFault g E_RANGE (BitVec.ofNat 32 (Reg.addr (.bnkCwin n)))
  else s.setReg (.bnkCwin n) v

/-- An LC_GCTL write: CLR clears the gable's counters. -/
def State.gctlTake (s : State) (g : Gable) (v : Word) : State :=
  let s := s.mergeWrite (.lcGctl g) v
  if v.getLsbD 4 then (List.finRange 5).foldl (fun (t : State) k => t.setReg (.lcCnt g k) 0) s else s

/-- An LC_OP write (spec/10 R201); OP is 1 clean, 2 invalidate, 3 both. -/
def State.lcOpTake (s : State) (g : Gable) (v : Word) : State :=
  match bitsOf v 1 0 with
  | 1 => s.lcOp g v .clean
  | 2 => s.lcOp g v .invalidate
  | 3 => s.lcOp g v .cleanInvalidate
  | _ => s

/-- A BUR_PINCFG_n write (spec/13 R238): the output slots end at slot 7. -/
def State.pincfgTake (s : State) (g : Gable) (n : EngineNo) (v : Word) : State :=
  if 8 < bitsOf v 2 0 + bitsOf v 6 3 then s.recordFault g E_RANGE (BitVec.ofNat 32 (Reg.addr (.burPincfg n)))
  else s.mergeWrite (.burPincfg n) v

/-- Registers whose Plate fields a warm reset leaves alone (spec/05 Table PWR-8): Gutter's and the wake enables; and the two
that show a live customer bank. -/
def Reg.keepsPlate (r : Reg) : Bool :=
  match r with
  | .gutCfg => true
  | .gutThr => true
  | .gutSeed => true
  | .pwrWakeEn => true
  | .rdgCustId => true
  | .rdgSvcCust => true
  | .burCustId => true
  | _ => false

/-- A register's stored word with its Plate fields from the shadow. -/
def State.plateWord (s : State) (r : Reg) : Word :=
  r.fields.foldl (fun w f => if f.plate then putBits w f.hi f.lo (bitsOf (s.cfg.resetWord r) f.hi f.lo) else w) (s.reg r)

/-- A register takes its Plate fields from the shadow again. Those whose writes act, act as such a write does. -/
def State.plateTake (s : State) (r : Reg) : State :=
  let v := s.plateWord r
  match r with
  | .supCfg => s.supCfgTake v
  | .supAvsCfg => s.avsCfgTake v
  | .clkCfg => s.clkCfgTake v
  | .clkFrcTrim => (s.setReg r v).setClk (fun c => { c with trimFrozen := false })
  | .purPcfg p => s.pcfgTake p v
  | _ => s.setReg r v

/-- Every Plate field of the warden is restored from the shadow at a warm reset (R108, Table PWR-8). -/
def State.plateAgain (s : State) : State :=
  (((s.regs.map (fun x => x.1)) ++ s.cfg.shadow.map (fun x => x.1)).filter (fun r => !r.keepsPlate)).foldl State.plateTake s

/-- What a write does that passed every check of R14. `g` is the writer. -/
def State.regTake (s : State) (g : Gable) (r : Reg) (v : Word) : State :=
  match r with
  | .supCfg => s.supCfgTake v
  | .supAvsCfg => s.avsCfgTake v
  | .gutCfg => s.gutCfgTake v
  | .gutThr => s.gutThrTake g v
  | .clkCfg => s.clkCfgTake v
  | .clkFrcTrim => (s.mergeWrite r v).setClk (fun c => { c with trimFrozen := false })
  | .clkGate => s.clkGateTake g v
  | .tmrRtcCtl => s.rtcCtlTake v
  | .tmrSCtl n => s.timerCtl g (moscTimer n) v
  | .tmrFCtl _ => s.timerCtl g (pclkTimer g) v
  | .snsConv _ => if v.getLsbD 4 then s.adcRequest g v else s
  | .pwrReset => if v.getLsbD 0 then s.warmReset.plateAgain else s
  | .pwrPadRelease => s.padReleaseWrite v
  | .pwrGpioOut p => s.gpioTake p r v
  | .pwrGpioOe p => s.gpioTake p r v
  | .pwrWakeMasked => s.unmaskAll v
  | .pwrResCtl => s.resCtl g v
  | .rdgCall _ => s.callTake g v
  | .rdgArg0 _ => s.argTake g r v
  | .rdgArg1 _ => s.argTake g r v
  | .rdgCommit => s.rdgCommitTake v
  | .gabTrapBase _ => s.trapBaseTake g v
  | .gabEvtEnLo _ => s.evtEnTake g r false v
  | .gabEvtEnHi _ => s.evtEnTake g r true v
  | .gabEvtPendLo _ => (s.mergeWrite r v).boostCheck g
  | .gabPerfCtl _ => s.perfCtlTake g v
  | .gabCtl _ => if v.getLsbD 0 then s.restartGable g else s
  | .gabFault _ => s.faultTake g v
  | .bnkEccLast => s.eccLastTake v
  | .bnkBist => s.bistTake g v
  | .bnkCwin n => s.cwinTake g n v
  | .lcGctl _ => s.gctlTake g v
  | .lcOp _ => s.lcOpTake g v
  | .thtOp _ => s.thtOpWrite g v
  | .thtWait _ => if v.getLsbD 31 then s.waitAck g else s
  | .thtSel _ => s.selWrite g v
  | .thtStatCtl => if v.getLsbD 0 then s.thtSnapshot else s
  | .burCommit => s.burCommitTake v
  | .burCtl n => s.burCtlWrite g n v
  | .burPincfg n => s.pincfgTake g n v
  | .burTxf n => s.txfWrite g n v
  | .purPcfg p => s.pcfgTake p ((s.reg r &&& ~~~ (r.rwMask)) ||| (v &&& r.rwMask))
  | .purPctl p => (s.freshWord.2).pctlTake p v ((s.freshWord.1).setWidth 16)
  | .purReply _ => s.replyTake g v
  | _ => s.mergeWrite r v

/-- A register write by a gable, its domain reachable: rights, then the reserved-bit count, then reserved encodings, then
the effect (R14). -/
def State.regWrite (s : State) (g : Gable) (r : Reg) (v : Word) : State :=
  if s.writeRefused g r v then s.recordFault g E_WINDOW (BitVec.ofNat 32 r.addr)
  else
    let s := if v &&& ~~~ (r.definedMask) ≠ 0 then s.satField (.gabRsvdCnt g) 31 0 else s
    if r.reservedEncoding v then s.recordFault g E_RSVD (BitVec.ofNat 32 r.addr)
    else s.regTake g r (v &&& r.definedMask)

/-- A gable's access to a register as a command, after what precedes it (R146); where the register cannot be reached it
raises DLOST (R75, R77, R86). -/
def State.deviceCommand (s : State) (g : Gable) (r : Reg) (f : State → State) : State :=
  s.when s.up (fun s =>
    if s.reachable r.domain then f (s.deviceAccess g) else s.deviceFault g (trapDlost r.addr))

/-- A register write as a command. -/
def State.poke (s : State) (g : Gable) (r : Reg) (v : Word) : State := s.deviceCommand g r (fun s => s.regWrite g r v)

end Sys2Proof.Machine
end

