-- ==== Sys2Proof/Machine/Device.lean ====
section
/-! DEFINITION. Accesses to device space (spec/00 Table SCO-6 from 0x4000_0000 up, and the Proof store): registers, the
Thatch aperture, the microcode store windows. -/

namespace Sys2Proof.Machine

/-- What an access to device space answers: a code for the exception it raises, or none; the data; whether the data are
uncorrectable. -/
structure DevAnswer where
  fault : Option Byte
  data  : Nat
  bad   : Bool
  deriving DecidableEq, Repr

def DevAnswer.ok (v : Nat) : DevAnswer := { fault := none, data := v, bad := false }
def DevAnswer.stop (c : Byte) : DevAnswer := { fault := some c, data := 0, bad := false }

/-- The bytes of a 32-bit word that an access of `n` bytes at `a` reaches. -/
def laneOf (a n : Nat) (w : Word) : Nat := w.toNat / 256 ^ (a % 4) % 256 ^ n

/-- The mask of the byte lanes of an access. -/
def laneMask (a n : Nat) : Word := BitVec.ofNat 32 ((256 ^ n - 1) * 256 ^ (a % 4))

/-- Data placed on their byte lanes. -/
def laneData (a n v : Nat) : Word := BitVec.ofNat 32 (v % 256 ^ n * 256 ^ (a % 4))

/-- An access refused under R6 records E_WINDOW with its address. An address of a listed register block where no register
stands, and a store window word that the gable may not reach, are refused in the same way: the spec does not say whether R6
or R11 applies to them (notes/assumptions/31.md). -/
def State.refuse (s : State) (g : Gable) (a : Nat) : State := s.recordFault g E_WINDOW (BitVec.ofNat 32 a)

/-- The aperture of spec/12 R231. -/
def inAperture (a : Nat) : Bool := decide (0x40068000 ≤ a) && decide (a < 0x40069000)

/-! ## The store windows (R110, spec/13 R236) -/

/-- A word of a store window is open to G0 only; another gable is refused as under R6 (notes/assumptions/31.md). -/
def State.ridgeWindowRead (s : State) (g : Gable) (off : Nat) : Word × State :=
  if g ≠ 0 then (0, s.refuse g (0x48000000 + off))
  else
    let n := off / 16
    let w := if n < 384 then s.ridge.vendor.word n else s.ridge.staging.word n
    (uword w (off % 16 / 4), s)

def State.ridgeWindowWrite (s : State) (g : Gable) (off : Nat) (v mask : Word) : State :=
  let n := off / 16
  if g ≠ 0 || n < 384 then s.refuse g (0x48000000 + off)
  else if s.rdgCommitState = 1 || s.rdgCommitState = 2 then
    s.recordFault g E_LOCKED (BitVec.ofNat 32 (0x48000000 + off))
  else
    let old := s.ridge.staging.word n
    let k := off % 16 / 4
    s.setRidge (fun r => { r with
      staging := r.staging.put n (uputWord old k ((uword old k &&& ~~~ mask) ||| (v &&& mask))) })

def State.burWindowRead (s : State) (g : Gable) (off : Nat) : Word × State :=
  if g ≠ 0 then (0, s.refuse g (0x48800000 + off))
  else
    let n := off / 16
    let w := if n < 512 then s.burin.vendor.word n else s.burin.staging.word n
    (uword w (off % 16 / 4), s)

def State.burWindowWrite (s : State) (g : Gable) (off : Nat) (v mask : Word) : State :=
  let n := off / 16
  if g ≠ 0 || n < 512 then s.refuse g (0x48800000 + off)
  else if s.burCommitState = 1 || s.burCommitState = 2 then
    s.recordFault g E_LOCKED (BitVec.ofNat 32 (0x48800000 + off))
  else
    let old := s.burin.staging.word n
    let k := off % 16 / 4
    let keep := if k = 3 then mask &&& 0xFFFF else mask
    s.setBurin (fun b => { b with
      staging := b.staging.put n (uputWord old k ((uword old k &&& ~~~ keep) ||| (v &&& keep))) })

/-- The Burin store window is reached while BUR is ON and FRC runs (R75, R86). -/
def State.burWindowOn (s : State) : Bool := s.reachable .bur

/-! ## Loads and stores -/

/-- A load of `n` naturally aligned bytes of device space. That the register's domain is reached is judged before the
rights of R6, and the fault of R86 records nothing in GAB_FAULT (notes/assumptions/32.md). -/
def State.devRead (s : State) (g : Gable) (a n : Nat) : DevAnswer × State :=
  match s.place g a with
  | .register _ =>
    if inAperture a then
      if s.reachable .pool then
        let (v, bad, s) := s.apertureLoad g (a - 0x40068000) n
        ({ fault := none, data := v, bad := bad }, s)
      else (.stop E_DLOST, s)
    else match Reg.atAddr? g (a / 4 * 4) with
      | none => (.ok 0, s.refuse g a)
      | some r =>
        if s.reachable r.domain then
          let (v, s) := s.regRead g r
          (.ok (laneOf a n v), s)
        else (.stop E_DLOST, s)
  | .ridgeStore off =>
    let (v, s) := s.ridgeWindowRead g off
    (.ok (laneOf a n v), s)
  | .burStore off =>
    if s.burWindowOn then
      let (v, s) := s.burWindowRead g off
      (.ok (laneOf a n v), s)
    else (.stop E_DLOST, s)
  | .proof off =>
    if !s.mayLoadProof g off then (.stop E_WINDOW, s)
    else if !s.domOn dPRF then (.stop E_DLOST, s)
    else (.ok (leNat (memGetAll 0 s.nv.proof off n)), s)
  | .bank _ _ _ _ => (.stop E_WINDOW, s)
  | .cwinBad => (.stop E_WINDOW, s)
  | .hole => (.stop E_WINDOW, s)

/-- The word that a store narrower than a register means: only its byte lanes are written. -/
def State.laneWrite (s : State) (r : Reg) (a n v : Nat) : Word :=
  laneData a n v ||| (s.shown r &&& r.rwMask &&& ~~~ (laneMask a n))

/-- A store of `n` naturally aligned bytes to device space, its domain judged before its rights
(notes/assumptions/32.md). The Proof store takes no store (spec/15, Table PLT-7). -/
def State.devWrite (s : State) (g : Gable) (a n v : Nat) : Option Byte × State :=
  match s.place g a with
  | .register _ =>
    if inAperture a then
      if s.reachable .pool then (none, s.apertureStore g (a - 0x40068000) n v) else (some E_DLOST, s)
    else match Reg.atAddr? g (a / 4 * 4) with
      | none => (none, s.refuse g a)
      | some r =>
        if s.reachable r.domain then (none, s.regWrite g r (s.laneWrite r a n v)) else (some E_DLOST, s)
  | .ridgeStore off => (none, s.ridgeWindowWrite g off (laneData a n v) (laneMask a n))
  | .burStore off =>
    if s.burWindowOn then (none, s.burWindowWrite g off (laneData a n v) (laneMask a n)) else (some E_DLOST, s)
  | .proof _ => (some E_WINDOW, s)
  | .bank _ _ _ _ => (some E_WINDOW, s)
  | .cwinBad => (some E_WINDOW, s)
  | .hole => (some E_WINDOW, s)

/-! ## Rows: writes of registers -/

/-- An address of memory space, which no register write reaches. -/
def Place.isBank : Place → Bool
  | .bank _ _ _ _ => true
  | .cwinBad => false
  | .proof _ => false
  | .register _ => false
  | .ridgeStore _ => false
  | .burStore _ => false
  | .hole => false

/-- REGISTER_WRITE: a gable writes a word to a register (R3 to R14, R310), with the exceptions of Table GRV-2. -/
def execRegisterWrite (g : Gable) (addr v : Word) (s : State) : Host.Outcome State Fault Refusal :=
  done s (s.when (s.up && !(s.place g addr.toNat).isBank) (fun s =>
    if addr.toNat % 4 ≠ 0 then s.deviceFault g (trapAlign addr.toNat)
    else match (s.deviceAccess g).devWrite g addr.toNat 4 v.toNat with
      | (some c, _) => s.deviceFault g (trapData c addr.toNat)
      | (none, s) => s))

/-- AVS_DISABLE: a SUP_AVS_CFG write by G0 (R29, R317). -/
def execAvsDisable (v : Word) (s : State) : Host.Outcome State Fault Refusal := done s (s.poke 0 .supAvsCfg (v &&& ~~~ (bitMask 16)))

/-- GUT_THR_WRITE (R61). -/
def execGutThrWrite (v : Word) (s : State) : Host.Outcome State Fault Refusal := done s (s.poke 0 .gutThr v)

/-- XT32_ENABLE: a CLK_CFG write with XT32_EN (R66, R67). -/
def execXt32Enable (v : Word) (s : State) : Host.Outcome State Fault Refusal :=
  done s (s.poke 0 .clkCfg (v ||| bitMask 0))

/-- EXTREF_ENABLE: a CLK_CFG write with EXTREF_EN (R66, R67). -/
def execExtrefEnable (v : Word) (s : State) : Host.Outcome State Fault Refusal :=
  done s (s.poke 0 .clkCfg (v ||| bitMask 1))

/-- TRIM_SOURCE_WRITE: a CLK_FRC_TRIM write (R69, R70). -/
def execTrimSourceWrite (v : Word) (s : State) : Host.Outcome State Fault Refusal := done s (s.poke 0 .clkFrcTrim v)

/-- CLK_GATE_WRITE (R72). -/
def execClkGateWrite (g : Gable) (v : Word) (s : State) : Host.Outcome State Fault Refusal := done s (s.poke g .clkGate v)

/-- RTC_SET: a TMR_RTC_CTL write (R79). -/
def execRtcSet (v : Word) (s : State) : Host.Outcome State Fault Refusal :=
  done s (s.poke 0 .tmrRtcCtl (v ||| bitMask 0))

/-- MOSC_TIMER_START: a TMR_S_CTL write (R81). -/
def execMoscTimerStart (g : Gable) (n : Fin 4) (v : Word) (s : State) : Host.Outcome State Fault Refusal :=
  done s (s.poke g (.tmrSCtl n) (v ||| bitMask 0))

/-- MOSC_TIMER_STOP: a TMR_S_CTL write (R81). -/
def execMoscTimerStop (g : Gable) (n : Fin 4) (v : Word) (s : State) : Host.Outcome State Fault Refusal :=
  done s (s.poke g (.tmrSCtl n) (v ||| bitMask 1))

/-- PCLK_TIMER_START: a TMR_F_CTL write (R82). -/
def execPclkTimerStart (g : Gable) (v : Word) (s : State) : Host.Outcome State Fault Refusal :=
  done s (s.poke g (.tmrFCtl g) (v ||| bitMask 0))

/-- PCLK_TIMER_STOP: a TMR_F_CTL write (R82). -/
def execPclkTimerStop (g : Gable) (v : Word) (s : State) : Host.Outcome State Fault Refusal :=
  done s (s.poke g (.tmrFCtl g) (v ||| bitMask 1))

/-- ADC_CONVERSION_REQUEST: a SNS_CONV write (R83). -/
def execAdcConversionRequest (g : Gable) (v : Word) (s : State) : Host.Outcome State Fault Refusal :=
  done s (s.poke g (.snsConv g) (v ||| bitMask 4))

/-- WARM_RESET: a PWR_RESET write by G0 (R108). -/
def execWarmReset (v : Word) (s : State) : Host.Outcome State Fault Refusal :=
  done s (s.poke 0 .pwrReset (v ||| bitMask 0))

/-- PAD_RELEASE: a PWR_PAD_RELEASE write (R97). -/
def execPadRelease (g : Gable) (v : Word) (s : State) : Host.Outcome State Fault Refusal :=
  done s (s.poke g .pwrPadRelease v)

/-- WAKE_UNMASK: a PWR_WAKE_MASKED write (R103, R104). -/
def execWakeUnmask (g : Gable) (v : Word) (s : State) : Host.Outcome State Fault Refusal :=
  done s (s.poke g .pwrWakeMasked v)

/-- RESIDENCY_SNAPSHOT: a PWR_RES_CTL write (R107). -/
def execResidencySnapshot (g : Gable) (v : Word) (s : State) : Host.Outcome State Fault Refusal :=
  done s (s.poke g .pwrResCtl (v ||| bitMask 0))

/-- RESIDENCY_CLEAR: G0 clears every counter through PWR_RES_CTL.CLR (R107). -/
def execResidencyClear (s : State) : Host.Outcome State Fault Refusal := done s (s.poke 0 .pwrResCtl (bitMask 1))

/-- RIDGE_COMMIT: an RDG_COMMIT write (R129). -/
def execRidgeCommit (v : Word) (s : State) : Host.Outcome State Fault Refusal :=
  done s (s.poke 0 .rdgCommit (v ||| bitMask 0))

/-- GABLE_SELF_RESTART: a GAB_CTL write (R219). -/
def execGableSelfRestart (g : Gable) (v : Word) (s : State) : Host.Outcome State Fault Refusal :=
  done s (s.poke g (.gabCtl g) (v ||| bitMask 0))

/-- CWIN_WRITE: a BNK_CWIN write (R180). -/
def execCwinWrite (g : Gable) (n : Fin 8) (v : Word) (s : State) : Host.Outcome State Fault Refusal :=
  done s (s.poke g (.bnkCwin n) v)

/-- BANK_BIST: a BNK_BIST write by G0 (R183). -/
def execBankBist (v : Word) (s : State) : Host.Outcome State Fault Refusal :=
  done s (s.poke 0 .bnkBist (v ||| bitMask 4))

/-- An LC_OP word: a line address and an operation (R201). -/
def lcOpWord (addr : Word) (op : Nat) : Word := putBits addr 4 0 op

/-- LC_CLEAN (R201). -/
def execLcClean (g : Gable) (addr : Word) (s : State) : Host.Outcome State Fault Refusal :=
  done s (s.poke g (.lcOp g) (lcOpWord addr 1))

/-- LC_INVALIDATE (R201). -/
def execLcInvalidate (g : Gable) (addr : Word) (s : State) : Host.Outcome State Fault Refusal :=
  done s (s.poke g (.lcOp g) (lcOpWord addr 2))

/-- LC_CLEAN_INVALIDATE (R201). -/
def execLcCleanInvalidate (g : Gable) (addr : Word) (s : State) : Host.Outcome State Fault Refusal :=
  done s (s.poke g (.lcOp g) (lcOpWord addr 3))

/-! ## Rows: Thatch operations (spec/12) -/

/-- The gable that a holder is; none for the Otireno engine. -/
def gableOf (h : Holder) : Option Gable := if g : h.val < 8 then some ⟨h.val, g⟩ else none

/-- A Thatch operation by a gable: THT_ARG takes the argument, and THT_OP the operation word. -/
def State.thtCommand (s : State) (g : Gable) (arg v : Word) : State :=
  (s.poke g (.thtArg g) arg).poke g (.thtOp g) v

/-- A THT_OP word with its operation (Table THT-2), keeping WAIT, TGT and TO of `v`. -/
def thtOpWord (op : Nat) (v : Word) : Word := putBits v 2 0 op

/-- The Otireno engine operates while POOL is ON (R234). -/
def State.linkThatch (s : State) (f : State → State) : State := s.when (s.up && s.domOn dPOOL) f

/-- ALLOC (R223). The Otireno engine asks for LINK_POOL buffers to refill its ports' receive buffers (spec/14 R262). -/
def execAlloc (h : Holder) (arg v : Word) (s : State) : Host.Outcome State Fault Refusal :=
  done s (match gableOf h with
    | some g => s.thtCommand g arg (thtOpWord 1 v)
    | none => s.linkThatch State.replenish)

/-- FREE (R224). -/
def execFree (h : Holder) (arg : Word) (s : State) : Host.Outcome State Fault Refusal :=
  done s (match gableOf h with
    | some g => s.thtCommand g arg (thtOpWord 2 0)
    | none => s.linkThatch (fun s => (s.bufOp h arg.toNat .free).2.2.2))

/-- RETAIN (R224). -/
def execRetain (h : Holder) (arg : Word) (s : State) : Host.Outcome State Fault Refusal :=
  done s (match gableOf h with
    | some g => s.thtCommand g arg (thtOpWord 3 0)
    | none => s.linkThatch (fun s => (s.bufOp h arg.toNat .retain).2.2.2))

/-- TRANSFER (R224). -/
def execTransfer (h : Holder) (arg v : Word) (s : State) : Host.Outcome State Fault Refusal :=
  done s (match gableOf h with
    | some g => s.thtCommand g arg (thtOpWord 4 v)
    | none => s.linkThatch (fun s => (s.bufOp h arg.toNat (.transfer ⟨bitsOf v 7 4 % 9, by omega⟩)).2.2.2))

/-- CANCEL (R227). -/
def execCancel (h : Holder) (s : State) : Host.Outcome State Fault Refusal :=
  done s (match gableOf h with
    | some g => s.poke g (.thtOp g) (thtOpWord 5 0)
    | none => s.linkThatch (fun s => s.cancelWait h))

/-- THT_SEL_WRITE (R224, R231). -/
def execThtSelWrite (g : Gable) (v : Word) (s : State) : Host.Outcome State Fault Refusal := done s (s.poke g (.thtSel g) v)

/-- WAIT_ACK: a THT_WAIT write with ACK (R227). -/
def execWaitAck (g : Gable) (s : State) : Host.Outcome State Fault Refusal := done s (s.poke g (.thtWait g) (bitMask 31))

/-- THATCH_SNAPSHOT: a THT_STAT_CTL write by G0 (R229). -/
def execThatchSnapshot (s : State) : Host.Outcome State Fault Refusal := done s (s.poke 0 .thtStatCtl 1)

/-- APERTURE_ACCESS (R231): an access with the exceptions of Table GRV-2; a load's data are shown in the model's `rdata`
(notes/assumptions/5.md). -/
def execApertureAccess (g : Gable) (off : BitVec 12) (size : Size) (a : Access) (s : State) :
    Host.Outcome State Fault Refusal :=
  done s (s.when s.up (fun s =>
    if off.toNat % sizeBytes size ≠ 0 then s.deviceFault g (trapAlign (0x40068000 + off.toNat))
    else if !s.reachable .pool then s.deviceFault g (trapDlost (0x40068000 + off.toNat))
    else match a with
      | .load =>
        match (s.deviceAccess g).apertureLoad g off.toNat (sizeBytes size) with
        | (v, bad, s) =>
          if bad then s.deviceFault g (trapDecc (0x40068000 + off.toNat)) else { s with rdata := BitVec.ofNat 32 v }
      | .store v => (s.deviceAccess g).apertureStore g off.toNat (sizeBytes size) (v.toNat % 256 ^ sizeBytes size)))

/-! ## Rows: Burin registers (spec/13) -/

/-- BURIN_COMMIT: a BUR_COMMIT write by G0 (R244). -/
def execBurinCommit (v : Word) (s : State) : Host.Outcome State Fault Refusal :=
  done s (s.poke 0 .burCommit (v ||| bitMask 0))

/-- BURIN_START: a BUR_CTL_n write with START (R247). -/
def execBurinStart (g : Gable) (n : EngineNo) (v : Word) (s : State) : Host.Outcome State Fault Refusal :=
  done s (s.poke g (.burCtl n) (v ||| bitMask 0))

/-- BURIN_HALT: a BUR_CTL_n write with HALT (R247). -/
def execBurinHalt (g : Gable) (n : EngineNo) (s : State) : Host.Outcome State Fault Refusal :=
  done s (s.poke g (.burCtl n) (bitMask 1))

/-- FLUSH_TX. -/
def execFlushTx (g : Gable) (n : EngineNo) (s : State) : Host.Outcome State Fault Refusal :=
  done s (s.poke g (.burCtl n) (bitMask 2))

/-- FLUSH_RX. -/
def execFlushRx (g : Gable) (n : EngineNo) (s : State) : Host.Outcome State Fault Refusal :=
  done s (s.poke g (.burCtl n) (bitMask 3))

/-- SWF_SET. -/
def execSwfSet (g : Gable) (n : EngineNo) (s : State) : Host.Outcome State Fault Refusal :=
  done s (s.poke g (.burCtl n) (bitMask 4))

/-- SWF_CLR. -/
def execSwfClr (g : Gable) (n : EngineNo) (s : State) : Host.Outcome State Fault Refusal :=
  done s (s.poke g (.burCtl n) (bitMask 5))

/-- BUR_TXF_WRITE (R249). -/
def execBurTxfWrite (g : Gable) (n : EngineNo) (v : Word) (s : State) : Host.Outcome State Fault Refusal :=
  done s (s.poke g (.burTxf n) v)

/-- A register read as a command: its value is shown in the model's `rdata` (notes/assumptions/5.md). -/
def State.peek (s : State) (g : Gable) (r : Reg) : State :=
  s.deviceCommand g r (fun s =>
    let (v, s) := s.regRead g r
    { s with rdata := v })

/-- BUR_RXF_READ (R249). -/
def execBurRxfRead (g : Gable) (n : EngineNo) (s : State) : Host.Outcome State Fault Refusal := done s (s.peek g (.burRxf n))

/-! ## Rows: Purlin registers (spec/14) -/

/-- RETRAIN: a PUR_PCTL_n write by G0 (R254). -/
def execRetrain (p : Port) (s : State) : Host.Outcome State Fault Refusal := done s (s.poke 0 (.purPctl p) 1)

/-- SWAP: a PUR_PCTL_n write by G0 (R263); the ticket that the noise RNG draws comes with the command. -/
def execSwap (p : Port) (tkt : BitVec 16) (s : State) : Host.Outcome State Fault Refusal :=
  done s (s.deviceCommand 0 (.purPctl p) (fun s => s.pctlTake p 2 tkt))

/-- PUR_REPLY (R273). -/
def execPurReply (g : Gable) (v : Word) (s : State) : Host.Outcome State Fault Refusal := done s (s.poke g (.purReply g) v)

/-- MSGQ_READ: a PUR_MSGQ read (R273). -/
def execMsgqRead (g : Gable) (s : State) : Host.Outcome State Fault Refusal := done s (s.peek g (.purMsgq g))

end Sys2Proof.Machine
end

