-- ==== Sys2Proof/Machine/PurlinCmd.lean ====
section
/-! DEFINITION. Otireno commands (spec/14, "Sessions", "Response timing and BUSY", "Operations"; spec/15, "BARE
state"). -/

namespace Sys2Proof.Machine

/-! ## Receipt -/

/-- A command at a trained port is a PUR wake while the warden does not run (R105). -/
def State.cmdWake (s : State) (p : Port) : State := if s.running then s else s.purWake p

/-- While it reads 1, commands are answered with E_BUSY (spec/02 R36). -/
def State.refusing (s : State) : Bool := s.up && (s.braced || s.storm)

/-! ## PING -/

/-- PING: its 8 bytes come back with the flags. -/
def execPing (f : Frame) (s : State) : Host.Outcome State Fault Refusal :=
  done s (s.receive f (fun s => s.when (f.opc = opcPing) (fun s =>
    if f.data.length ≠ 8 then s.discardFrame f.port
    else
      let more := BitVec.ofNat 8 (bitAt s.refusing 0 + bitAt s.bare 1)
      (s.cmdWake f.port).sendCtl f.port (.ping (f.data ++ [more])))))

/-! ## OPEN (R265 to R267, R274) -/

/-- The credential that an OPEN of a gable with a method is checked against: the key or verifier, and the salt. -/
def State.openKey (s : State) (g : Gable) (method : Nat) : Option (List Byte × List Byte) :=
  if s.bare then
    match s.rootCopy with
    | none => none
    | some r => if g = 0 && method = 0 && r.recovery.any (fun b => b ≠ 0) then some (r.recovery, []) else none
  else if !(s.descOf g).present then none
  else match s.cfg.creds[g.val], method with
    | some (.key k), 0 => some (k, [])
    | some (.password salt v), 1 => some (v, salt)
    | _, _ => none

/-- CTX of R265. -/
def openCtx (p : Port) (g : Gable) (method : Byte) : List Byte := [0x4F, BitVec.ofNat 8 p.val, BitVec.ofNat 8 g.val, method]

/-- A gable is locked out. -/
def State.lockedOut (s : State) (g : Gable) : Bool := (s.lockOf g).since.isSome

/-- Checks 3 and 4 of R266. -/
def State.openBars (s : State) (g : Gable) : List (Bool × Byte) :=
  [(s.lockedOut g, E_LOCKED), ((s.gab g).stopped && decide (g ≠ 0), E_BUSY)]

/-- Answer an OPEN. -/
def State.openAnswer (s : State) (f : Frame) (code : Byte) (data : List Byte) : State :=
  s.sendCtl f.port (.openResp f.sess code data)

/-- Replace the unfinished step 1 of a gable on a port. -/
def State.setOpen (s : State) (g : Gable) (p : Port) (x : Option OpenStep) : State :=
  s.setPurlin (fun u => { u with opens := vmod u.opens g (fun v => vset v p x) })

/-- Step 1: NW comes from the noise RNG. -/
def State.openStep1 (s : State) (f : Frame) (noise : List Byte) : State :=
  let method := f.data.headD 0
  let g := f.sess
  let key := s.openKey g method.toNat
  match firstFail ([(decide (1 < method.toNat), E_RSVD), (key.isNone, E_AUTH)] ++ s.openBars g) with
  | some c => s.openAnswer f c []
  | none =>
    let nw := (noise ++ List.replicate 16 0).take 16
    (s.setOpen g f.port (some { method := method, nc := f.data.drop 1, nw := nw, at_ := s.now })).openAnswer f E_OK
      (nw ++ (key.elim [] (fun k => k.2)))

/-- A session opens: the previous one of the gable on the port closes, and line 28 pends. -/
def State.openSession (s : State) (g : Gable) (p : Port) (ks : List Byte) : State :=
  let s := s.closeSession g p
  (s.putSession g p (some
    { ks := ks, lastSeq := 0, cached := none, pending := none, badTags := 0, winPtr := 0, usedAt := s.now,
      recovery := s.bare })).pendLine g 28

/-- Step 2 with the step 1 that it follows. -/
def State.openFinish (s : State) (f : Frame) (o : OpenStep) (k : List Byte) : State :=
  let g := f.sess
  let ctx := openCtx f.port g o.method
  if f.data = (hmac k (1 :: ctx ++ o.nw ++ o.nc)).take 16 then
    let s := s.setLock g Lock.reset
    (s.openSession g f.port (hmac k (3 :: ctx ++ o.nc ++ o.nw))).openAnswer f E_OK
      ((hmac k (2 :: ctx ++ o.nc ++ o.nw)).take 16)
  else (s.setLock g ((s.lockOf g).fail s.now)).openAnswer f E_AUTH []

/-- Step 2. -/
def State.openStep2 (s : State) (f : Frame) : State :=
  let g := f.sess
  let step := (s.purlin.opens[g.val])[f.port.val]
  let some1 := (s.openKey g 0).isSome || (s.openKey g 1).isSome
  match firstFail ([(!some1, E_AUTH)] ++ s.openBars g) with
  | some c => s.openAnswer f c []
  | none =>
    let s := s.setOpen g f.port none
    match step with
    | none => s.openAnswer f E_TIMEOUT []
    | some o =>
      if 1000 < s.now - o.at_ then s.openAnswer f E_TIMEOUT []
      else match s.openKey g o.method.toNat with
        | none => s.openAnswer f E_AUTH []
        | some k => s.openFinish f o k.1

/-- OPEN. While braced or in a storm it is answered with E_BUSY and has no effect (spec/02 R36). -/
def execOpenSession (f : Frame) (noise : List Byte) (s : State) : Host.Outcome State Fault Refusal :=
  done s (s.receive f (fun s => s.when (f.opc = opcOpen) (fun s =>
    if !((f.flags = 0 && f.data.length = 17) || (f.flags = 1 && f.data.length = 16)) then s.discardFrame f.port
    else if s.refusing then s.openAnswer f E_BUSY []
    else
      let s := s.cmdWake f.port
      if f.flags = 0 then s.openStep1 f noise
      else s.openStep2 f)))

/-- A lockout of 2^LEVEL s has passed (R267). -/
def Lock.over (l : Lock) (now : Nat) : Bool := l.since.elim false (fun t => decide (t + 1000000 * 2 ^ l.level ≤ now))

/-- LOCKOUT_EXPIRY (R267). -/
def execLockoutExpiry (g : Gable) (s : State) : Host.Outcome State Fault Refusal :=
  done s (s.when ((s.lockOf g).over s.now) (fun s => s.setLock g { s.lockOf g with since := none }))

/-! ## Register access by a session (R272) -/

/-- Registers and store windows: what READ_REG and WRITE_REG reach. -/
def regSpace (a : Nat) : Bool := decide (0x40000000 ≤ a)

/-- The code that an access would record in a gable's GAB_FAULT. -/
def State.recorded (s : State) (g : Gable) (f : State → State) : Option Byte :=
  let w := (f (s.setReg (.gabFault g) 0)).reg (.gabFault g)
  if bitsOf w 15 8 = 0 then none else some (BitVec.ofNat 8 (bitsOf w 7 0))

/-- A CLK_GATE word whose change R72 refuses. -/
def State.gateWordRefused (s : State) (a : Nat) (v : Word) : Bool :=
  decide (a = Reg.addr .clkGate) && (s.gateRefusal (s.disabledBy v)).isSome

/-- An access outside the bound gable's rights: E_WINDOW, recorded as R6 gives (R7). -/
def State.outside (s : State) (g : Gable) (a : Nat) : State := s.recordFault g E_WINDOW (BitVec.ofNat 32 a)

/-- Record an access that ended with E_WINDOW for the bound gable. -/
def State.outsideBy (s : State) (g : Gable) (a : Nat) (code : Byte) : State := if code = E_WINDOW then s.outside g a else s

/-- One word of READ_REG: its code, its value, and the state. -/
def State.wordRead (s : State) (g : Gable) (a : Nat) : Byte × Word × State :=
  if !regSpace a then (E_WINDOW, 0, s.outside g a)
  else
    let (x, t) := s.devRead g a 4
    let t := x.fault.elim t (fun c => t.outsideBy g a c)
    let code := match x.fault with
      | some c => c
      | none => if x.bad then E_RANGE else (s.recorded g (fun u => (u.devRead g a 4).2)).getD E_OK
    (code, BitVec.ofNat 32 x.data, t)

/-- One word of WRITE_REG: its code and the state. -/
def State.wordWrite (s : State) (g : Gable) (a : Nat) (v : Word) : Byte × State :=
  if !regSpace a then (E_WINDOW, s.outside g a)
  else
    let (fault, t) := s.devWrite g a 4 v.toNat
    let t := fault.elim t (fun c => t.outsideBy g a c)
    let code := match fault with
      | some c => c
      | none => match s.recorded g (fun u => (u.devWrite g a 4 v.toNat).2) with
        | some c => c
        | none => if s.gateWordRefused a v then E_BUSY else E_OK
    (code, t)

/-- Words of READ_REG from an address: the first failing code, the values, and the state. -/
def State.wordsRead (s : State) (g : Gable) (a : Nat) : Nat → Byte × List Byte × State
  | 0 => (E_OK, [], s)
  | n + 1 =>
    let (c, data, t) := s.wordsRead g a n
    let (c2, v, t) := t.wordRead g (a + 4 * n)
    (if c = E_OK then c2 else c, data ++ beBytes 4 v.toNat, t)

/-- Words of WRITE_REG: the code of the word that failed, how many were written, and the state. -/
def writeWords (write : State → Nat → Word → Byte × State) (s : State) (a : Nat) : List Word → Nat → Byte × Nat × State
  | [], k => (E_OK, k, s)
  | v :: rest, k =>
    match write s a v with
    | (c, t) => if c = E_OK then writeWords write t (a + 4) rest (k + 1) else (c, k, t)

/-- The 32-bit values of DATA, most significant byte first (R258). -/
def wordsOf : Nat → List Byte → List Word
  | 0, _ => []
  | n + 1, bs => BitVec.ofNat 32 (beNat (bs.take 4)) :: wordsOf n (bs.drop 4)

/-! ## Recovery (spec/15 R287) -/

/-- The NVM bytes that a recovery session reaches. -/
def nvmSpan : Nat := 0x200000

/-- A write of PLT_RCV_CTL in a recovery session: its code and the state. A wrong KEY is answered as a reserved
encoding, and records nothing, since BARE runs no gable (notes/assumptions/33.md). Which cause of PWR_RESET_CAUSE the
cold start shows is not stated, and is free. -/
def State.rcvCtl (s : State) (v : Word) : Byte × State :=
  let acts := v.getLsbD 0 || v.getLsbD 1
  if acts && keyOf v ≠ 0xC7 then (E_RSVD, s)
  else
    let s := if v.getLsbD 0 then
      s.setNv (fun n =>
        { n with
          nvm := nvmErase n.nvm (0x1000 * bitsOf v 24 16) 0x1000
          erased := if n.erased.contains (bitsOf v 24 16) then n.erased else n.erased ++ [bitsOf v 24 16] }) else s
    if v.getLsbD 1 then
      let (w, s) := s.freshWord
      (E_OK, { s with life := .waiting (BitVec.ofNat 3 (w.toNat % 6)) })
    else (E_OK, s)

/-- One word of WRITE_REG in a recovery session. -/
def State.rcvWrite (s : State) (a : Nat) (v : Word) : Byte × State :=
  if a = Reg.addr .pltRcvCtl then s.rcvCtl v else (E_WINDOW, s)

/-! ## Window access by a session (R272) -/

/-- The size of the next naturally aligned access of a burst. -/
def burstSize (a left : Nat) : Nat :=
  if a % 4 = 0 && 4 ≤ left then 4 else if a % 2 = 0 && 2 ≤ left then 2 else 1

/-- One read of the window port: its code, its bytes, whether they were uncorrectable, and the state. R272 lists no order of
the two checks of a bank access, so the lower code counts (spec/00 R13). -/
def State.winLoad (s : State) (g : Gable) (a n : Nat) : Byte × List Byte × Bool × State :=
  if s.bare then
    if a + n ≤ nvmSpan then (E_OK, memGetAll 0xFF s.nv.nvm.bytes a n, false, s) else (E_WINDOW, [], false, s)
  else match s.place g a with
    | .bank b _ isAlias ring =>
      if !s.pathOn b isAlias then (E_DLOST, [], false, s)
      else if !s.cfg.may g .r b then (E_WINDOW, [], false, s.outside g a)
      else
        let (bs, bad, s) :=
          if isAlias then
            let x := (s.evictHolder (b / 32)).bankRead reqWindow (wordOf b)
            ((x.1.drop (b % 8)).take n, x.2.1, x.2.2)
          else s.cacheRead .window g b n ring
        if bad then (E_RANGE, [], true, s) else (E_OK, bs, false, s)
    | .cwinBad => (E_WINDOW, [], false, s.outside g a)
    | .proof _ => (E_WINDOW, [], false, s.outside g a)
    | .register _ => (E_WINDOW, [], false, s.outside g a)
    | .ridgeStore _ => (E_WINDOW, [], false, s.outside g a)
    | .burStore _ => (E_WINDOW, [], false, s.outside g a)
    | .hole => (E_WINDOW, [], false, s.outside g a)

/-- A sector of the NVM is erased: every byte of it is, or the warden erased it, and what it holds was programmed since. -/
def Nonvolatile.sectorErased (n : Nonvolatile) (k : Nat) : Bool :=
  n.erased.contains k || n.nvm.bytes.all (fun c => decide (c.1 / 0x1000 ≠ k))

/-- Bytes that lie in erased sectors and were not programmed since (spec/15 R287). -/
def Nonvolatile.mayProgram (n : Nonvolatile) (a count : Nat) : Bool :=
  (List.range count).all (fun k => n.sectorErased ((a + k) / 0x1000) && decide (nvmByte n.nvm (a + k) = 0xFF))

/-- Program bytes; a sector that was found erased counts as one that the warden erased. -/
def Nonvolatile.program (n : Nonvolatile) (a : Nat) (bs : List Byte) : Nonvolatile :=
  { n with
    nvm := nvmProgram n.nvm a bs
    erased := (List.range bs.length).foldl (fun l k =>
      if l.contains ((a + k) / 0x1000) then l else l ++ [(a + k) / 0x1000]) n.erased }

/-- One write of the window port: its code and the state. In a recovery session the bytes must lie in erased sectors. -/
def State.winStore (s : State) (g : Gable) (a : Nat) (bs : List Byte) : Byte × State :=
  if s.bare then
    if nvmSpan < a + bs.length then (E_WINDOW, s)
    else if !s.nv.mayProgram a bs.length then (E_RANGE, s)
    else (E_OK, s.setNv (fun n => n.program a bs))
  else match s.place g a with
    | .bank b kind isAlias ring =>
      if !s.pathOn b isAlias then (E_DLOST, s)
      else if !s.cfg.may g .w b then (E_WINDOW, s.outside g a)
      else if isAlias then (E_OK, (s.evictHolder (b / 32)).bankAlias reqWindow b bs kind)
      else (E_OK, s.cacheWrite .window g b bs ring)
    | .cwinBad => (E_WINDOW, s.outside g a)
    | .proof _ => (E_WINDOW, s.outside g a)
    | .register _ => (E_WINDOW, s.outside g a)
    | .ridgeStore _ => (E_WINDOW, s.outside g a)
    | .burStore _ => (E_WINDOW, s.outside g a)
    | .hole => (E_WINDOW, s.outside g a)

/-- A read burst of `left` bytes, in at most `fuel` accesses: code, bytes, uncorrectable, state. -/
def State.winReads (g : Gable) : Nat → State → Nat → Nat → Byte × List Byte × Bool × State
  | 0, s, _, _ => (E_OK, [], false, s)
  | fuel + 1, s, a, left =>
    if left = 0 then (E_OK, [], false, s)
    else
      let n := burstSize a left
      match s.winLoad g a n with
      | (c, bs, ue, s) =>
        if c ≠ E_OK then (c, [], ue, s)
        else
          let (c, more, ue, s) := State.winReads g fuel s (a + n) (left - n)
          (c, bs ++ more, ue, s)

/-- A write burst: code, bytes written, state. -/
def State.winWrites (g : Gable) : Nat → State → Nat → List Byte → Byte × Nat × State
  | 0, s, _, _ => (E_OK, 0, s)
  | fuel + 1, s, a, bs =>
    if bs.isEmpty then (E_OK, 0, s)
    else
      let n := burstSize a bs.length
      match s.winStore g a (bs.take n) with
      | (c, s) =>
        if c ≠ E_OK then (c, 0, s)
        else
          let (c, k, s) := State.winWrites g fuel s (a + n) (bs.drop n)
          (c, n + k, s)

/-- The address that a window command starts at, and the rest of its DATA. -/
def winStart (f : Frame) (x : Session) : Nat × List Byte :=
  if f.flags.getLsbD 0 then (beNat (f.data.take 4), f.data.drop 4) else (x.winPtr.toNat, f.data)

/-- Move a session's window pointer. -/
def State.setWinPtr (s : State) (f : Frame) (a : Nat) : State :=
  s.setSession f.sess f.port (fun x => { x with winPtr := BitVec.ofNat 32 a })

/-! ## Performing a command (R270 to R273) -/

/-- Respond to a frame's command. -/
def State.answer (s : State) (f : Frame) (opc : BitVec 4) (flags code : Byte) (data : List Byte) : State :=
  s.respond f.sess f.port opc flags code f.seq data

def State.performReadReg (s : State) (f : Frame) : State :=
  let a := beNat (f.data.take 4)
  let count := (f.data.getD 4 0).toNat
  match firstFail
      [(decide (f.data.length ≠ 5) || decide (count = 0) || decide (16 < count), E_RANGE),
       (decide (a % 4 ≠ 0), E_ALIGN)] with
  | some c => s.answer f opcReadReg 0 c []
  | none =>
    let (c, data, t) := s.wordsRead f.sess a count
    t.answer f opcReadReg 0 c data

def State.performWriteReg (s : State) (f : Frame) : State :=
  let a := beNat (f.data.take 4)
  let count := (f.data.getD 4 0).toNat
  match firstFail
      [(decide (f.data.length ≠ 5 + 4 * count) || decide (count = 0) || decide (16 < count), E_RANGE),
       (decide (a % 4 ≠ 0), E_ALIGN)] with
  | some c => s.answer f opcWriteReg 0 c [0]
  | none =>
    let write := fun (t : State) (a : Nat) (v : Word) => if s.bare then t.rcvWrite a v else t.wordWrite f.sess a v
    let (c, k, t) := writeWords write s a (wordsOf count (f.data.drop 5)) 0
    t.answer f opcWriteReg 0 c [BitVec.ofNat 8 k]

def State.performWinRead (s : State) (f : Frame) (x : Session) : State :=
  let (a, rest) := winStart f x
  let count := beNat rest
  if rest.length ≠ 2 || count = 0 || 256 < count then s.answer f opcWinRead 0 E_RANGE (beBytes 2 0)
  else
    let (c, bs, ue, t) := State.winReads f.sess count s a count
    (t.setWinPtr f (a + bs.length)).answer f opcWinRead (if ue then 2 else 0) c (bs ++ beBytes 2 bs.length)

def State.performWinWrite (s : State) (f : Frame) (x : Session) : State :=
  let (a, bs) := winStart f x
  if bs.isEmpty || 256 < bs.length then s.answer f opcWinWrite 0 E_RANGE (beBytes 2 0)
  else
    let (c, k, t) := State.winWrites f.sess bs.length s a bs
    (t.setWinPtr f (a + k)).answer f opcWinWrite 0 c (beBytes 2 k)

/-- The message queue of a gable has eight entries (R273). -/
def msgqSize : Nat := 8

/-- The payload of a message buffer (R273). -/
def msgPayload (f : Frame) : List Byte :=
  leBytes 2 f.data.length ++ [BitVec.ofNat 8 f.port.val, f.flags] ++ leBytes 4 f.seq.toNat ++ f.data

/-- Write bytes to memory within 8-byte words, past the cache (R190). -/
def State.putBytes (s : State) (a : Nat) (bs : List Byte) : State :=
  (List.range ((bs.length + 7) / 8)).foldl
    (fun (t : State) k => t.bankWrite (a + 8 * k) ((bs.drop (8 * k)).take 8)) (s.evictRange a bs.length)

/-- Hand a message buffer to the bound gable: it leaves the port's receive buffers, which are filled again. A message that
needs the firmware's answer starts a boost (spec/11 R212, R270, R271). -/
def State.msgDeliver (s : State) (f : Frame) (a : Nat) (at_ : Nat) : State :=
  let g := f.sess
  let s := s.setPort f.port (fun q => { q with empty := q.empty.erase a })
  let s := s.setPurlin (fun u => { u with msgq := vmod u.msgq g (fun l => l ++ [a]) })
  let s := s.pendLine g 27
  let s := if f.flags.getLsbD 0 then
      (s.boostStart g).setSession g f.port (fun x =>
        { x with pending := some { opc := opcMsgSend, seq := f.seq, reply := true, at_ := at_, order := s.purlin.received, frame := none } })
    else s.answer f opcMsgSend 0 E_OK []
  s.replenish

/-- MSG_SEND (R273); a failure leaves the buffer with holder 8, and it is receiver-free again. -/
def State.performMsgSend (s : State) (f : Frame) (at_ : Nat) : State :=
  let g := f.sess
  if f.data.isEmpty || 480 < f.data.length then (s.bufferBack f.port).answer f opcMsgSend 0 E_RANGE []
  else match (s.port f.port).empty.head? with
    | none => s
    | some a =>
      if msgqSize ≤ (s.purlin.msgq[g.val]).length then (s.bufferBack f.port).answer f opcMsgSend 0 E_BUSY []
      else
        match (s.putBytes (a + 8) (msgPayload f)).bufOp 8 a (.transfer (holderOf g)) with
        | (code, _, _, t) =>
          if code = E_OK then t.msgDeliver f a at_ else (t.bufferBack f.port).answer f opcMsgSend 0 code []

/-- Perform an accepted command by its opcode. A recovery session performs no other than CLOSE, WRITE_REG, WIN_READ and
WIN_WRITE (R274). Every buffer but that of a delivered message is then receiver-free again. -/
def State.perform (s : State) (opc : BitVec 4) (f : Frame) (at_ : Nat) : State :=
  match s.session f.sess f.port with
  | none => s.bufferBack f.port
  | some x =>
    if s.bare && (opc = opcReadReg || opc = opcMsgSend) then (s.bufferBack f.port).answer f opc 0 E_NOSVC []
    else if opc = opcClose then ((s.bufferBack f.port).answer f opc 0 E_OK []).closeSession f.sess f.port
    else if opc = opcReadReg then (s.bufferBack f.port).performReadReg f
    else if opc = opcWriteReg then (s.bufferBack f.port).performWriteReg f
    else if opc = opcWinRead then (s.bufferBack f.port).performWinRead f x
    else if opc = opcWinWrite then (s.bufferBack f.port).performWinWrite f x
    else if opc = opcMsgSend then s.performMsgSend f at_
    else s.bufferBack f.port

/-! ## The checks of a sequenced command (R268) -/

/-- The superframes until a command's deadline of 1 ms, rounded up (R270). -/
def State.retryOf (s : State) (at_ : Nat) : Nat := min 63 (max 1 ((at_ + 1000 - s.now + 15) / 16))

/-- Queue BUSY for a command of a session. -/
def State.sendBusy (s : State) (g : Gable) (p : Port) (x : Session) (seq : Word) (at_ : Nat) : State :=
  s.sendCtl p (x.response opcBusy 0 g E_BUSY seq [BitVec.ofNat 8 (s.retryOf at_)])

/-- Check 2's failure: the sixteenth closes the session (R269). -/
def State.badTag (s : State) (g : Gable) (p : Port) : State :=
  match s.session g p with
  | none => s
  | some x =>
    let s := s.satField (.purPsec p) 15 0
    if 15 ≤ x.badTags then s.closeSession g p
    else s.setSession g p (fun x => { x with badTags := x.badTags + 1 })

/-- A duplicate of the last accepted command (check 3). Right after OPEN the last accepted SEQ is 0 and no response is
cached; a command with SEQ 0 is then answered with nothing (notes/assumptions/36.md). -/
def State.resend (s : State) (g : Gable) (p : Port) (x : Session) : State :=
  match x.pending, x.cached with
  | some c, _ => s.sendBusy g p x c.seq c.at_
  | none, some f => s.sendData p f
  | none, none => s

/-- Accept a command's SEQ. -/
def State.acceptSeq (s : State) (f : Frame) : State :=
  (s.setPurlin (fun u => { u with received := u.received + 1 })).setSession f.sess f.port (fun x => { x with lastSeq := f.seq, cached := none, usedAt := s.now })

/-- A window command reaches the bank under test (spec/09 R183). -/
def State.windowWaits (s : State) (opc : BitVec 4) (f : Frame) : Bool :=
  s.banks.bist.isSome && (opc = opcWinRead || opc = opcWinWrite) && (s.session f.sess f.port).elim false (fun x =>
    (List.range 256).any (fun k => s.underTest f.sess (if opc = opcWinRead then .r else .w) ((winStart f x).1 + k)))

/-- A command has to wait before it is performed: for a transition between global states to complete (R270), for a bank's
self-test to end, or, a MSG_SEND, for POOL, whose buffers it moves, to be ON (spec/12 R232, notes/assumptions/54.md). -/
def State.defers (s : State) (opc : BitVec 4) (f : Frame) : Bool :=
  s.up && (decide (s.power.gstate = .trans) || (opc = opcMsgSend && !s.domOn dPOOL) || s.windowWaits opc f)

/-- A command whose SEQ was accepted (checks 6 and 7): it is performed, or waits. -/
def State.accepted (s : State) (opc : BitVec 4) (f : Frame) : State :=
  let s := s.acceptSeq f
  if s.refusing then (s.bufferBack f.port).answer f opc 0 E_BUSY []
  else
    let s := s.cmdWake f.port
    if s.defers opc f then
      s.setSession f.sess f.port (fun x =>
        { x with pending := some { opc := opc, seq := f.seq, reply := false, at_ := s.now, order := s.purlin.received, frame := some f } })
    else s.perform opc f s.now

/-- The checks of R268 on a frame that was received whole. -/
def State.checked (s : State) (opc : BitVec 4) (f : Frame) (x : Session) : State :=
  let g := f.sess
  let p := f.port
  if f.tag ≠ frameTag x.ks false (frameBody false opc f.flags g 0 f.seq f.data) then (s.badTag g p).bufferBack p
  else if f.seq = x.lastSeq then ((s.cmdWake p).resend g p x).bufferBack p
  else if f.seq ≠ x.lastSeq + 1 then (s.satField (.purPsec p) 31 16).bufferBack p
  else if x.pending.isSome then ((s.cmdWake p).sendBusy g p x f.seq s.now).bufferBack p
  else s.accepted opc f

/-- A sequenced command arrives: discarded where no empty buffer takes it (R261) or the gable has no session. -/
def State.command (s : State) (opc : BitVec 4) (f : Frame) : State :=
  s.receive f (fun s => s.when (f.opc = opc) (fun s =>
    if (s.port f.port).empty.length ≤ s.portHeld f.port then s.discardFrame f.port
    else match s.session f.sess f.port with
      | none => (s.discardFrame f.port).bufferBack f.port
      | some x => s.checked opc f x))

/-- Put a deferred command behind those received before it. -/
def insertDeferred (x : Nat × Gable × Port) : List (Nat × Gable × Port) → List (Nat × Gable × Port)
  | [] => [x]
  | y :: rest => if x.1 ≤ y.1 then x :: y :: rest else y :: insertDeferred x rest

/-- The sessions with a deferred command, in order of receipt. -/
def State.deferred (s : State) : List (Nat × Gable × Port) :=
  ((List.finRange 8).flatMap (fun g => (List.finRange 2).filterMap (fun p =>
    (s.session g p).bind (fun x => x.pending.bind (fun c => if c.frame.isSome then some (c.order, g, p) else none))))).foldr
    insertDeferred []

/-- Perform a session's deferred command. -/
def State.performPending (s : State) (g : Gable) (p : Port) : State :=
  match s.session g p with
  | none => s
  | some x => match x.pending with
    | none => s
    | some c => match c.frame with
      | none => s
      | some f =>
        if s.defers c.opc f then s
        else
          let s := s.setSession g p (fun x => { x with pending := none })
          if s.refusing then (s.bufferBack p).answer f c.opc 0 E_BUSY [] else s.perform c.opc f c.at_

/-- Perform the commands that waited, in order of receipt (R270). -/
def State.performDeferred (s : State) : State :=
  s.deferred.foldl (fun (t : State) x => t.performPending x.2.1 x.2.2) s

/-! ## Rows -/

/-- CLOSE. -/
def execClose (f : Frame) (s : State) : Host.Outcome State Fault Refusal := done s (s.command opcClose f)

/-- READ_REG. -/
def execReadReg (f : Frame) (s : State) : Host.Outcome State Fault Refusal := done s (s.command opcReadReg f)

/-- WRITE_REG. -/
def execWriteReg (f : Frame) (s : State) : Host.Outcome State Fault Refusal := done s (s.command opcWriteReg f)

/-- WIN_READ. -/
def execWinRead (f : Frame) (s : State) : Host.Outcome State Fault Refusal := done s (s.command opcWinRead f)

/-- WIN_WRITE. -/
def execWinWrite (f : Frame) (s : State) : Host.Outcome State Fault Refusal := done s (s.command opcWinWrite f)

/-- MSG_SEND. -/
def execMsgSend (f : Frame) (s : State) : Host.Outcome State Fault Refusal := done s (s.command opcMsgSend f)

/-- A frame is a WRITE_REG of PLT_RCV_CTL alone that sets bit `k`. -/
def rcvFrame (f : Frame) (k : Nat) : Bool :=
  decide (f.data.length = 9) && decide (beNat (f.data.take 4) = Reg.addr .pltRcvCtl) &&
    (BitVec.ofNat 32 (beNat (f.data.drop 5))).getLsbD k

/-- RECOVERY_ERASE: a WRITE_REG of PLT_RCV_CTL with ERASE in a recovery session (spec/15 R287). -/
def execRecoveryErase (f : Frame) (s : State) : Host.Outcome State Fault Refusal :=
  done s (s.when (s.bare && rcvFrame f 0) (fun s => s.command opcWriteReg f))

/-- RECOVERY_REBOOT: a WRITE_REG of PLT_RCV_CTL with REBOOT in a recovery session (spec/15 R287). -/
def execRecoveryReboot (f : Frame) (s : State) : Host.Outcome State Fault Refusal :=
  done s (s.when (s.bare && rcvFrame f 1) (fun s => s.command opcWriteReg f))

/-- REPLY_TIMEOUT: receipt + 960 us without a reply (R271). -/
def execReplyTimeout (g : Gable) (p : Port) (s : State) : Host.Outcome State Fault Refusal :=
  done s (s.when ((s.replyPending g p).elim false (fun c => decide (c.at_ + 960 ≤ s.now))) (fun s => s.timeoutReply g p))

/-- BUSY_DEADLINE: the response of the pending command is not queued by S + 24 us (R270). -/
def execBusyDeadline (g : Gable) (p : Port) (s : State) : Host.Outcome State Fault Refusal :=
  done s (match s.session g p with
    | none => s
    | some x => match x.pending with
      | none => s
      | some c => s.sendBusy g p x c.seq c.at_)

/-- IDLE_TO seconds have passed without an accepted command; never while IDLE_TO is 0 (R269). -/
def State.idleOver (s : State) (x : Session) : Bool :=
  decide (s.fieldOf .purCfg 7 0 ≠ 0) && decide (x.usedAt + 1000000 * s.fieldOf .purCfg 7 0 ≤ s.now)

/-- SESSION_IDLE_TIMEOUT (R269). -/
def execSessionIdleTimeout (g : Gable) (p : Port) (s : State) : Host.Outcome State Fault Refusal :=
  done s (s.when ((s.session g p).elim false (fun x => s.idleOver x)) (fun s => s.closeSession g p))

end Sys2Proof.Machine
end

