-- ==== Sys2Proof/Machine/Graver.lean ====
section
/-! DEFINITION. What every Graver instruction shares (spec/07): who may run, fetch, retirement, taking an exception,
loads and stores. -/

namespace Sys2Proof.Machine

/-! ## Who runs -/

/-- Event entry is due before the next instruction of a gable (R149). -/
def State.eventDue (s : State) (g : Gable) : Bool := !s.bitOf (.gabTstat g) 1 && s.eventReady g

/-- A gable that holds the core executes its next instruction: the switcher runs it on at this boundary (R208, R209), no
event comes first, and its fetch need not wait for a bank's self-test (spec/09 R183). -/
def State.mayRun (s : State) (g : Gable) : Bool :=
  s.coreRuns && decide (s.pickGable = some g) && !s.eventDue g && !s.underTest g .x (s.ctxOf g).pc.toNat

/-! ## Event entry (R149) -/

/-- The lowest-numbered line that is pending and enabled at a gable. -/
def State.firstLine (s : State) (g : Gable) : Nat :=
  ((List.range 64).find? (fun k => s.linePending g k && s.lineEnabled g k)).getD 0

/-- EVENT_ENTRY (R149): entry with cause EVENT, without a drain. -/
def execEventEntry (s : State) : Host.Outcome State Fault Refusal :=
  done s (match s.core.running with
    | none => s
    | some g =>
      s.when (s.coreRuns && decide (s.pickGable = some g) && s.eventDue g) (fun s =>
        (s.enterTrap g { vec := 0, code := E_OK, addr := 0 } (s.firstLine g)).perf g perfEvents))

/-! ## Fetch (R137 to R140, R166, R176, R184, R198) -/

/-- The line is neither in the cache under the gable's number nor on its way there in a prefetch transfer (spec/10 R197). -/
def State.fetchMisses (s : State) (g : Gable) (l : Nat) : Bool :=
  s.cache.transfers.all (fun t => !t.started || decide (t.line ≠ l)) &&
    (match s.cache.holder l with
    | none => true
    | some i => decide ((s.cache.lines[i.val]).gable ≠ g))

/-- Read the four words of a line past the cache, for a gable with no line to hold it: the words that are bad. -/
def State.readLine (s : State) (l : Nat) : BitVec 4 × State :=
  (List.range 4).foldl
    (fun (acc : BitVec 4 × State) k =>
      let x := acc.2.bankRead reqCore (4 * l + k)
      (if x.2.1 then acc.1 ||| BitVec.ofNat 4 (2 ^ k) else acc.1, x.2.2)) (0, s)

/-- Bring a line into the ILB, which keeps the two latest (R137). -/
def State.fillIlb (s : State) (g : Gable) (l : Nat) : State :=
  let s := if s.fetchMisses g l then s.perf g perfFetchWait else s
  let (i, s) := s.demand g l true
  let s := s.train .fetch g l none
  let (bad, s) := match i with
    | some i => ((s.cache.lines[i.val]).bad, s)
    | none => s.readLine l
  s.setCore (fun c => { c with ilb := { line := l, gable := g, bad := bad } :: c.ilb.take 1 })

/-- The ILB holds a line that the gable fetched. -/
def State.inIlb (s : State) (g : Gable) (l : Nat) : Bool :=
  s.core.ilb.any (fun x => decide (x.line = l) && decide (x.gable = g))

/-- Fetch `n` bytes at an address: the exception it raises, if any, and the state. Aliases and circular windows are not
executable (R176, R178). Where the address lies outside the windows and in a bank that is not ON, no order is listed, and
the lower code counts (spec/00 R13). -/
def State.fetchAt (s : State) (g : Gable) (a n : Nat) : Option Trap × State :=
  if a % n ≠ 0 then (some (trapFetch E_ALIGN a), s)
  else match s.place g a with
    | .bank b _ isAlias ring =>
      if isAlias || ring.isSome then (some (trapFetch E_WINDOW a), s)
      else if !s.bankOn (bankOf b) then (some (trapFetch E_DLOST a), s)
      else if !s.cfg.may g .x b then (some (trapFetch E_WINDOW a), s)
      else if s.inIlb g (b / 32) || s.domOn dCACHE then
        let s := if s.inIlb g (b / 32) then s else s.fillIlb g (b / 32)
        match s.core.ilb.find? (fun x => decide (x.line = b / 32) && decide (x.gable = g)) with
        | none => (none, s)
        | some x => if x.bad.getLsbD (b % 32 / 8) then (some (trapIecc a), s) else (none, s)
      else (some (trapFetch E_DLOST a), s)
    | .cwinBad => (some (trapFetch E_WINDOW a), s)
    | .proof _ => (some (trapFetch E_WINDOW a), s)
    | .register _ => (some (trapFetch E_WINDOW a), s)
    | .ridgeStore _ => (some (trapFetch E_WINDOW a), s)
    | .burStore _ => (some (trapFetch E_WINDOW a), s)
    | .hole => (some (trapFetch E_WINDOW a), s)

/-! ## Fetch-ahead (R137 to R139) -/

/-- A line of memory as a fetch would find it, its first byte the least significant. -/
def State.peekLine (s : State) (l : Nat) : Nat :=
  match s.cache.holder l with
  | some i => (s.cache.lines[i.val]).data.toNat
  | none => leNat ((List.range 32).map (fun k => s.banks.byte (32 * l + k)))

/-- `n` bytes of a line from an address in it on. -/
def inLine (v a n : Nat) : Nat := v / 256 ^ (a % 32) % 256 ^ n

/-- An address a displacement of `n` bits in units of `unit` away. -/
def ahead (a unit n disp : Nat) : Nat :=
  ((BitVec.ofNat 32 a) + BitVec.ofInt 32 ((unit : Int) * (BitVec.ofNat n disp).toInt)).toNat

/-- Where fetch-ahead goes after a Hatch word (Tables ISA-5, ISA-7): past a conditional branch every fetch is speculative,
and it stops at an indirect branch, a return and a return from trap. -/
def hatchNext (a w : Nat) : Option Nat :=
  match w / 2 ^ 26 with
  | 0x11 => if w / 2 ^ 22 % 16 = 0xE then some (ahead a 4 22 w) else none
  | 0x12 => some (ahead a 4 26 w)
  | 0x13 => some (ahead a 4 26 w)
  | 0x14 => none
  | 0x3F => if w % 64 = 5 then none else some (a + 4)
  | _ => some (a + 4)

/-- Where it goes after a 16-bit Stipple encoding (Tables ISA-8, ISA-9). -/
def shortNext (a h : Nat) : Option Nat :=
  match h / 2 ^ 12 with
  | 0x0 =>
    if h = 5 || h = 6 || (h / 256 = 2 && (h / 16 % 16 = 2 || h / 16 % 16 = 3)) then none else some (a + 2)
  | 0x6 => if h / 256 % 16 = 0xE then some (ahead a 2 8 h) else none
  | 0x7 => some (ahead a 2 12 h)
  | 0x8 => some (ahead a 2 12 h)
  | _ => some (a + 2)

/-- Where it goes after a 32-bit Stipple encoding (Table ISA-13). -/
def longNext (a h v : Nat) : Option Nat :=
  match h / 256 % 16 with
  | 0x6 => if h / 16 % 16 = 0xE then some (ahead a 2 20 (h % 16 * 65536 + v)) else none
  | 0x7 => some (ahead a 2 20 (h % 16 * 65536 + v))
  | _ => some (a + 4)

/-- The first address outside line `l`, whose contents are `v`, that the instructions from `a` on lead to without
speculation, within `fuel` instructions. -/
def leavesLine (stipple : Bool) (l v : Nat) : Nat → Nat → Option Nat
  | 0, _ => none
  | fuel + 1, a =>
    if a / 32 ≠ l then some a
    else if !stipple then (hatchNext a (inLine v a 4)).bind (leavesLine stipple l v fuel)
    else
      let h := inLine v a 2
      if h / 2 ^ 12 ≠ 0xF then (shortNext a h).bind (leavesLine stipple l v fuel)
      else if (a + 2) / 32 ≠ l then some (a + 2)
      else (longNext a h (inLine v (a + 2) 2)).bind (leavesLine stipple l v fuel)

/-- Fetch-ahead from the instruction at the program counter brings the next line of its path into the ILB: by an ordinary
fetch while the path holds no unresolved conditional branch (R137), and only within the executable windows (R139). A fetch
past such a branch is speculative and changes nothing (R138; notes/assumptions/59.md). -/
def State.fetchAhead (s : State) (g : Gable) : State :=
  let pc := (s.ctxOf g).pc.toNat
  match leavesLine (s.descOf g).stipple (pc / 32) (s.peekLine (pc / 32)) 17 pc with
  | none => s
  | some a =>
    if s.cfg.may g .x a && s.bankOn (bankOf a) && s.domOn dCACHE && !s.inIlb g (a / 32) && !s.underTest g .x a then
      s.fillIlb g (a / 32)
    else s

/-- Fetch the bytes of the instruction at the program counter: one word in Hatch, one or two halfwords in Stipple (R155,
R166). Of two exceptions the one with the lower vector is reported (R142). -/
def State.fetchBytes (s : State) (g : Gable) (len : Nat) : Option Trap × State :=
  let a := (s.ctxOf g).pc.toNat
  if !(s.descOf g).stipple then s.fetchAt g a 4
  else match s.fetchAt g a 2 with
    | (none, s) => if len = 4 then s.fetchAt g (a + 2) 2 else (none, s)
    | (some t, s) =>
      if t.vec = 2 && len = 4 then
        match s.fetchAt g (a + 2) 2 with
        | (some u, s) => (some (if u.vec < t.vec then u else t), s)
        | (none, s) => (some t, s)
      else (some t, s)

/-- Fetch the instruction at the program counter, and ahead of it. -/
def State.fetch (s : State) (g : Gable) (len : Nat) : Option Trap × State :=
  match s.fetchBytes g len with
  | (some t, s) => (some t, s)
  | (none, s) => (none, s.fetchAhead g)

/-! ## Running an instruction -/

/-- The encoding belongs to the gable's instruction set, and its operands spell a defined one (R152, R153). -/
def State.defined (s : State) (g : Gable) (e : Enc) : Bool :=
  e.ok &&
    (match e.isa with
    | .hatch => !(s.descOf g).stipple
    | .stipple => (s.descOf g).stipple
    | .both => true)

/-- Length of an encoding as a gable fetches it. -/
def State.encLen (s : State) (g : Gable) (e : Enc) : Nat :=
  if (s.descOf g).stipple then (match e.isa with
    | .hatch => 2
    | .stipple => e.slen
    | .both => e.slen) else 4

/-- An instruction retires: the program counter moves past it, and then the context changes as it says (R135). -/
def State.retire (s : State) (g : Gable) (len : Nat) (f : Ctx → Ctx) : State :=
  (s.setCtxOf g (fun c => f { c with pc := c.pc + BitVec.ofNat 32 len, wfe := false })).perf g perfRetired

/-- Run an instruction on the gable that holds the core: fetch, the check of its encoding, and its effect. Where no gable
executes, the command does not occur (notes/assumptions/1.md). -/
def State.instr (s : State) (e : Enc) (eff : Gable → Nat → State → State) : State :=
  match s.core.running with
  | none => s
  | some g =>
    s.when (s.mayRun g) (fun s =>
      match s.fetch g (s.encLen g e) with
      | (some t, s) => s.takeTrap g t
      | (none, s) => if s.defined g e then eff g (s.encLen g e) s else s.takeTrap g trapUnd)

/-- An instruction that only changes its gable's context. -/
def State.instrCtx (s : State) (e : Enc) (f : Ctx → Ctx) : State := s.instr e (fun g len s => s.retire g len f)

/-! ## Loads and stores (R11, R142, R145, R146, R174 to R179, R184, R199) -/

/-- Read memory space past the checks: a buffered store supplies the data or is waited for, else the cache or, for an
alias, the bank. Every load ends a streaming run of the gable's stores (spec/10 R194). -/
def State.memRead (s : State) (g : Gable) (b n : Nat) (isAlias : Bool) (ring : Option (Fin 8)) : Nat × Bool × State :=
  let s := s.setCache (fun c => { c with stream := vmod c.stream (CacheReq.data.str g) Stream.afterLoad })
  let read := fun (s : State) =>
    if isAlias then
      let x := (s.evictHolder (b / 32)).bankRead reqCore (wordOf b)
      (leNat ((x.1.drop (b % 8)).take n), x.2.1, x.2.2)
    else
      let x := s.cacheRead .data g b n ring
      (leNat x.1, x.2.1, x.2.2)
  match s.forward g b n with
  | .supplied v => (v, false, s)
  | .wait k => read (s.commitMany k)
  | .none => read s

/-- A device-space load, after the drain of R146. -/
def State.deviceLoad (s : State) (g : Gable) (a n : Nat) : Sum Trap Nat × State :=
  match (s.deviceAccess g).devRead g a n with
  | (r, s) =>
    match r.fault with
    | some c => (.inl (trapData c a), s)
    | none => if r.bad then (.inl (trapDecc a), s) else (.inr r.data, s)

/-- A load of `n` bytes: the exception with the lowest vector, or its data. -/
def State.load (s : State) (g : Gable) (ea : Word) (n : Nat) : Sum Trap Nat × State :=
  let a := ea.toNat
  if a % n ≠ 0 then (.inl (trapAlign a), s)
  else match s.place g a with
    | .bank b _ isAlias ring =>
      if !s.cfg.may g .r b then (.inl (trapDwin a), s)
      else if !s.pathOn b isAlias then (.inl (trapDlost a), s)
      else match s.memRead g b n isAlias ring with
        | (v, bad, s) => if bad then (.inl (trapDecc a), s) else (.inr v, s)
    | .cwinBad => (.inl (trapDwin a), s)
    | .hole => (.inl (trapDwin a), s)
    | .proof _ => s.deviceLoad g a n
    | .register _ => s.deviceLoad g a n
    | .ridgeStore _ => s.deviceLoad g a n
    | .burStore _ => s.deviceLoad g a n

/-- A device-space store, after the drain of R146. -/
def State.deviceStore (s : State) (g : Gable) (a n v : Nat) : Option Trap × State :=
  match (s.deviceAccess g).devWrite g a n v with
  | (some c, s) => (some (trapData c a), s)
  | (none, s) => (none, s)

/-- The size of an access of 1, 2 or 4 bytes. -/
def sizeOfBytes (n : Nat) : Size := if n = 1 then .byte else if n = 2 then .half else .word

/-- A store of `n` bytes: the exception with the lowest vector, or the state after it entered the store buffer or the
device. -/
def State.store (s : State) (g : Gable) (ea : Word) (n : Nat) (v : Word) : Option Trap × State :=
  let a := ea.toNat
  if a % n ≠ 0 then (some (trapAlign a), s)
  else match s.place g a with
    | .bank b kind isAlias ring =>
      if !s.cfg.may g .w b then (some (trapDwin a), s)
      else if !s.pathOn b isAlias then (some (trapDlost a), s)
      else
        let s := if 4 ≤ s.core.sb.length then s.perf g perfSbFull else s
        (none, s.bufferStore
          { gable := g, addr := b, size := sizeOfBytes n, data := BitVec.ofNat 32 (v.toNat % 256 ^ n), kind := kind,
            ring := ring })
    | .cwinBad => (some (trapDwin a), s)
    | .hole => (some (trapDwin a), s)
    | .proof _ => s.deviceStore g a n v.toNat
    | .register _ => s.deviceStore g a n v.toNat
    | .ridgeStore _ => s.deviceStore g a n v.toNat
    | .burStore _ => s.deviceStore g a n v.toNat

/-- A load instruction: `addr` forms the address and the base write-back, `fin` writes the result. The write-back happens
only where the access raises nothing (R162, R164). A load of the bank under test waits (spec/09 R183). -/
def State.instrLoad (s : State) (e : Enc) (n : Nat) (addr : Ctx → Word × Ctx) (fin : Nat → Ctx → Ctx) : State :=
  s.instr e (fun g len s =>
    if decide ((addr (s.ctxOf g)).1.toNat % n = 0) && s.underTest g .r (addr (s.ctxOf g)).1.toNat then s
    else match s.load g (addr (s.ctxOf g)).1 n with
      | (.inl t, s) => s.takeTrap g t
      | (.inr v, s) => s.retire g len (fun c => fin v (addr c).2))

/-- A store instruction of a register's value. A store that raises an exception changes nothing; one that does not takes
effect after the instruction has retired. -/
def State.instrStore (s : State) (e : Enc) (n : Nat) (addr : Ctx → Word × Ctx) (val : Ctx → Word) : State :=
  s.instr e (fun g len s =>
    let c := s.ctxOf g
    match (s.retire g len (fun c => (addr c).2)).store g (addr c).1 n (val c) with
    | (some t, _) => s.takeTrap g t
    | (none, s) => s)

end Sys2Proof.Machine
end

