-- ==== Sys2Proof/Machine/Accum.lean ====
section
/-! DEFINITION. The Stipple address-register, bank-register and accumulator instructions (spec/08 Tables ISA-11 to
ISA-13, R161, R164, R165). -/

namespace Sys2Proof.Machine

/-! ## Address registers and BNK -/

/-- IMM7 taken to 16 bits. -/
def sextA (imm : BitVec 7) : BitVec 16 := BitVec.ofInt 16 imm.toInt

def addrDest : AddrForm → Fin 8
  | .imm a _ => a
  | .reg x _ => x

def Ctx.addrOperand (c : Ctx) : AddrForm → BitVec 16
  | .imm _ imm => sextA imm
  | .reg _ y => c.getA y

/-- The low half of a word. -/
def lowHalf (w : Word) : BitVec 16 := BitVec.ofNat 16 w.toNat

/-- MOVIA. -/
def execMovia (a : Fin 8) (imm : BitVec 16) (s : State) : Host.Outcome State Fault Refusal :=
  done s (s.instrCtx encLong (fun c => c.putA a imm))

/-- MOVIB. -/
def execMovib (imm : BitVec 16) (s : State) : Host.Outcome State Fault Refusal :=
  done s (s.instrCtx encLong (fun c => { c with bnk := imm }))

/-- ADDA. -/
def execAdda (f : AddrForm) (s : State) : Host.Outcome State Fault Refusal :=
  done s (s.instrCtx encShort (fun c => c.putA (addrDest f) (c.getA (addrDest f) + c.addrOperand f)))

/-- SUBA. -/
def execSuba (x y : Fin 8) (s : State) : Host.Outcome State Fault Refusal :=
  done s (s.instrCtx encShort (fun c => c.putA x (c.getA x - c.getA y)))

/-- CMPA. -/
def execCmpa (f : AddrForm) (s : State) : Host.Outcome State Fault Refusal :=
  done s (s.instrCtx encShort (fun c => c.putFlags (cmpaFlags (c.getA (addrDest f)) (c.addrOperand f) c.flags)))

/-- MOVA. -/
def execMova (f : MovaForm) (s : State) : Host.Outcome State Fault Refusal :=
  done s (s.instrCtx encShort (fun c => match f with
    | .fromAddr x y => c.putA x (c.getA y)
    | .fromData x y => c.putA x (lowHalf (c.getD y))))

/-- MOVD. -/
def execMovd (x y : Fin 8) (s : State) : Host.Outcome State Fault Refusal :=
  done s (s.instrCtx encShort (fun c => c.putD x (zextWord (c.getA y))))

/-- MOVB. -/
def execMovb (y : Fin 8) (s : State) : Host.Outcome State Fault Refusal :=
  done s (s.instrCtx encShort (fun c => { c with bnk := lowHalf (c.getD y) }))

/-- MOVDB. -/
def execMovdb (x : Fin 8) (s : State) : Host.Outcome State Fault Refusal :=
  done s (s.instrCtx encShort (fun c => c.putD x (zextWord c.bnk)))

/-! ## Accumulators -/

/-- An accumulator takes an exact result, with its flags. -/
def Ctx.putExact (c : Ctx) (m : Fin 2) (exact : Int) : Ctx :=
  let r := accRes exact c.flags
  (c.putAcc m r.1).putFlags r.2

/-- The exact result of an accumulator shift (R161). -/
def ashExact (right : Bool) (count : Nat) (acc : BitVec 40) : Int :=
  if right then acc.toInt.fdiv (2 ^ count) else acc.toInt * 2 ^ count

/-- MAC. -/
def execMac (m : Fin 2) (a b : Fin 8) (s : State) : Host.Outcome State Fault Refusal :=
  done s (s.instrCtx encShort (fun c => c.putExact m ((c.getAcc m).toInt + macProduct (c.getD a) (c.getD b))))

/-- MSU. -/
def execMsu (m : Fin 2) (a b : Fin 8) (s : State) : Host.Outcome State Fault Refusal :=
  done s (s.instrCtx encShort (fun c => c.putExact m ((c.getAcc m).toInt - macProduct (c.getD a) (c.getD b))))

/-- MACM: a signed halfword from memory. -/
def execMacm (m : Fin 2) (mode : StippleMode) (d ab : Fin 8) (s : State) : Host.Outcome State Fault Refusal :=
  done s (s.instrLoad encShort 2 (fun c => c.stippleEA ab 2 mode)
    (fun v c => c.putExact m ((c.getAcc m).toInt + macProduct (c.getD d) (BitVec.ofNat 32 v))))

/-- AADD. -/
def execAadd (m : Fin 2) (sr : Fin 8) (s : State) : Host.Outcome State Fault Refusal :=
  done s (s.instrCtx encShort (fun c => c.putExact m ((c.getAcc m).toInt + (c.getD sr).toInt)))

/-- AADDM: a word from memory. -/
def execAaddm (m : Fin 2) (mode : StippleMode) (ab : Fin 8) (s : State) : Host.Outcome State Fault Refusal :=
  done s (s.instrLoad encShort 4 (fun c => c.stippleEA ab 4 mode)
    (fun v c => c.putExact m ((c.getAcc m).toInt + signed 32 v)))

/-- ASH. -/
def execAsh (m : Fin 2) (right : Bool) (count : BitVec 4) (s : State) : Host.Outcome State Fault Refusal :=
  done s (s.instrCtx encShort (fun c => c.putExact m (ashExact right count.toNat (c.getAcc m))))

/-- ACLR. -/
def execAclr (m : Fin 2) (s : State) : Host.Outcome State Fault Refusal :=
  done s (s.instrCtx encShort (fun c => c.putExact m 0))

/-- ALD. -/
def execAld (m : Fin 2) (n : Fin 8) (s : State) : Host.Outcome State Fault Refusal :=
  done s (s.instrCtx encShort (fun c => c.putExact m (c.getD n).toInt))

/-- ASAT: the accumulator stays. -/
def execAsat (m : Fin 2) (n : Fin 8) (s : State) : Host.Outcome State Fault Refusal :=
  done s (s.instrCtx encShort (fun c =>
    let r := asatRes (c.getAcc m) c.flags
    (c.putD n r.1).putFlags r.2))

/-- AMVL. -/
def execAmvl (m : Fin 2) (n : Fin 8) (s : State) : Host.Outcome State Fault Refusal :=
  done s (s.instrCtx encShort (fun c => c.putD n (BitVec.ofNat 32 (c.getAcc m).toNat)))

/-- AMVG: bits [39:32] sign-extended. -/
def execAmvg (m : Fin 2) (n : Fin 8) (s : State) : Host.Outcome State Fault Refusal :=
  done s (s.instrCtx encShort (fun c => c.putD n (BitVec.ofInt 32 (signed 8 ((c.getAcc m).toNat / 2 ^ 32)))))

/-- ANEG. -/
def execAneg (m : Fin 2) (s : State) : Host.Outcome State Fault Refusal :=
  done s (s.instrCtx encShort (fun c => c.putExact m (-(c.getAcc m).toInt)))

end Sys2Proof.Machine
end

