-- ==== Sys2Proof/Machine/Alu.lean ====
section
/-! DEFINITION. The data arithmetic, logic, shift, multiply and divide instructions of both sets (spec/08). -/

namespace Sys2Proof.Machine

/-- ADD. -/
def execAdd (f : AluForm) (s : State) : Host.Outcome State Fault Refusal :=
  done s (s.instrCtx (AluForm.enc f encShort) (fun c => c.alu (fun a b _ => addRes a b false) f))

/-- ADDC: with C. -/
def execAddc (f : AluForm) (s : State) : Host.Outcome State Fault Refusal :=
  done s (s.instrCtx (AluForm.enc f encShort) (fun c => c.alu (fun a b f => addRes a b (flagC f)) f))

/-- SUB. -/
def execSub (f : AluForm) (s : State) : Host.Outcome State Fault Refusal :=
  done s (s.instrCtx (AluForm.enc f encShort) (fun c => c.alu (fun a b _ => subRes a b false) f))

/-- SUBC: with C, which is 1 when no borrow comes in (R156; notes/assumptions/27.md). -/
def execSubc (f : AluForm) (s : State) : Host.Outcome State Fault Refusal :=
  done s (s.instrCtx (AluForm.enc f encShort) (fun c => c.alu (fun a b f => subRes a b (!flagC f)) f))

/-- NEG: dD := -dS. -/
def execNeg (d sr : Fin 8) (s : State) : Host.Outcome State Fault Refusal :=
  done s (s.instrCtx encShort (fun c => c.putRes d (subRes 0 (c.getD sr) false)))

/-- CMP: flags only. -/
def execCmp (f : CmpForm) (s : State) : Host.Outcome State Fault Refusal :=
  done s (s.instrCtx (CmpForm.enc f) (fun c => c.cmp f))

/-- AND. -/
def execAnd (f : AluForm) (s : State) : Host.Outcome State Fault Refusal :=
  done s (s.instrCtx (AluForm.enc f encShort) (fun c => c.alu (fun a b _ => logicRes (a &&& b)) f))

/-- OR. -/
def execOr (f : AluForm) (s : State) : Host.Outcome State Fault Refusal :=
  done s (s.instrCtx (AluForm.enc f encShort) (fun c => c.alu (fun a b _ => logicRes (a ||| b)) f))

/-- XOR. -/
def execXor (f : AluForm) (s : State) : Host.Outcome State Fault Refusal :=
  done s (s.instrCtx (AluForm.enc f encShort) (fun c => c.alu (fun a b _ => logicRes (a ^^^ b)) f))

/-- NOT: dD := NOT dS. -/
def execNot (d sr : Fin 8) (s : State) : Host.Outcome State Fault Refusal :=
  done s (s.instrCtx encShort (fun c => c.putRes d (logicRes (~~~ (c.getD sr)))))

/-- MOV: dD := dS. -/
def execMov (d sr : Fin 8) (s : State) : Host.Outcome State Fault Refusal :=
  done s (s.instrCtx encShort (fun c => c.putRes d (logicRes (c.getD sr))))

/-- MOVI: dD := sext(IMM6). -/
def execMovi (d : Fin 8) (imm : BitVec 6) (s : State) : Host.Outcome State Fault Refusal :=
  done s (s.instrCtx encShort (fun c => c.putRes d (logicRes (sextWord imm))))

/-- SHL by a register count (R160). -/
def execShl (f : AluForm) (s : State) : Host.Outcome State Fault Refusal :=
  done s (s.instrCtx (AluForm.enc f encShort) (fun c => c.alu (fun a b _ => shlRes a (shiftCount b)) f))

/-- SHR by a register count (R160). -/
def execShr (f : AluForm) (s : State) : Host.Outcome State Fault Refusal :=
  done s (s.instrCtx (AluForm.enc f encShort) (fun c => c.alu (fun a b _ => shrRes a (shiftCount b)) f))

/-- SAR by a register count (R160). -/
def execSar (f : AluForm) (s : State) : Host.Outcome State Fault Refusal :=
  done s (s.instrCtx (AluForm.enc f encShort) (fun c => c.alu (fun a b _ => sarRes a (shiftCount b)) f))

/-- ROR by a register count (R160). -/
def execRor (f : AluForm) (s : State) : Host.Outcome State Fault Refusal :=
  done s (s.instrCtx (AluForm.enc f encShort) (fun c => c.alu (fun a b _ => rorRes a (shiftCount b)) f))

/-- SHI: a Hatch shift by an immediate count. -/
def execShi (rd ra : Fin 16) (sb : Bool) (op : BitVec 2) (count : BitVec 5) (s : State) : Host.Outcome State Fault Refusal :=
  done s (s.instrCtx encHatch (fun c =>
    let r := shiRes op (c.getG ra) count.toNat
    (c.putG rd r.value).setFlags sb r))

/-- SHLI: counts 32 to 63 are undefined. -/
def execShli (d : Fin 8) (imm : BitVec 6) (s : State) : Host.Outcome State Fault Refusal :=
  done s (s.instrCtx { encShort with ok := shiftCountWf imm } (fun c => c.putRes d (shlRes (c.getD d) imm.toNat)))

/-- SHRI: counts 32 to 63 are undefined. -/
def execShri (d : Fin 8) (imm : BitVec 6) (s : State) : Host.Outcome State Fault Refusal :=
  done s (s.instrCtx { encShort with ok := shiftCountWf imm } (fun c => c.putRes d (shrRes (c.getD d) imm.toNat)))

/-- SARI: counts 32 to 63 are undefined. -/
def execSari (d : Fin 8) (imm : BitVec 6) (s : State) : Host.Outcome State Fault Refusal :=
  done s (s.instrCtx { encShort with ok := shiftCountWf imm } (fun c => c.putRes d (sarRes (c.getD d) imm.toNat)))

/-- MUL: the low 32 bits. -/
def execMul (f : AluForm) (s : State) : Host.Outcome State Fault Refusal :=
  done s (s.instrCtx (AluForm.enc f encShort) (fun c => c.alu (fun a b _ => mulRes a b) f))

/-- MULHU: the high 32 bits. -/
def execMulhu (f : AluForm) (s : State) : Host.Outcome State Fault Refusal :=
  done s (s.instrCtx (AluForm.enc f encLong) (fun c => c.alu (fun a b _ => mulhuRes a b) f))

/-- MULHS: the high 32 bits. -/
def execMulhs (f : AluForm) (s : State) : Host.Outcome State Fault Refusal :=
  done s (s.instrCtx (AluForm.enc f encLong) (fun c => c.alu (fun a b _ => mulhsRes a b) f))

/-- DIVU (R159). -/
def execDivu (f : AluForm) (s : State) : Host.Outcome State Fault Refusal :=
  done s (s.instrCtx (AluForm.enc f encLong) (fun c => c.alu (fun a b _ => divuRes a b) f))

/-- DIVS (R159). -/
def execDivs (f : AluForm) (s : State) : Host.Outcome State Fault Refusal :=
  done s (s.instrCtx (AluForm.enc f encLong) (fun c => c.alu (fun a b _ => divsRes a b) f))

/-- REMU (R159). -/
def execRemu (f : AluForm) (s : State) : Host.Outcome State Fault Refusal :=
  done s (s.instrCtx (AluForm.enc f encLong) (fun c => c.alu (fun a b _ => remuRes a b) f))

/-- REMS (R159). -/
def execRems (f : AluForm) (s : State) : Host.Outcome State Fault Refusal :=
  done s (s.instrCtx (AluForm.enc f encLong) (fun c => c.alu (fun a b _ => remsRes a b) f))

/-- SLTU: 1 if RA < RB unsigned, else 0. Table ISA-2 gives it no flags (notes/assumptions/28.md). -/
def execSltu (rd ra rb : Fin 16) (_sb : Bool) (s : State) : Host.Outcome State Fault Refusal :=
  done s (s.instrCtx encHatch (fun c => c.putG rd (if (c.getG ra).toNat < (c.getG rb).toNat then 1 else 0)))

/-- SLT: the same, signed. -/
def execSlt (rd ra rb : Fin 16) (_sb : Bool) (s : State) : Host.Outcome State Fault Refusal :=
  done s (s.instrCtx encHatch (fun c => c.putG rd (if (c.getG ra).toInt < (c.getG rb).toInt then 1 else 0)))

/-- ADDI. -/
def execAddi (f : ImmForm) (s : State) : Host.Outcome State Fault Refusal :=
  done s (s.instrCtx (ImmForm.enc f) (fun c => c.aluImm true (fun a b _ => addRes a b false) f))

/-- SUBI: dD := dD - sext(IMM16). -/
def execSubi (d : Fin 8) (imm : BitVec 16) (s : State) : Host.Outcome State Fault Refusal :=
  done s (s.instrCtx encLong (fun c => c.putRes d (subRes (c.getD d) (sextWord imm) false)))

/-- ANDI: the immediate is zero-extended. -/
def execAndi (f : ImmForm) (s : State) : Host.Outcome State Fault Refusal :=
  done s (s.instrCtx (ImmForm.enc f) (fun c => c.aluImm false (fun a b _ => logicRes (a &&& b)) f))

/-- ORI. -/
def execOri (f : LogicImmForm) (s : State) : Host.Outcome State Fault Refusal :=
  done s (s.instrCtx (LogicImmForm.enc f) (fun c => c.logicImm (fun a b => a ||| b) f))

/-- XORI. -/
def execXori (f : LogicImmForm) (s : State) : Host.Outcome State Fault Refusal :=
  done s (s.instrCtx (LogicImmForm.enc f) (fun c => c.logicImm (fun a b => a ^^^ b) f))

/-- CMPI: flags only. -/
def execCmpi (f : CmpImmForm) (s : State) : Host.Outcome State Fault Refusal :=
  done s (s.instrCtx (CmpImmForm.enc f) (fun c => c.cmpImm f))

/-- LUI: RD := IMM16 x 0x1_0000, with no flags. -/
def execLui (rd : Fin 16) (imm : BitVec 16) (s : State) : Host.Outcome State Fault Refusal :=
  done s (s.instrCtx encHatch (fun c => c.putG rd (BitVec.ofNat 32 (imm.toNat * 0x10000))))

/-- MOVID: dD := sext(IMM16). It sets N and Z as MOVI does (notes/assumptions/28.md). -/
def execMovid (d : Fin 8) (imm : BitVec 16) (s : State) : Host.Outcome State Fault Refusal :=
  done s (s.instrCtx encLong (fun c => c.putRes d (logicRes (sextWord imm))))

/-- MOVHD: dD[31:16] := IMM16, with N and Z of the result (notes/assumptions/28.md). -/
def execMovhd (d : Fin 8) (imm : BitVec 16) (s : State) : Host.Outcome State Fault Refusal :=
  done s (s.instrCtx encLong (fun c => c.putRes d (logicRes (putBits (c.getD d) 31 16 imm.toNat))))

end Sys2Proof.Machine
end

