-- ==== Sys2Proof/Machine/Arbiter.lean ====
section
/-! DEFINITION. The arbiter of a bank and the end of its self-test (spec/09, "Arbitration", R172, R183). -/

namespace Sys2Proof.Machine

/-! ## Who waits -/

/-- A plain store of a requester reaches its bank without a line (R192, R193, R194): its gable has none or has stopped
allocating, and the store hits no line of its own. -/
def State.storesPast (s : State) (r : CacheReq) (g : Gable) (a : Nat) : Bool :=
  let hit := match s.cache.holder (a / 32) with
    | none => false
    | some i => decide ((s.cache.lines[i.val]).gable = g)
  !hit && (decide (s.cfg.lineCount g = 0) ||
    (s.bitOf (.lcGctl g) 3 && ((s.cache.stream[(r.str g).val]).begin (a / 32)).stopped))

/-- A plain load of a requester reaches its bank without a line. -/
def State.loadsPast (s : State) (g : Gable) (a : Nat) : Bool :=
  let hit := match s.cache.holder (a / 32) with
    | none => false
    | some i => decide ((s.cache.lines[i.val]).gable = g)
  !hit && decide (s.cfg.lineCount g = 0)

/-- A buffered store that the cache does not allocate: through an alias, or past the lines (spec/09, "Arbitration"). -/
def State.uncached (s : State) (e : SbEntry) : Bool :=
  decide (e.kind ≠ .plain) || s.storesPast .data e.gable e.addr

/-- The oldest buffered store waits for a bank as an uncached core access. -/
def State.coreAsks (s : State) (b : BankNo) : Bool :=
  match s.core.sb with
  | [] => false
  | e :: _ => inBank b e.addr && s.uncached e

/-- A channel's next access waits for a bank without a line. -/
def State.dmaAsks (s : State) (n : EngineNo) (dir : DmaDir) (b : BankNo) : Bool :=
  s.dmaOn n dir && s.dmaFifoReady n dir && decide (s.fieldOf (dmaCountReg n dir) 15 0 ≠ 0) &&
    (match s.dmaPlace n dir (s.reg (dmaAddrReg n dir)).toNat with
    | .inr (g, .bank a _ isAlias _) =>
      inBank b a && (isAlias || (match dir with
        | .tx => s.loadsPast g a
        | .rx => s.storesPast (.dma n) g a))
    | .inl _ => false
    | .inr (_, .cwinBad) => false
    | .inr (_, .proof _) => false
    | .inr (_, .register _) => false
    | .inr (_, .ridgeStore _) => false
    | .inr (_, .burStore _) => false
    | .inr (_, .hole) => false)

/-- The requesters with work outstanding at a bank between two commands. The accesses of Ridge, Thatch and the window port,
demand fills and loads take place whole within their commands, so that none of them stands waiting here
(notes/assumptions/58.md). -/
def State.askers (s : State) (b : BankNo) : List Requester :=
  (if s.cache.transfers.any (fun t => t.started && inBank b (32 * t.line)) then [.cache] else []) ++
  ((List.finRange 4).filter (fun n => s.dmaAsks n .tx b || s.dmaAsks n .rx b)).map Requester.dma ++
  (if s.coreAsks b then [.core] else [])

/-- The waiters of a bank: those of its askers that have lost decisions, and those that newly ask. -/
def State.bankWaiters (s : State) (b : BankNo) : List Waiter :=
  let old := (s.banks.arb[b.val]).filter (fun w => (s.askers b).contains w.req)
  old ++ ((s.askers b).filter (fun r => old.all (fun w => decide (w.req ≠ r)))).map (fun r =>
    { req := r, lost := 0, promoted := false })

/-! ## A decision (R172) -/

/-- The fixed priority, the first the highest; the engines take turns after the one granted last. -/
def Requester.rank (last : EngineNo) : Requester → Nat
  | .ridge => 0
  | .cache => 1
  | .thatch => 2
  | .window => 3
  | .dma n => 4 + (n.val + 3 - last.val) % 4
  | .core => 8

/-- Promoted requesters outrank all others. -/
def Waiter.rank (last : EngineNo) (w : Waiter) : Nat := (if w.promoted then 0 else 9) + w.req.rank last

/-- The waiter of highest priority. -/
def grantOf (last : EngineNo) (ws : List Waiter) : Option Waiter :=
  ws.foldl (fun best w => match best with
    | none => some w
    | some v => if w.rank last < v.rank last then some w else some v) none

/-- A waiter that loses a decision is promoted after sixteen in a row. -/
def Waiter.lose (w : Waiter) : Waiter :=
  { w with lost := w.lost + 1, promoted := w.promoted || decide (16 ≤ w.lost + 1) }

/-- A decision promotes a waiter. -/
def Waiter.promotes (w : Waiter) : Bool := !w.promoted && w.lose.promoted

/-- The access that a grant begins. -/
def State.performGrant (s : State) (b : BankNo) : Requester → State
  | .cache => s.finishTransfer (fun t => inBank b (32 * t.line))
  | .core => if s.coreAsks b then s.commitOldest else s
  | .dma n =>
    let s := s.setBanks (fun k => { k with rr := vset k.rr b n })
    if s.dmaAsks n .tx b then s.dmaAccess n .tx else if s.dmaAsks n .rx b then s.dmaAccess n .rx else s
  | .ridge => s
  | .thatch => s
  | .window => s

/-- BANK_GRANT: the arbiter of a bank decides at the end of a grant. While the bank is under test every access waits
(R183). -/
def execBankGrant (b : BankNo) (s : State) : Host.Outcome State Fault Refusal :=
  done s (s.when (decide (s.banks.bist ≠ some b)) (fun s =>
    match grantOf s.banks.rr[b.val] (s.bankWaiters b) with
    | none => s
    | some w =>
      let rest := (s.bankWaiters b).erase w
      let s := (rest.filter Waiter.promotes).foldl (fun (t : State) _ => t.satField .bnkPromoCnt 31 0) s
      (s.setBanks (fun k => { k with arb := vset k.arb b (rest.map Waiter.lose) })).performGrant b w.req))

/-- BIST_DONE: the self-test ends with its result, and the window commands that waited for it are performed. The zeroes it
leaves are in place since its start, before every access that waited (R183; notes/assumptions/26.md). -/
def execBistDone (pass : Bool) (s : State) : Host.Outcome State Fault Refusal :=
  done s (s.when s.banks.bist.isSome (fun s =>
    let s := s.setBanks (fun k => { k with bist := none })
    ((s.clearReg .bnkBist (bitMask 5 ||| bitMask 6)).orReg .bnkBist
      (bitMask 7 ||| (if pass then bitMask 6 else 0))).performDeferred))

end Sys2Proof.Machine
end

