-- ==== Sys2Proof/Machine/Ridge.lean ====
section
/-! DEFINITION. Ridge (spec/06): the phases of a word, its actions and conditions, DISPATCH, transitions between global
states, the services that concern domains, and commits. -/

namespace Sys2Proof.Machine

/-! ## The word and its caller -/

/-- The word Ridge stands at: vendor words below 0x180, the live customer bank above. -/
def State.ridgeWordAt (s : State) : BitVec 128 :=
  let a := s.ridge.ctx.addr.toNat
  if a < 384 then s.ridge.vendor.word a else s.ridge.live.word a

/-- The gable whose arguments a routine takes: the caller of a service, G0 for every other routine. -/
def State.caller (s : State) : Gable :=
  match s.ridge.ctx.routine with
  | .service g _ => g
  | .dispatch => 0
  | .init => 0
  | .trigger _ => 0

def State.callerArg0 (s : State) : Word := s.reg (.rdgArg0 s.caller)
def State.callerArg1 (s : State) : Word := s.reg (.rdgArg1 s.caller)

/-- Ridge stands in a phase of a word. -/
def State.setPhaseOf (s : State) (ph : RidgePhase) : State := s.setCtx (fun c => { c with phase := ph })

/-- Ridge is in a phase. -/
def State.atPhase (s : State) (ph : RidgePhase) : Bool := decide (s.ridge.ctx.phase = ph)

/-- Set RDG_EVT bits. -/
def State.rdgEvent (s : State) (k : Nat) : State := s.orReg .rdgEvt (bitMask k)

/-- The global state that an entry word 0x008 to 0x00C leads to (Table RDG-4). -/
def entryState (a : Nat) : Option GState :=
  match a with
  | 0x008 => some .run
  | 0x009 => some .idle
  | 0x00A => some .sleep
  | 0x00B => some .deep
  | 0x00C => some .off
  | _ => none

/-! ## Conditions (R123, Table RDG-3) -/

def State.ridgeCond (s : State) (c : Nat) : Bool :=
  if h : 0x20 ≤ c ∧ c < 0x38 then s.domOn ⟨c - 0x20, by omega⟩
  else if 0x38 ≤ c then s.power.wkLevel.getLsbD (c - 0x38)
  else match c with
    | 0x00 => true
    | 0x01 => s.vinOk
    | 0x02 => s.bitOf .supStat 7
    | 0x03 => s.vcoreDone
    | 0x04 => s.ridge.vreqFail
    | 0x05 => s.avsBusy
    | 0x06 => s.bitOf .supStat 4
    | 0x07 => s.storm
    | 0x08 => s.measOk
    | 0x09 => s.xmitOk
    | 0x0A => s.bitOf .gutStat 5
    | 0x0B => s.bitOf .gutStat 9
    | 0x0C => s.bitOf .clkStat 3
    | 0x0D => s.bitOf .clkStat 0
    | 0x0E => s.bitOf .clkStat 4
    | 0x0F => s.bitOf .clkStat 5
    | 0x10 => s.ridge.refs.gate
    | 0x11 => s.ridge.refs.dom
    | 0x12 => s.ridge.refs.pad
    | 0x13 => s.power.wakeSeen
    | 0x14 => (List.finRange 8).any (fun g => (s.ridge.slots[g.val]).code = 1)
    | 0x15 => decide ((s.port 0).link = .trained)
    | 0x16 => decide ((s.port 1).link = .trained)
    | 0x17 => (List.finRange 2).any (fun p => (s.port p).act)
    | 0x18 => !s.nv.prfQ.isEmpty
    | 0x19 => (List.finRange 4).all (fun n => (s.engine n).st = .halted || (s.engine n).st = .parked)
    | 0x1A => (List.finRange 4).all (fun n => (s.engine n).synced)
    | 0x1B => s.core.sb.isEmpty
    | 0x1C => (List.finRange 48).all (fun i => !(s.cache.lines[i.val]).valid || !(s.cache.lines[i.val]).dirty)
    | 0x1D => s.offReady
    | 0x1E => s.power.graceDone
    | 0x1F => s.ridge.actErr
    | _ => false

/-! ## How a routine ends (R122) -/

/-- The warden enters OFF (R93): VCORE moves to the internal converter (spec/02 R30), and every switchable domain that its
routine has left in ON or RET goes to OFF, in the order of R90. -/
def State.enterOff (s : State) : State :=
  let s := s.moveInternal.setPower (fun p => { p with switching := [], paused := false })
  let s := loweringOrder.foldl
    (fun (t : State) d => if t.power.dom[d.val] = .off then t else t.completeSwitch { dom := d, target := .off }) s
  { s.setCore (fun c => { c with running := none, sb := [], ilb := [] }) with life := .off }

/-- A transition between global states completes: the commands that waited for it are performed (spec/14 R270). -/
def State.endTransition (s : State) (g : GState) : State :=
  let s := s.setPower (fun p =>
    { p with gstate := g, target := none, slept := p.slept && !(g = .run || g = .idle) })
  if g = .off then s.enterOff else s.performDeferred

/-- A routine ends with a code. -/
def State.ridgeHalt (s : State) (code : Byte) : State :=
  match s.ridge.ctx.routine with
  | .service g _ => s.endService g code
  | .trigger e =>
    let s := s.setCtx RidgeCtx.idle
    match entryState e.toNat with
    | some g => s.endTransition (s.power.target.getD g)
    | none => s
  | .dispatch => s.setCtx RidgeCtx.idle
  | .init => s.setCtx RidgeCtx.idle

/-- A stack fault (R121): cause 1 overflow, 2 underflow. -/
def State.ridgeStackFault (s : State) (cause : Nat) : State :=
  let s := s.setReg .rdgFault (BitVec.ofNat 32 (s.ridge.ctx.addr.toNat + 0x200 * cause))
  (s.rdgEvent 0).ridgeHalt E_RANGE

/-- Go on at an address; within a transition, an entry word of Table RDG-4 changes what the transition leads to (R109). -/
def State.ridgeGo (s : State) (a : Nat) : State :=
  let s := s.setCtx (fun c => { c with addr := BitVec.ofNat 9 a, phase := .boundary })
  match s.power.target, entryState a with
  | some _, some g =>
    (s.setPower (fun p => { p with target := some g })).setCtx (fun c => { c with routine := .trigger (BitVec.ofNat 9 a) })
  | _, _ => s

/-! ## Phases, the last first (R111) -/

/-- Phase 9: the next address (Table RDG-2). `timeout` tells a WAIT that ended by its timeout. -/
def State.ridgeNext (s : State) (timeout : Bool) : State :=
  let w := s.ridgeWordAt
  let c := s.ridge.ctx
  let inc := (c.addr.toNat + 1) % 512
  let t := rdgTarget w
  let cond := s.ridgeCond (rdgCond w)
  match rdgNxt w with
  | 1 => s.ridgeGo t
  | 2 => s.ridgeGo (if cond then t else inc)
  | 3 => s.ridgeGo (if cond then inc else t)
  | 4 =>
    if 4 ≤ c.stack.length then s.ridgeStackFault 1
    else (s.setCtx (fun c => { c with stack := BitVec.ofNat 9 inc :: c.stack })).ridgeGo t
  | 5 =>
    match c.stack with
    | [] => s.ridgeStackFault 2
    | a :: rest => (s.setCtx (fun c => { c with stack := rest })).ridgeGo a.toNat
  | 6 => s.ridgeGo (if timeout then t else inc)
  | 7 => s.ridgeHalt (if 256 ≤ t then s.ridge.lastAct else BitVec.ofNat 8 (t % 16))
  | 8 => s.setCtx (fun c => { c with stack := [], origin := c.addr, routine := .dispatch, phase := .atDispatch })
  | _ => s.ridgeGo inc

/-- Phase 8: TMR (R117). -/
def State.ridgeTmr (s : State) : State :=
  let w := s.ridgeWordAt
  let n := rdgTmr w
  if rdgNxt w = 6 then s.setPhaseOf (.waiting (if n = 0 then none else some n))
  else if n = 0 then s.ridgeNext false
  else s.setPhaseOf (.delay n)

/-- Phase 7: CNT (R119). -/
def State.ridgeCnt (s : State) : State :=
  let n := rdgCnt s.ridgeWordAt
  let s :=
    if h : 1 ≤ n ∧ n ≤ 16 then s.satField (.rdgEcnt ⟨n - 1, by omega⟩) 31 0
    else if h : 17 ≤ n ∧ n ≤ 32 then s.setReg (.rdgEcnt ⟨n - 17, by omega⟩) 0
    else if n = 33 then s.takeSnapshot 0
    else s
  s.ridgeTmr

/-- Give back a token that Ridge took in phase 1 and needs no more. -/
def State.dropToken (s : State) : State :=
  if s.avsBusy && s.supply.avs.isNone then (s.clearReg .supStat (bitMask 9)).avsNext else s

/-- Ridge holds the token for the word that it executes (R34). -/
def State.ridgeHasToken (s : State) : Bool := s.avsBusy && s.supply.avs.isNone

/-- A request of Ridge can go to the external regulator: the token is free or Ridge's, and the bus is clocked. -/
def State.ridgeMayAsk (s : State) : Bool := (s.ridgeHasToken || !s.avsBusy) && s.avsClocked

/-- The code of a word's voltage request (R116). -/
def State.ridgeVcode (s : State) : Nat :=
  let v := rdgVcode s.ridgeWordAt
  if v = 0xFF then bitsOf s.callerArg0 7 0 else v

/-- Phase 6: VREQ (R116). A request whose route has become the external regulator since phase 1 waits for the token here
(R34). -/
def State.ridgeVreq (s : State) : State :=
  if !rdgVreq s.ridgeWordAt then s.ridgeCnt
  else
    let code := s.ridgeVcode
    match s.vreqRoute code with
    | .refused => ((s.setRidge (fun r => { r with vreqPend := true })).dropToken).ridgeCnt
    | .internal =>
      let s := (s.dropToken).setInternal code
      if s.vcoreDone then s.ridgeCnt else s.setPhaseOf .vreq
    | .external => if s.ridgeMayAsk then (s.avsStart code .ridge).setPhaseOf .vreq else s.setPhaseOf .vreqToken

/-- The gates that a CLKG field enables or disables. -/
def clkgGates (w : BitVec 128) (code : Nat) : List Nat :=
  ((List.range 8).filter (fun k => rdgClkg w / 4 ^ k % 4 = code)).map clkgGate

/-- Phase 5: CLKG (R115, R72); dropped with a refused OSCF entry (R73). -/
def State.ridgeClkg (s : State) : State :=
  let w := s.ridgeWordAt
  let off := clkgGates w 2
  let s :=
    if s.ridge.refsNext.gate || rdgClkg w = 0 then s
    else match s.gateRefusal off with
      | some (p, c) =>
        (s.recordGateRefusal p c 8).setRidge (fun r => { r with refsNext := { r.refsNext with gate := true } })
      | none =>
        let s := (clkgGates w 1).foldl (fun (t : State) k => t.orReg .clkGate (bitMask k)) s
        off.foldl (fun (t : State) k => t.clearReg .clkGate (bitMask k)) s
  s.ridgeVreq

/-- Phase 4: PADH (R114). -/
def State.ridgePadh (s : State) : State :=
  let v := rdgPadh s.ridgeWordAt
  let s := (List.finRange 4).foldl
    (fun (t : State) p =>
      match v / 4 ^ p.val % 4 with
      | 1 => t.hold p .word
      | 2 =>
        if t.driversOn p then t.release p
        else t.setRidge (fun r => { r with refsNext := { r.refsNext with pad := true } })
      | _ => t) s
  s.ridgeClkg

/-- Apply a DOM field: whether the gate test refused its OSCF entry, whether its dependencies refused it, and the state in
which its switches have begun (R113, R73, R89). -/
def State.applyDom (s : State) (f : BitVec 48) : Bool × Bool × State :=
  match s.testOscf f with
  | (gate, f, s) => if s.depsOk (s.afterField f) then (gate, false, s.beginSwitches f) else (gate, true, s)

/-- Switches are still to complete. -/
def State.switchesLeft (s : State) : Bool := !s.power.switching.isEmpty

/-- Phase 3: DOM (R113). -/
def State.ridgeDom (s : State) : State :=
  let f := rdgDom s.ridgeWordAt
  if f = 0 then s.ridgePadh
  else match s.applyDom f with
    | (gate, dom, s) =>
      let s := s.setRidge (fun r => { r with
        refsNext := { r.refsNext with gate := r.refsNext.gate || gate, dom := r.refsNext.dom || dom } })
      let s := if dom then s.rdgEvent 1 else s
      if s.switchesLeft then s.setPhaseOf .domains else s.ridgePadh

/-! ## Actions (R118, Table RDG-1) -/

/-- The argument of SET_DOMAINS and DOM_ARG. -/
def State.domArg (s : State) (g : Gable) : BitVec 48 :=
  BitVec.ofNat 48 ((s.reg (.rdgArg0 g)).toNat + 2 ^ 32 * bitsOf (s.reg (.rdgArg1 g)) 15 0)

/-- A DOM field names a domain. -/
def names (f : BitVec 48) (d : Dom) : Bool := (domEntry f d).isSome

/-- The code of the first check of R94 or R95 that a DOM field of a gable fails. -/
def State.domArgFails (s : State) (g : Gable) (f : BitVec 48) : Option Byte :=
  let low := (List.finRange 24).any (fun d => decide (d.val < 8) && names f d)
  let bank := fun (p : BankNo → Bool) => (List.finRange 16).any (fun b => names f (dBK b) && p b)
  let other := bank (fun b => (s.cfg.bankOwner b).isSome && decide (s.cfg.bankOwner b ≠ some g))
  let free := bank (fun b => (s.cfg.bankOwner b).isNone) && decide (g ≠ 0)
  let breaks := !s.depsOk (s.afterField (s.testOscf f).2.1)
  if s.domainScheme then
    firstFail [((low && decide (g ≠ 0)) || free, E_NOT_OWNER), (other, E_NOT_OWNER), (breaks, E_RANGE)]
  else
    firstFail
      [(low, E_RANGE), (other || free, E_NOT_OWNER),
       (!(s.power.gstate = .run || s.power.gstate = .idle), E_BUSY), (breaks, E_RANGE)]

/-- The state whose profile DOM_PROFILE applies: the one that the caller's RDG_ARG0[2:0] codes. A transition between global
states has no caller, and there it is the state that the transition leads to (notes/assumptions/48.md). -/
def State.profileTarget (s : State) : Option GState :=
  match s.power.target with
  | some g => some g
  | none => entryState (8 + bitsOf s.callerArg0 2 0)

/-- A refused gate change drops the CLKG field of the word, and GATE_REF holds for the next one (R73, R115). -/
def State.noteGate (s : State) (gate : Bool) : State :=
  if gate then s.setRidge (fun r => { r with refsNext := { r.refsNext with gate := true } }) else s

/-- Apply a field as an action: its code and the state. -/
def State.actDom (s : State) (f : BitVec 48) : Byte × State :=
  match s.applyDom f with
  | (gate, dom, s) => (if dom then E_RANGE else E_OK, s.noteGate gate)

/-- Post a customer event (R118). -/
def State.postEvent (s : State) (n : Nat) : State := s.pendAll (32 + n)

/-- OFF_NOTICE to every gable but G0 (R93). -/
def State.offNotice (s : State) : State := s.pendAll 20

/-- LOG_DARK: the darkness record of the present trigger, DUSK or SHELTER; another routine has none. -/
def State.actLogDark (s : State) : State :=
  match s.ridge.ctx.routine with
  | .trigger e =>
    if e = 6 then s.logDark recDusk 0 (if s.policyShelter then flagShelter else 0)
    else if e = 2 then s.logDark (if s.supply.noCell then recShelterNocell else recShelterIn) 0 0
    else s
  | .service _ _ => s
  | .dispatch => s
  | .init => s

/-- The lowest source that is masked. -/
def State.firstMasked (s : State) : Option Nat := (List.range 16).find? (fun n => s.bitOf .pwrWakeMasked n)

/-- LOG_STORM: the record of a brace storm while one holds, else that of the wake storm of the lowest masked source
(notes/assumptions/48.md). -/
def State.actLogStorm (s : State) : State :=
  if s.storm then s.logEvent recStorm 0 0
  else match s.firstMasked with
    | some n => s.logEvent recWakeStorm n 0
    | none => s.logEvent recStorm 0 0

/-- Perform an action: its code and the state. SHELTER_CUT acts where SHELTER's conditions hold (notes/assumptions/8.md). -/
def State.ridgeAct (s : State) (e : Nat) : Byte × State :=
  match e with
  | 0x01 => (E_OK, s.setCore (fun c => { c with halted := true }))
  | 0x02 => (E_OK, s.setCore (fun c => { c with halted := false }))
  | 0x03 => (E_OK, s.drain)
  | 0x04 => (E_OK, if s.domOn dCACHE then s.cacheWriteBack else s)
  | 0x05 => (E_OK, if s.domOn dCACHE then s.flushGable ⟨bitsOf s.callerArg0 2 0 % 8, by omega⟩ else s)
  | 0x06 => (E_OK, if s.domOn dBUR then s.parkEngines else s)
  | 0x07 => (E_OK, s.resumeEngines)
  | 0x08 =>
    match s.domArgFails s.caller (s.domArg s.caller) with
    | some c => (c, s)
    | none => s.actDom (s.domArg s.caller)
  | 0x09 =>
    match s.profileTarget with
    | some g => s.actDom (s.profileField g)
    | none => (E_RSVD, s)
  | 0x0A => s.actDom s.restoreField
  | 0x0B => s.checkpoint s.caller
  | 0x0C => (E_OK, (s.logEvent recBrownout 0 0).orReg .supEvt (bitMask 3))
  | 0x0D => (E_OK, s.actLogStorm)
  | 0x0E => (E_OK, s.actLogDark)
  | 0x0F => (E_OK, s.offNotice)
  | 0x10 => (E_OK, s.when s.shelterHolds State.shelterCome)
  | 0x11 =>
    match s.seedFails with
    | some c => (c, s)
    | none => (E_OK, s.startSeed)
  | 0x12 => s.plateUpdate s.caller
  | _ => (E_OK, if 0x20 ≤ e then s.postEvent (e - 0x20) else s)

/-- The word's action is not yet complete: domains still switch, or a BUR_PARK has an engine still to park. -/
def State.actionLeft (s : State) : Bool :=
  s.switchesLeft || (decide (rdgEvt s.ridgeWordAt = 0x06) && (List.finRange 4).any (fun n => (s.engine n).parkReq))

/-- Phase 2: EVT. Phase 3 begins when the action is complete (R111). -/
def State.ridgeEvt (s : State) : State :=
  let e := rdgEvt s.ridgeWordAt
  if e = 0 then s.ridgeDom
  else
    let (c, s) := s.ridgeAct e
    let s := s.setRidge (fun r => { r with lastAct := c, actErr := decide (c ≠ E_OK) })
    if !s.up then s
    else if s.actionLeft then s.setPhaseOf .action else s.ridgeDom

/-- A word asks for the external regulator. -/
def State.wantsToken (s : State) : Bool :=
  rdgVreq s.ridgeWordAt && decide (s.vreqRoute s.ridgeVcode = .external)

/-- Phase 1: a word that asks for the external regulator takes the AVSBus token, and waits for it (R34). -/
def State.ridgeToken (s : State) : State :=
  if s.wantsToken then
    if s.ridgeMayAsk then (s.orReg .supStat (bitMask 9)).ridgeEvt else s.setPhaseOf .token
  else s.ridgeEvt

/-- The routine that a word begins: Ridge, released at 0x000, begins INIT there (Table RDG-4). -/
def RidgeCtx.beginning (c : RidgeCtx) : RidgeCtx :=
  if c.routine = .dispatch && c.addr = 0 then { c with routine := .init } else c

/-- A word begins: refusals of the word before hold during this one (R123), and VREQ_FAIL holds until a word with a valid
VREQ (R116). -/
def State.ridgeBegin (s : State) : State :=
  let valid := rdgVreq s.ridgeWordAt
  (s.setRidge (fun r =>
    { r with
      ctx := r.ctx.beginning
      refs := r.refsNext
      refsNext := Refs.none
      vreqFail := (r.vreqFail || r.vreqPend) && !valid
      vreqPend := false })).ridgeToken

/-! ## Rows: words and their waits -/

/-- Ridge runs words: the warden is up and not braced. -/
def State.ridgeRuns (s : State) : Bool := s.up && !s.braced

/-- A word whose action has completed goes on to phase 3. -/
def State.actionFollow (s : State) : State :=
  if s.ridgeRuns && s.atPhase .action && !s.actionLeft then s.ridgeDom else s

/-- RIDGE_WORD (R111): the word at the boundary begins, or the word whose action has completed goes on. -/
def execRidgeWord (s : State) : Host.Outcome State Fault Refusal :=
  done s (if s.ridgeRuns && s.atPhase .boundary then s.ridgeBegin else s.actionFollow)

/-- RIDGE_TOKEN_ACQUIRED: the wait of phase 1, or of phase 6, ends. -/
def execRidgeTokenAcquired (s : State) : Host.Outcome State Fault Refusal :=
  done s (s.when (s.ridgeRuns && (s.ridgeMayAsk || !s.wantsToken)) (fun s =>
    if s.atPhase .token then s.ridgeToken else if s.atPhase .vreqToken then s.ridgeVreq else s))

/-- A Ridge request is on the bus. -/
def State.ridgeOnBus (s : State) : Bool :=
  match s.supply.avs with
  | none => false
  | some r => decide (r.origin = .ridge)

/-- Phase 6 has ended: the request is off the bus, and an internal one has settled. -/
def State.vreqEnded (s : State) : Bool := !s.ridgeOnBus && (s.ridge.vreqPend || s.vcoreDone)

/-- An AVS_SET call's request waits for the token or is on the bus. -/
def State.serviceOnBus (s : State) : Bool :=
  s.supply.avsSetWait.isSome ||
    (match s.supply.avs with
    | none => false
    | some r => match r.origin with
      | .service _ => true
      | .ridge => false
      | .coldStart => false
      | .poll => false)

/-- RIDGE_VREQ_DONE: phase 6 ends, or the internal converter has settled for an AVS_SET call. -/
def execRidgeVreqDone (s : State) : Host.Outcome State Fault Refusal :=
  done s (match s.ridge.ctx.phase with
    | .vreq => s.when (s.ridgeRuns && s.vreqEnded) State.ridgeCnt
    | .native =>
      match s.ridge.ctx.routine with
      | .service g n =>
        s.when (s.ridgeRuns && n = 0x06 && !s.serviceOnBus && s.vcoreDone)
          (fun s => s.endService g E_OK)
      | .dispatch => s
      | .init => s
      | .trigger _ => s
    | .boundary => s
    | .token => s
    | .domains => s
    | .vreqToken => s
    | .delay _ => s
    | .waiting _ => s
    | .atDispatch => s
    | .braced => s
    | .action => s
    | .finish _ => s)

/-- RIDGE_TMR_DELAY_EXPIRY: phase 8 ends (R117). -/
def execRidgeTmrDelayExpiry (s : State) : Host.Outcome State Fault Refusal :=
  done s (match s.ridge.ctx.phase with
    | .delay n => s.when (s.ridgeRuns && decide (n = 0)) (fun s => s.ridgeNext false)
    | .boundary => s
    | .token => s
    | .domains => s
    | .vreqToken => s
    | .vreq => s
    | .waiting _ => s
    | .atDispatch => s
    | .braced => s
    | .action => s
    | .native => s
    | .finish _ => s)

/-- Ridge stands at a WAIT, and whether it has a timeout. -/
def State.ridgeWaits (s : State) : Option (Option Nat) :=
  match s.ridge.ctx.phase with
  | .waiting t => some t
  | .boundary => none
  | .token => none
  | .domains => none
  | .vreqToken => none
  | .vreq => none
  | .delay _ => none
  | .atDispatch => none
  | .braced => none
  | .action => none
  | .native => none
  | .finish _ => none

/-- RIDGE_WAIT_CONDITION: COND holds. -/
def execRidgeWaitCondition (s : State) : Host.Outcome State Fault Refusal :=
  done s (s.when (s.ridgeRuns && s.ridgeWaits.isSome && s.ridgeCond (rdgCond s.ridgeWordAt)) (fun s => s.ridgeNext false))

/-- RIDGE_WAIT_TIMEOUT: a WAIT that has a timeout ends by it. -/
def execRidgeWaitTimeout (s : State) : Host.Outcome State Fault Refusal :=
  done s (match s.ridgeWaits with
    | some (some n) => s.when (s.ridgeRuns && decide (n = 0)) (fun s => s.ridgeNext true)
    | some none => s
    | none => s)

/-! ## Domain switches (R90, R106) -/

/-- Ridge in a routine of Table RDG-4 that the warden completes as a whole (notes/assumptions/8.md), entered at its word. -/
def State.nativeRoutine (s : State) (e : BitVec 9) : State :=
  s.setCtx (fun c => { c with addr := e, stack := [], routine := .trigger e, phase := .native })

/-- A storm's entry into SLEEP is complete (spec/02 R38): STORM_IN ends, and Ridge goes on at the dispatch origin (R122). -/
def State.stormSettled (s : State) : State :=
  if s.storm && s.ridge.ctx.routine = .trigger 4 && !s.switchesLeft then
    (if s.domainScheme then s else s.setPower (fun p => { p with gstate := .sleep })).setCtx RidgeCtx.idle
  else s

/-- What waited for domain switches goes on once none is left. -/
def State.switchesDone (s : State) : State :=
  if s.switchesLeft || s.braced then s
  else match s.ridge.ctx.phase with
    | .domains => s.ridgePadh
    | .action => if s.actionLeft then s else s.ridgeDom
    | .native =>
      match s.ridge.ctx.routine with
      | .service g n => if n = 0x02 then s.endService g E_OK else s.assistFollow
      | .dispatch => s
      | .init => s
      | .trigger _ => s
    | .boundary => s
    | .token => s
    | .vreqToken => s
    | .vreq => s
    | .delay _ => s
    | .waiting _ => s
    | .atDispatch => s
    | .braced => s
    | .finish _ => s

/-- The suspended routine resumes where Brace pre-empted it (R112): a service that ended meanwhile completes, and what
waited for the domain switches goes on if none is left. -/
def State.resumeRidge (s : State) : State :=
  let s := s.setPower (fun p => { p with paused := false })
  match s.ridge.suspend with
  | none => s.setCtx RidgeCtx.idle
  | some c =>
    let s := s.setRidge (fun r => { r with ctx := c, suspend := none })
    match c.phase, c.routine with
    | .finish code, .service g _ => s.endService g code
    | _, _ => s.switchesDone

/-- The warden is back in the state it held before a storm, and Ridge resumes (spec/02 R38). -/
def State.stormReturned (s : State) : State :=
  match s.supply.stormPrior with
  | none => s
  | some (_, g) =>
    if s.storm || s.braced || s.switchesLeft then s
    else ((s.setPower (fun p => { p with gstate := g })).setSupply (fun p => { p with stormPrior := none })).resumeRidge

/-- A switch completes, and what waited for it or for the last one goes on. -/
def State.switchDone (s : State) : State :=
  let s := s.popSwitch.performDeferred.stormSettled
  if s.supply.stormPrior.isSome && !s.storm then s.stormReturned else s.switchesDone.assistFollow

/-- The bank whose zero pass is under way: a bank that returns from OFF to ON with its BNK_CFG.ZERO bit (spec/09 R186). -/
def State.zeroing (s : State) : Option BankNo :=
  if s.power.paused then none
  else match s.power.switching with
    | [] => none
    | w :: _ =>
      match bankDom w.dom with
      | none => none
      | some b => if s.power.dom[w.dom.val] = .off && w.target = .on && s.bitOf .bnkCfg b.val then some b else none

/-- DOMAIN_SWITCH_DONE: the switch under way completes. -/
def execDomainSwitchDone (s : State) : Host.Outcome State Fault Refusal :=
  done s (s.when (s.up && s.switchingDom.isSome) State.switchDone)

/-- BANK_ZERO_DONE: a bank's zero pass is complete, and with it its switch (spec/09 R186). -/
def execBankZeroDone (b : BankNo) (s : State) : Host.Outcome State Fault Refusal :=
  done s (s.when (s.up && decide (s.zeroing = some b)) State.switchDone)

/-! ## DISPATCH (R124, R126, R130) -/

/-- The field that returns every domain to a state. -/
def returnField (v : Vector DomState 24) : BitVec 48 :=
  (List.finRange 24).foldl (fun (f : BitVec 48) d => domPut f d (v[d.val]).code) 0

/-- The storm ends (spec/02 R38, R39): the holds of R39 are released, the prior state returns, and the STORM_OUT routine
restores the suspend set (R122). -/
def State.stormOver (s : State) : State :=
  let s := ((s.clearReg .supStat (bitMask 6)).orReg .supEvt (bitMask 6)).pendLine 0 21
  let s := (s.releaseBrace.setRidge (fun r => { r with stormOut := false })).nativeRoutine 5
  match s.supply.stormPrior with
  | none => s.resumeRidge
  | some (v, _) => (s.beginSwitches (returnField v)).stormReturned

/-- What DISPATCH selects. -/
inductive Work where
  | stormOut
  | dusk
  | enter (g : GState)
  | domWake
  | call (g : Gable) (n : Byte)
  deriving DecidableEq, Repr

/-- Age and number of a pending call. -/
def Slot.waiting : Slot → Option (Nat × Byte)
  | .pending age n => some (age, n)
  | .free => none
  | .running _ => none

/-- The oldest pending call. -/
def State.oldestCall (s : State) : Option (Gable × Byte) :=
  ((List.finRange 8).foldl
    (fun (best : Option (Nat × Gable × Byte)) g =>
      match (s.ridge.slots[g.val]).waiting, best with
      | none, b => b
      | some (age, n), none => some (age, g, n)
      | some (age, n), some (k, h, m) => if age < k then some (age, g, n) else some (k, h, m)) none).map (fun x => x.2)

/-- The work that DISPATCH selects (Table RDG-4). A storm keeps the warden in SLEEP until it ends (spec/02 R38). -/
def State.nextWork (s : State) : Option Work :=
  if s.ridge.stormOut then some .stormOut
  else if s.ridge.duskTrig then some .dusk
  else if !s.domainScheme && !s.storm && decide (s.effective ≠ s.power.gstate) then some (.enter s.effective)
  else if s.domainScheme && !s.storm && s.ridge.domWake then some .domWake
  else s.oldestCall.map (fun x => Work.call x.1 x.2)

/-- The entry table's byte of customer service k (R128). -/
def Store.entryByte (st : Store) (k : Nat) : Nat := ubits (st.word (0x1FE + k / 16)) (8 * (k % 16) + 7) (8 * (k % 16))

/-- The valid customer services of a store, as RDG_SVC_CUST shows them (R130). -/
def Store.custMask (st : Store) : Word := bitsWhere 32 (fun k => decide (128 ≤ st.entryByte k))

/-- The first four bytes of the digest of a customer region (R132). -/
def rdgDigest (st : Store) : Word := BitVec.ofNat 32 (beNat ((sha256 (st.bytes 384 128)).take 4))

/-- A pending commit takes effect (R130). -/
def State.ridgeExchange (s : State) : State :=
  if s.rdgCommitState = 2 && s.ridge.suspend.isNone then
    let s := s.setRidge (fun r => { r with live := r.staging, staging := r.live })
    let s := (s.setReg .rdgCustId (rdgDigest s.ridge.live)).setReg .rdgSvcCust s.ridge.live.custMask
    (s.setField .rdgCommit 18 16 3).rdgEvent 2
  else s

/-- A routine is entered with an empty stack. -/
def State.enterRoutine (s : State) (a : Nat) (r : Routine) : State :=
  s.setCtx (fun c => { c with addr := BitVec.ofNat 9 a, stack := [], routine := r, phase := .boundary })

/-- A transition between global states begins (R91, R94, R104). A level that has still to wake the warden wakes it from an
entry to IDLE or deeper. -/
def State.beginTransition (s : State) (g : GState) : State :=
  let s := if (g = .sleep || g = .deep) && (s.power.gstate = .run || s.power.gstate = .idle) then s.saveBanks else s
  let s := if g = .run then s else s.maskHeld
  let s := s.setPower (fun p => { p with gstate := .trans, target := some g, wakeSeen := false })
  let s := s.enterRoutine (8 + g.depth) (.trigger (BitVec.ofNat 9 (8 + g.depth)))
  if g = .run then s else s.presentDue

/-- The first word of a service (R126). -/
def State.serviceEntry (s : State) (n : Byte) : Nat :=
  if n.toNat < 0x40 then rdgTarget (s.ridge.vendor.word s.ridge.ctx.origin.toNat) + n.toNat
  else 0x180 + s.ridge.live.entryByte (n.toNat - 0x40) % 128

/-- Begin the selected work. -/
def State.beginWork (s : State) : Work → State
  | .stormOut => s.stormOver
  | .dusk => (s.setRidge (fun r => { r with duskTrig := false })).enterRoutine 6 (.trigger 6)
  | .enter g => s.beginTransition g
  | .domWake =>
    ((s.setRidge (fun r => { r with domWake := false })).setPower (fun p => { p with wakeSeen := false })).enterRoutine 0xD
      (.trigger 0xD)
  | .call g n =>
    (s.setRidge (fun r => { r with slots := vset r.slots g (.running n) })).enterRoutine (s.serviceEntry n) (.service g n)

/-- Ridge may select work: it waits at DISPATCH, and no brace holds. -/
def State.dispatchOpen (s : State) : Bool := s.ridgeRuns && s.atPhase .atDispatch

/-- A DISPATCH word executes: the commit first, then the work of highest priority. -/
def State.dispatch (s : State) : State :=
  let s := s.ridgeExchange
  match s.nextWork with
  | none => s
  | some w => s.beginWork w

/-- DISPATCH. -/
def execDispatch (s : State) : Host.Outcome State Fault Refusal := done s (s.when s.dispatchOpen State.dispatch)

/-- A customer service of a gable is the work that DISPATCH selects. -/
def State.customerNext (s : State) (g : Gable) : Bool :=
  match s.nextWork with
  | some (.call h n) => decide (h = g) && decide (0x40 ≤ n.toNat)
  | some .stormOut => false
  | some .dusk => false
  | some (.enter _) => false
  | some .domWake => false
  | none => false

/-- CUSTOMER_SERVICE: DISPATCH enters a gable's customer service at its entry-table word (R126). -/
def execCustomerService (g : Gable) (s : State) : Host.Outcome State Fault Refusal :=
  done s (s.when (s.dispatchOpen && s.customerNext g) State.dispatch)

/-! ## Services (Table RDG-5) that concern global states, domains and the cache -/

/-- ENTER_PROFILE by a gable: its code and the state (R92, R93). -/
def State.enterProfile (s : State) (g : Gable) : Byte × State :=
  let code := bitsOf (s.reg (.rdgArg0 g)) 7 0
  match firstFail
      [(s.domainScheme, E_NOSVC), (decide (5 ≤ code), E_RSVD), (decide (code = 4) && decide (g ≠ 0), E_RANGE)] with
  | some c => (c, s)
  | none =>
    let req := (entryState (8 + code)).getD .run
    let s := s.setGreq g req
    if g ≠ 0 then (E_OK, s)
    else if req = .off then
      (E_OK, (s.setPower (fun p => { p with offAt := some s.now, graceDone := false })).offNotice)
    else (E_OK, s.setPower (fun p => { p with offAt := none, graceDone := false }))

/-- ENTER_PROFILE: service 0x01. -/
def execEnterProfile (g : Gable) (s : State) : Host.Outcome State Fault Refusal :=
  done s (s.when (s.serviceBegins g 0x01) (fun s =>
    let (c, s) := s.enterProfile g
    s.endService g c))

/-- SET_DOMAINS: service 0x02 (R94, R95). It ends when the last switch completes. -/
def execSetDomains (g : Gable) (s : State) : Host.Outcome State Fault Refusal :=
  done s (s.when (s.serviceBegins g 0x02) (fun s =>
    let f := s.domArg g
    match s.domArgFails g f with
    | some c => s.endService g c
    | none =>
      let (c, s) := s.actDom f
      if s.switchesLeft then s.serviceWait else s.endService g c))

/-- FLUSH_CACHE_GABLE: service 0x03 (spec/10 R200). -/
def execFlushCacheGable (g : Gable) (s : State) : Host.Outcome State Fault Refusal :=
  done s (s.when (s.serviceBegins g 0x03) (fun s =>
    let h : Gable := ⟨bitsOf (s.reg (.rdgArg0 g)) 2 0 % 8, by omega⟩
    if g ≠ 0 && h ≠ g then s.endService g E_NOT_OWNER
    else (if s.domOn dCACHE then s.flushGable h else s).endService g E_OK))

/-! ## Commits (R128 to R131) -/

/-- RIDGE_COMMIT_CHECKED: the staging words are checked. -/
def execRidgeCommitChecked (s : State) : Host.Outcome State Fault Refusal :=
  done s (s.when (s.rdgCommitState = 1) (fun s =>
    match rdgFirstBad s.ridge.staging 384 128 with
    | some (a, c) =>
      ((s.setField .rdgCommit 18 16 4).setReg .rdgCommitStat (BitVec.ofNat 32 (a + 0x200 * c))).rdgEvent 3
    | none => (s.setField .rdgCommit 18 16 2).setRidge (fun r => { r with commitAt := s.now })))

/-- RIDGE_COMMIT_TIMEOUT: RDG_COMMIT.TO ms have passed since PENDING. -/
def execRidgeCommitTimeout (s : State) : Host.Outcome State Fault Refusal :=
  done s (s.when (s.rdgCommitState = 2 && decide (s.ridge.commitAt + 1000 * s.fieldOf .rdgCommit 31 24 ≤ s.now)) (fun s =>
    (s.setField .rdgCommit 18 16 5).rdgEvent 4))

end Sys2Proof.Machine
end

