-- ==== Sys2Proof/Machine/Brace.lean ====
section
/-! DEFINITION. Brace, unbrace, brace storms and brownout reset (spec/02, "Brownout thresholds and Brace" and on;
spec/06 R112, R127). -/

namespace Sys2Proof.Machine

/-- The T_WARN comparator has tripped (SUP_STAT.WARN). -/
def State.warned (s : State) : Bool := s.bitOf .supStat 4

/-- Microseconds since an instant, saturating at 0xFFFF. -/
def State.usSince (s : State) (t : Nat) : Nat := min (s.now - t) 0xFFFF

/-! ## Brace (R35, Table SUP-4) -/

/-- Ridge's routine is saved into the suspend set, unless that holds one already, and BRACE is entered at its word (R112,
R124, Table RDG-4). -/
def State.suspendRidge (s : State) : State :=
  s.setRidge (fun r =>
    { r with
      suspend := r.suspend.or (some r.ctx)
      ctx := { addr := 1, stack := [], origin := r.ctx.origin, routine := .trigger 1, phase := .braced } })

/-- Steps 1 to 6 of Table SUP-4: Ridge is pre-empted, the core halted, pads are held, engines park, the store buffer
drains and the cache writes back. -/
def State.braceBegin (s : State) : State :=
  let s := s.suspendRidge.orReg .supStat (bitMask 5)
  let s := ((s.holdAll .brace).parkEngines).drain
  let s := if s.domOn dCACHE then s.cacheWriteBack else s
  s.setSupply (fun p => { p with brace := .running, braceAt := s.now })

/-- VSYS falls below T_WARN from the comparator's released state (R35): a brace storm only holds the pads (R39), a test
brace becomes a real one (R127), a braced warden stays braced, and any other braces. -/
def State.warnFall (s : State) : State :=
  let s := s.orReg .supStat (bitMask 4)
  if !s.up then s
  else if s.storm then (s.holdAll .brace).setRidge (fun r => { r with stormOut := false })
  else if s.braced then
    if s.supply.braceReal then s
    else (s.logEvent recBrownout 0 0).setSupply (fun p => { p with braceReal := true, braceAt := s.now })
  else (s.braceBegin).setSupply (fun p => { p with braceReal := true })

/-- BRACE. -/
def execBrace (vsys : Nat) (s : State) : Host.Outcome State Fault Refusal :=
  done s ((s.setVsys vsys).when (!s.warned && decide (vsys < s.tWarn)) State.warnFall)

/-- Steps 5 to 7 end: engines that have not reached a SYNC word stop where they are, what they wrote is written back, and
the record of the brownout or of the test is written (Table SUP-4, R127, spec/15 R291). -/
def State.braceFinish (s : State) : State :=
  let s := s.forceParks
  let s := if s.domOn dCACHE then s.cacheWriteBack else s
  let s := if s.supply.braceTest.isSome then s.logEvent recBraceTest (s.usSince s.supply.testAt) 0
    else s.logEvent recBrownout (s.usSince s.supply.braceAt) 0
  (s.orReg .supEvt (bitMask 3)).setSupply (fun p => { p with brace := .complete })

/-- BRACE_COMPLETE. -/
def execBraceComplete (s : State) : Host.Outcome State Fault Refusal :=
  done s (s.when (decide (s.supply.brace = .running)) State.braceFinish)

/-- WARN_RELEASE: VSYS is above T_WARN plus the hysteresis (R314, Table SUP-2). -/
def execWarnRelease (vsys : Nat) (s : State) : Host.Outcome State Fault Refusal :=
  done s ((s.setVsys vsys).when (decide (s.tWarn + hysteresisMv ≤ vsys)) (fun s => s.clearReg .supStat (bitMask 4)))

/-! ## Unbrace (R37) -/

/-- The states that a brace storm leads to (R38): the Plate's SLEEP profile with LINK and OSCF kept, or in the Domain
scheme CORE, CACHE and BUR in RET and SENS OFF. -/
def State.stormField (s : State) : BitVec 48 :=
  if s.domainScheme then domPut (domPut (domPut (domPut 0 dCORE 2) dCACHE 2) dBUR 2) dSENS 3
  else domPut (domPut (s.profileField .sleep) dLINK 0) dOSCF 0

/-- A brace storm begins (R38). The switch under way completes by itself, and those that Ridge had still to begin are made
when the warden returns. -/
def State.stormBegin (s : State) : State :=
  let prior := s.supply.stormPrior.getD (s.settled, s.power.gstate)
  let s := s.setSupply (fun p => { p with stormPrior := some prior })
  let s := ((s.orReg .supStat (bitMask 6)).orReg .supEvt (bitMask 5)).satField .supBraceStat 23 16
  let s := s.logEvent recStorm 0 0
  let s := s.setPower (fun p =>
    { p with
      switching := if p.paused then [] else p.switching.take 1
      paused := false
      gstate := if s.domainScheme then p.gstate else .trans })
  ((s.applyDom s.stormField).2.2.nativeRoutine 4).stormSettled

/-- Times of real unbraces that lie within 1 s of now. -/
def State.recentUnbraces (s : State) : List Nat := s.supply.unbraces.filter (fun t => decide (s.now < t + 1000000))

/-- What every unbrace does: Brace's holds are released, the engines resume, and the braced time is recorded. -/
def State.unbraceCommon (s : State) : State :=
  let s := s.releaseBrace.resumeEngines
  let s := s.setField .supBraceStat 15 0 (s.usSince s.supply.braceAt)
  let s := ((s.clearReg .supStat (bitMask 5)).orReg .supEvt (bitMask 4)).pendLine 0 21
  s.setSupply (fun p => { p with brace := .released, braceTest := none, braceReal := false })

/-- A BRACE_TEST call completes (R127). -/
def State.testDone (s : State) (t : Option Gable) : State :=
  match t with
  | none => s
  | some g => (s.rdgEvent 5).endService g E_OK

/-- An unbrace that counts (R37, R38): the eighth within 1 s begins a storm. -/
def State.unbraceCount (s : State) : State :=
  let s := s.satField .supBraceCount 31 0
  let s := s.setSupply (fun p => { p with unbraces := s.recentUnbraces ++ [s.now] })
  if 8 ≤ s.supply.unbraces.length then s.stormBegin else s

/-- The warden unbraces. A storm, or the return from one, keeps Ridge suspended. -/
def State.unbraceNow (s : State) : State :=
  let counts := s.supply.braceReal
  let test := s.supply.braceTest
  let s := if s.supply.brace = .running then s.braceFinish else s
  let s := s.unbraceCommon
  let s := if counts then s.unbraceCount else s
  let s := if s.supply.stormPrior.isSome then (s.setPower (fun p => { p with paused := false })).stormReturned else s.resumeRidge
  s.testDone test

/-- UNBRACE: VSYS has stayed above T_WARN for 25 us. One that comes before Brace has finished takes place as soon as it
has. -/
def execUnbrace (s : State) : Host.Outcome State Fault Refusal :=
  done s (s.when (s.up && s.braced && !s.warned) State.unbraceNow)

/-! ## The end of a storm (R38, R39) -/

/-- Ridge is between routines: at the dispatch origin, or waiting there. -/
def State.ridgeFree (s : State) : Bool :=
  decide (s.ridge.ctx.routine = .dispatch) && (s.atPhase .boundary || s.atPhase .atDispatch)

/-- STORM_END: VSYS has stayed above T_WARN for 10 ms. A routine that runs then ends first: STORM_OUT is taken at the next
DISPATCH (Table RDG-4). -/
def execStormEnd (s : State) : Host.Outcome State Fault Refusal :=
  done s (s.when (s.up && s.storm && !s.warned) (fun s =>
    if s.ridgeFree then s.stormOver else s.setRidge (fun r => { r with stormOut := true })))

/-! ## Brownout reset (R40, R42) -/

/-- T_RESET, falling (Table SUP-2). -/
def tResetMv : Nat := 2050

/-- A cold start follows brownout reset. VSYS falling below T_RESET while a cold start is already awaited changes
nothing: the cause of that cold start stays (notes/assumptions/38.md). -/
def State.resetsByBrownout (s : State) : Bool :=
  match s.life with
  | .up => true
  | .bare => true
  | .off => true
  | .waiting _ => false
  | .shelter => false
  | .lockout => false

/-- Brownout reset: Brace is abandoned, the store buffer discarded, and only the page write in progress completes. -/
def State.brownout (s : State) : State := { s.loseVsys.dropWaitingPages with life := .waiting 1 }

/-- BROWNOUT_RESET: VSYS falls below T_RESET, and so below T_WARN. -/
def execBrownoutReset (vsys : Nat) (s : State) : Host.Outcome State Fault Refusal :=
  done s ((s.setVsys vsys).when (decide (vsys < tResetMv) && s.resetsByBrownout) (fun s =>
    (s.orReg .supStat (bitMask 4)).brownout))

/-! ## BRACE_TEST (R127) -/

/-- BRACE_TEST: service 0x09. -/
def execBraceTest (g : Gable) (s : State) : Host.Outcome State Fault Refusal :=
  done s (s.when (s.serviceBegins g 0x09) (fun s =>
    if s.storm then s.endService g E_BUSY
    else (s.serviceWait.braceBegin).setSupply (fun p => { p with braceTest := some g, testAt := s.now })))

end Sys2Proof.Machine
end

