-- ==== Sys2Proof/Machine/Branch.lean ====
section
/-! DEFINITION. Branches, calls, jumps and returns (spec/08 R157; spec/07 R137, R138). -/

namespace Sys2Proof.Machine

/-- A displacement in units of `unit` bytes from the address of the branch. -/
def branchTarget {n : Nat} (pc : Word) (unit : Nat) (disp : BitVec n) : Word :=
  pc + BitVec.ofInt 32 ((unit : Int) * disp.toInt)

/-- Condition of a branch form, whether its displacement counts as backward (zero does), and its target. -/
def bccCond : BccForm → BitVec 4
  | .hatch c _ => c
  | .short c _ => c
  | .long c _ => c

def bccBack : BccForm → Bool
  | .hatch _ d => decide (d.toInt ≤ 0)
  | .short _ d => decide (d.toInt ≤ 0)
  | .long _ d => decide (d.toInt ≤ 0)

def bccTarget (pc : Word) : BccForm → Word
  | .hatch _ d => branchTarget pc 4 d
  | .short _ d => branchTarget pc 2 d
  | .long _ d => branchTarget pc 2 d

def callTarget (pc : Word) : CallForm → Word
  | .hatch d => branchTarget pc 4 d
  | .short d => branchTarget pc 2 d
  | .long d => branchTarget pc 2 d

/-- Write the link register: g15 or d7. -/
def Ctx.putLink (c : Ctx) (stipple : Bool) (v : Word) : Ctx := if stipple then c.putD 7 v else c.putG 15 v

/-- The link register. -/
def Ctx.getLink (c : Ctx) (stipple : Bool) : Word := if stipple then c.getD 7 else c.getG 15

/-- A conditional branch: backward is predicted taken, forward not, and a wrong prediction is counted; AL is
unconditional (R137, R157). -/
def State.branch (s : State) (g : Gable) (len : Nat) (f : BccForm) : State :=
  let c := s.ctxOf g
  let taken := condHolds (bccCond f) c.flags
  let s := if bccCond f ≠ 0xE && taken ≠ bccBack f then s.perf g perfMispredict else s
  s.retire g len (fun x => if taken then x.putPc (bccTarget c.pc f) else x)

/-- A call to a target: the link register takes the address after it. -/
def State.callTo (s : State) (g : Gable) (len : Nat) (target : Word) : State :=
  s.retire g len (fun x => (x.putLink (s.descOf g).stipple x.pc).putPc target)

/-- Bcc. -/
def execBcc (f : BccForm) (s : State) : Host.Outcome State Fault Refusal :=
  done s (s.instr (BccForm.enc f) (fun g len s => s.branch g len f))

/-- BRA. -/
def execBra (disp : BitVec 12) (s : State) : Host.Outcome State Fault Refusal :=
  done s (s.instr encShort (fun g len s => s.retire g len (fun x => x.putPc (branchTarget (s.ctxOf g).pc 2 disp))))

/-- JMP. -/
def execJmp (disp : BitVec 26) (s : State) : Host.Outcome State Fault Refusal :=
  done s (s.instr encHatch (fun g len s => s.retire g len (fun x => x.putPc (branchTarget (s.ctxOf g).pc 4 disp))))

/-- CALL. -/
def execCall (f : CallForm) (s : State) : Host.Outcome State Fault Refusal :=
  done s (s.instr (CallForm.enc f) (fun g len s => s.callTo g len (callTarget (s.ctxOf g).pc f)))

/-- JR. -/
def execJr (f : RegForm) (s : State) : Host.Outcome State Fault Refusal :=
  done s (s.instr (RegForm.enc f) (fun g len s => s.retire g len (fun x => x.putPc ((s.ctxOf g).getR f))))

/-- CALLR: the register is read before the link register is written. -/
def execCallr (f : RegForm) (s : State) : Host.Outcome State Fault Refusal :=
  done s (s.instr (RegForm.enc f) (fun g len s => s.callTo g len ((s.ctxOf g).getR f)))

/-- RET: the program counter takes the link register. -/
def execRet (s : State) : Host.Outcome State Fault Refusal :=
  done s (s.instr encBoth (fun g len s => s.retire g len (fun x => x.putPc ((s.ctxOf g).getLink (s.descOf g).stipple))))

end Sys2Proof.Machine
end

