-- ==== Sys2Proof/Machine/BurinRows.lean ====
section
/-! DEFINITION. The rows of a Burin word (spec/13 R237): a word that reaches a SYNC or HALT may end a pad release that
waits for it (spec/05 R99). -/

namespace Sys2Proof.Machine

/-- BURIN_WORD. -/
def execBurinWord (n : EngineNo) (pins : Byte) (s : State) : Host.Outcome State Fault Refusal :=
  done s (s.when (s.engineRuns n && (s.engine n).ready) (fun s => (s.burWord n pins).assistFollow))

/-- BURIN_FIFO_WAIT_END: the word goes on from the pull or the push it waits for, as far as the FIFO lets it. -/
def execBurinFifoWaitEnd (n : EngineNo) (pins : Byte) (s : State) : Host.Outcome State Fault Refusal :=
  done s (s.when (s.engineRuns n && decide ((s.engine n).st = .fifoWait)) (fun s =>
    let w := s.burin.wordAt (s.engine n).pc.toNat
    (match (s.engine n).phase with
    | .pull => s.burTx n w pins
    | .pullAuto => s.burAutoPull n w pins
    | .push timeout => (s.setEngine n Engine.swapPins).burAutoPush n w timeout
    | .start => s
    | .hold _ => s
    | .wait _ => s).assistFollow))

/-- BURIN_DELAY_EXPIRY. -/
def execBurinDelayExpiry (n : EngineNo) (pins : Byte) (s : State) : Host.Outcome State Fault Refusal :=
  done s (s.when (s.engineRuns n && decide ((s.engine n).st = .running)) (fun s =>
    (match (s.engine n).phase with
    | .hold _ => s.burLate n (s.burin.wordAt (s.engine n).pc.toNat) pins false
    | .start => s
    | .pull => s
    | .pullAuto => s
    | .wait _ => s
    | .push _ => s).assistFollow))

/-- BURIN_WAIT_CONDITION: COND holds on this tick's sample, and phases 5 to 7 are performed. -/
def execBurinWaitCondition (n : EngineNo) (pins : Byte) (s : State) : Host.Outcome State Fault Refusal :=
  done s (s.when (s.engineRuns n && decide ((s.engine n).st = .waitWord)) (fun s =>
    let w := s.burin.wordAt (s.engine n).pc.toNat
    let t := s.setEngine n (fun e => { e with sampled := pins &&& s.mappedSlots n })
    if t.burCondition n w then (t.burLate n w pins false).assistFollow else t))

/-- BURIN_WAIT_TIMEOUT. A WAIT with DELAY 0 has no timeout. -/
def execBurinWaitTimeout (n : EngineNo) (pins : Byte) (s : State) : Host.Outcome State Fault Refusal :=
  done s (s.when (s.engineRuns n && decide ((s.engine n).st = .waitWord)) (fun s =>
    let w := s.burin.wordAt (s.engine n).pc.toNat
    if burDelay w = 0 then s else (s.burLate n w pins true).assistFollow))

end Sys2Proof.Machine
end

