-- ==== Sys2Proof/Machine/ColdStart.lean ====
section
/-! DEFINITION. Cold start (spec/15): the boot ladle's choice of a slot, what it loads, the Proof store root, the logs and
checkpoint regions, INIT, and the BARE state. -/

namespace Sys2Proof.Machine

/-! ## The choice of a slot (R276) -/

/-- The outcome of the choice: the slot that boots, and the causes that PLT_BOOT shows. -/
structure Boot where
  slot     : Option Bool
  failA    : Nat
  failB    : Nat
  rejected : Bool
  deriving DecidableEq, Repr

/-- The present slots in descending SEQ order, slot A first on equal SEQ. -/
def bootOrder (n : Nvm) : List Bool :=
  let l := if hdrSeq (nvmSlot n false) < hdrSeq (nvmSlot n true) then [true, false] else [false, true]
  l.filter (fun x => slotPresent n x)

/-- The first slot of an order without a cause boots. A slot that is not tried shows 0, an absent one 1. -/
def bootChoice (present : Bool → Bool) (cause : Bool → Nat) (order : List Bool) : Boot :=
  let tried := order.takeWhile (fun x => decide (cause x ≠ 0))
  let fail := fun x => if !present x then 1 else if tried.contains x then cause x else 0
  { slot := order.find? (fun x => decide (cause x = 0)), failA := fail false, failB := fail true, rejected := !tried.isEmpty }

/-- A fuse record's parity is wrong: a record holds an even number of ones, as an unfused one does
(notes/assumptions/50.md). -/
def FuseRecord.parityError (f : FuseRecord) : Bool :=
  ((List.range 7).foldl (fun p k => p != f.column.getLsbD k) (f.valid != f.parity))

/-- The banks with a record that has a parity error (spec/09 R181). -/
def Board.fuseErr (b : Board) : BitVec 16 :=
  b.fuses.foldl (fun m f => if FuseRecord.parityError f then m ||| BitVec.ofNat 16 (2 ^ f.bank.val) else m) 0

/-- The failed banks: the FAILED fuse, or a fuse record with a parity error (spec/09 R181). -/
def Board.failedBanks (b : Board) : BitVec 16 := b.failed ||| Board.fuseErr b

/-- A fuse record goes into its bank's repair latches; one with a parity error is not applied (spec/09 R181). -/
def State.repairTake (s : State) (f : FuseRecord) : State :=
  let lo := 8 * f.spare.val
  if FuseRecord.parityError f then s
  else s.setField (.bnkRepair f.bank) (lo + 7) lo (f.column.toNat + bitAt f.valid 7)

/-- The NVM that the ladle reads. -/
def Board.nvmOr (b : Board) (n : Nvm) : Nvm :=
  match b.nvm with
  | none => n
  | some m => { m with bytes := m.bytes.foldl (fun (l : Memory) c => memPut 0xFF l c.1 c.2) [] }

/-- Check 2 of Table PLT-5 for a slot. -/
def Board.readOk (b : Board) (slotB : Bool) : Bool := if slotB then b.readOkB else b.readOkA

/-- The ladle's choice. -/
def State.bootOf (s : State) (b : Board) : Boot :=
  let n := Board.nvmOr b s.nv.nvm
  bootChoice (slotPresent n) (fun x => slotCause n x (Board.readOk b x) b.vendorKeys s.rootCopy (Board.failedBanks b)) (bootOrder n)

/-! ## The Proof store root (R280, R281, R290, R293) -/

/-- The copy that is current. -/
def State.rootSecond (s : State) : Bool :=
  match s.root[0], s.root[1] with
  | some a, some b => decide (a.gen < b.gen)
  | some _, none => false
  | none, _ => true

/-- Gables whose region record differs from the root's; all of them where the root holds nothing (R293). -/
def movedRegions (root : Option RootCopy) (c : Cfg) : List Gable :=
  (List.finRange 8).filter (fun g =>
    match root with
    | none => true
    | some r => decide (r.regions[g.val] ≠ c.regions[g.val]))

/-- A 32-byte section. -/
def sec32 (rd : Rd) (ty : Nat) : Option (List Byte) := (secFind rd ty).map (fun x => rdBytes rd x.off 32)

/-- A floor after a slot that passed every check (R280). -/
def raise (commitArb : Bool) (floor v : Nat) : Nat := if commitArb then max floor v else floor

/-- The root that a booting slot leaves, but for its GEN. -/
def nextRoot (root : Option RootCopy) (rd : Rd) (c : Cfg) : RootCopy :=
  let old := root.getD
    { opkHash := opkHash rd, recovery := List.replicate 32 0, arbPlate := 0, arbRdg := 0, arbBur := 0, gen := 0,
      regions := c.regions }
  let arb := hdrCommitArb rd
  { opkHash := (sec32 rd tyKeyRoll).getD old.opkHash
    recovery := (sec32 rd tyRecovery).getD old.recovery
    arbPlate := raise arb old.arbPlate (hdrSecVer rd)
    arbRdg := raise arb old.arbRdg (vendorSecVer rd tyVendorRdg)
    arbBur := raise arb old.arbBur (vendorSecVer rd tyVendorBur)
    gen := old.gen
    regions := c.regions }

/-- The root is written into the copy that is not current, with GEN one higher; nothing is written when nothing changes. -/
def State.putRoot (s : State) (r : RootCopy) : State :=
  if s.rootCopy = some r then s
  else
    let r : RootCopy := { r with gen := r.gen + 1 }
    { s with root := if s.rootSecond then s.root.set 0 (some r) else s.root.set 1 (some r) }

/-- The first page of each half of a moved region is zeroed (R293). -/
def Nonvolatile.clearRegion (n : Nonvolatile) (r : Region) : Nonvolatile :=
  if r.pages = 0 then n
  else (n.putPage (halfPage r false) (List.replicate 64 0)).putPage (halfPage r true) (List.replicate 64 0)

/-! ## The logs (R291) -/

/-- RSEQ of a record whose CRC checks. -/
def Nonvolatile.recordSeq (n : Nonvolatile) (l : Log) (k : Nat) : Option (BitVec 16) :=
  let bs := memGetAll 0 n.proof (l.base + 16 * k) 16
  if (crc16 (bs.take 14)).toNat = leNat (bs.drop 14) then some (BitVec.ofNat 16 (leNat ((bs.drop 12).take 2))) else none

/-- The record with the highest RSEQ, in modulo-2^16 order. -/
def Nonvolatile.lastRecord (n : Nonvolatile) (l : Log) : Option (Nat × BitVec 16) :=
  (List.range l.size).foldl
    (fun best k =>
      match n.recordSeq l k, best with
      | none, _ => best
      | some q, none => some (k, q)
      | some q, some (j, r) => if 0 < (q - r).toNat ∧ (q - r).toNat < 0x8000 then some (k, q) else some (j, r)) none

/-- Head and next RSEQ of a log. -/
def Nonvolatile.logHead (n : Nonvolatile) (l : Log) : Nat × BitVec 16 :=
  match n.lastRecord l with
  | none => (0, 0)
  | some (k, q) => ((k + 1) % l.size, q + 1)

/-- The Proof store as the ladle finds it: page writes that were begun are complete (R40, R42), no programmer runs. -/
def Nonvolatile.atStart (n : Nonvolatile) (nvm : Nvm) : Nonvolatile :=
  let m : Nonvolatile := { n.prfQ.foldl (fun n w => n.putPage w.page w.data) n with
    prfQ := [], upd := none, nvm := nvm, cut := false, erased := if nvm = n.nvm then n.erased else [] }
  let ev := m.logHead .event
  let dk := m.logHead .dark
  { m with evHead := ev.1, evSeq := ev.2, dkHead := dk.1, dkSeq := dk.2 }

/-! ## Registers -/

/-- Words that a cold start keeps (Table PWR-8, spec/04 R63, R78): the RTC island's, which hold its power-up values where
it lost its supply, Gutter's live state, the sources of VSYS, and the MOSC trim code. -/
def State.keptWords (s : State) : List (Reg × Word) :=
  rtcIslandRegs.map (fun r => (r, s.reg r)) ++
    [(.gutStat, putBits (s.reg .gutStat) 10 10 (if s.supply.darkPending then 1 else 0)),
     (.supStat, s.reg .supStat &&& maskBits 3 0),
     (.clkStat, bitMask 1 ||| (s.reg .clkStat &&& bitMask 6)), (.clkTrims, s.reg .clkTrims),
     (.pwrPadStat, BitVec.ofNat 32 0x1111 ||| (s.reg .pwrPadStat &&& BitVec.ofNat 32 0x8888))]

/-- The register file of a cold start: kept words, the fuses (spec/04 R63, spec/09 R181), the Plate's words, and INIT's
internal VCORE code (spec/02 R313). -/
def State.coldRegs (s : State) (c : Cfg) (b : Board) (cause : BitVec 3) : State :=
  let t : State := { s with regs := s.keptWords ++ c.shadow.map (fun x => (x.1, c.resetWord x.1)), cfg := c }
  let t := (t.setField .clkTrims 7 0 b.lrcCode.toNat).setField .clkFrcTrim 12 4 b.frcCode.toNat
  let t := if s.supply.darkRtcLost then t.setField .clkTrims 15 8 b.moscCode.toNat else t
  let t := t.setReg .bnkStat (BitVec.ofNat 32 ((Board.failedBanks b).toNat + 0x10000 * (Board.fuseErr b).toNat))
  let t := b.fuses.foldl State.repairTake t
  let t := t.setField .supVcore 15 8 (min (t.fieldOf .supVcore 7 0) 0x3C)
  t.setReg .pwrResetCause (BitVec.ofNat 32 cause.toNat)

/-- What PLT_BOOT shows. -/
def bootWord (n : Nvm) (x : Boot) (firstUse : Bool) : Word :=
  BitVec.ofNat 32 (bitAt (x.slot = some true) 0 + bitAt (n.sfdp && n.quad) 1 + bitAt (n.sfdp && n.addr4) 2 +
    bitAt (!n.sfdp) 3 + bitAt firstUse 4 + bitAt x.slot.isNone 5 + 0x100 * x.failA + 0x10000 * x.failB)

/-- The time that reading so many bytes takes, in 780ths of a microsecond (R285). -/
def readTime (n : Nvm) (len : Nat) : Nat := (if n.sfdp && n.quad then 2 else 8) * len * (if n.sfdp then 10 else 40)

/-- The most that reading the rejected slots can have taken, in 780ths of a microsecond: each is read up to its point of
failure, and a slot has at most 1 MiB. A read that did not complete has no such bound. -/
def rejectedTime (n : Nvm) (x : Boot) : Option Nat :=
  let most := fun (cause : Nat) (slotB : Bool) =>
    if cause < 2 then 0 else readTime n (min 0x100000 (slotLen (nvmSlot n slotB)))
  if x.failA = 2 || x.failB = 2 then none else some (most x.failA false + most x.failB true)

/-- PLT_BOOT_TIME in 780ths of a microsecond (R285), but for the time that rejected slots add. -/
def bootTime (n : Nvm) (len : Nat) (zeroes : Bool) (halves : Nat) : Nat :=
  780 * 1400 + readTime n len + (if zeroes then 63882 else 0) + 780 * 2 * halves

/-! ## Everything else -/

/-- The domain states that INIT leads to: the RUN table's (R113), or every domain ON where the slot has no table
(notes/assumptions/24.md). A failed bank stays OFF. -/
def coldDoms (rd : Rd) (c : Cfg) (failed : BitVec 16) : Vector DomState 24 :=
  Vector.ofFn (fun d : Dom =>
    match bankDom d with
    | some b => if failed.getLsbD b.val then .off else if bankRuns rd c b then .on else runBank c b
    | none =>
      match secFind rd tyProfiles with
      | none => .on
      | some _ => (domEntry c.profiles[0] d).getD .on)

/-- The domain states of BARE (R286). -/
def bareDoms : Vector DomState 24 :=
  Vector.ofFn (fun d : Dom => if d = dLINK ∨ d = dPRF ∨ d = dOSCF then .on else .off)

/-- The state that VSYS feeds starts afresh; what the RTC island, Gutter and the supply path hold goes on. Every gable
starts at its entry vector with its budget (spec/08 R152, spec/11 R207). -/
def State.coldRest (s : State) (doms : Vector DomState 24) (life : Life) : State :=
  let on := fun (r : Reg) (k : Nat) => if s.bitOf r k then QualPhase.attempt 0 else QualPhase.idle
  { s with
    life := life
    supply := { s.supply with
      brace := .released, braceTest := none, braceReal := false, unbraces := [], stormPrior := none, avs := none
      pollWait := false, avsSetWait := none, darkPending := false, darkShelter := false, darkRtcLost := false
      noCell := false, vcMv := 600, vcoreDef := s.bitOf .supCfg 7 }
    clk := { Clocks.reset with
      xt := on .clkCfg 0, ext := on .clkCfg 1, frc := if doms[dOSCF.val] = .on then .attempt 0 else .idle
      sscInForce := s.reg .clkSsc
      rtcFrac := s.clk.rtcFrac, rtcPhase := s.clk.rtcPhase, rtcAcc := s.clk.rtcAcc, rtcEdge := s.clk.rtcEdge }
    power := { Power.reset with
      dom := doms
      preBanks := Vector.ofFn (fun b : Fin 16 => doms[8 + b.val])
      wkLevel := s.power.wkLevel, wkPin := s.power.wkPin, wkRun := s.power.wkRun, lrcAcc := s.power.lrcAcc, tampLatch := s.power.tampLatch, tampHigh := s.power.tampHigh
      tampOpen := s.power.tampOpen
      heldOut := Vector.ofFn (fun p : PadGroup => (s.reg (.pwrGpioOut p)).setWidth 12)
      heldOe := Vector.ofFn (fun p : PadGroup => (s.reg (.pwrGpioOe p)).setWidth 12) }
    res := { Residency.reset with clearedAt := s.now }
    ridge := Ridge.reset
    burin := Burin.reset
    core := { Core.reset with ctx := Vector.ofFn (fun g : Gable => { Ctx.reset with pc := (s.cfg.desc[g.val]).entry }) }
    gabs := Vector.ofFn (fun g : Gable => { GabState.reset with remain := (s.cfg.desc[g.val]).budget })
    frame := { SchedFrame.reset with rsvLeft := s.cfg.linkRsv }
    cache := Cache.reset
    banks := Banks.reset
    thatch := Thatch.reset
    purlin := Purlin.reset }

/-- The two stores as the ladle loads them: both customer banks hold the Plate's customer region. -/
def State.coldStores (s : State) (rd : Rd) : State :=
  let r := plateCustRdg rd
  let b := plateCustBur rd
  let s := s.setRidge (fun x => { x with vendor := plateVendorRdg rd, live := r, staging := r })
  let s := s.setBurin (fun x => { x with vendor := plateVendorBur rd, live := b, staging := b })
  ((s.setReg .rdgCustId (rdgDigest r)).setReg .rdgSvcCust r.custMask).setReg .burCustId (burDigest b)

/-- A bank that INIT takes from OFF to ON is zeroed, or holds undefined contents, like one that it takes to RET (spec/09
R186). -/
def State.coldBanks (s : State) : State :=
  (List.finRange 16).foldl (fun (t : State) b =>
    if s.power.dom[(dBK b).val] = .off || (s.power.dom[(dBK b).val] = .on && s.bitOf .bnkCfg b.val) then t
    else t.undefBank b) s

/-- Load bytes into the banks, a 64-bit word at a time. -/
def State.bankLoad (s : State) (a : Nat) (bs : List Byte) : State :=
  (List.range (wordOf (a + bs.length + 7) - wordOf a)).foldl
    (fun (t : State) k =>
      let lo := max a (8 * (wordOf a + k))
      let hi := min (a + bs.length) (8 * (wordOf a + k) + 8)
      if lo < hi then t.bankWrite lo ((bs.drop (lo - a)).take (hi - lo)) else t) s

/-- The IMAGES data in place. -/
def State.coldImages (s : State) (rd : Rd) : State :=
  ((plateImages rd).getD []).foldl (fun (t : State) r => t.bankLoad r.1 r.2) s

/-- A bank of the RUN table is zeroed by the ladle (R285): it turns banks on for the IMAGES data. -/
def State.ladleZeroes (s : State) (rd : Rd) : Bool :=
  (secFind rd tyImages).isSome &&
    (List.finRange 16).any (fun b => decide (s.power.dom[(dBK b).val] = .on) && s.bitOf .bnkCfg b.val)

/-- The Plate's seed settings and policy, copied into a seed island that is supplied (spec/03 R45). -/
def State.islandTake (s : State) : State :=
  if s.bitOf .gutStat 9 then
    s.setGutter (fun g =>
      { g with
        island :=
          { autoSeed := s.bitOf .gutCfg 5, shelter := s.bitOf .gutCfg 0, target := BitVec.ofNat 5 (s.fieldOf .gutSeed 4 0)
            period := BitVec.ofNat 8 (s.fieldOf .gutSeed 15 8) } })
  else s

/-- The RESUME record that ends a darkness (spec/03 R60). -/
def State.resumeRecord (s : State) (dark shelter : Bool) : State :=
  if dark then (s.logDark recResume s.gutter.darkSeeds (if shelter then 4 else 0)).setGutter (fun g => { g with darkSeeds := 0 })
  else s

/-- A T_WARN that the Plate places at or above VSYS trips the comparator, and starts no Brace (spec/02 R35, spec/16
R298). -/
def State.warnFollow (s : State) : State := if s.vsysMv ≤ s.tWarn then s.orReg .supStat (bitMask 4) else s

/-- What the ladle does in either outcome: the Proof store as found, and the RESUME record. -/
def State.ladle (s : State) (n : Nvm) (c : Cfg) (b : Board) (cause : BitVec 3) : State :=
  let dark := s.supply.darkPending
  let shelter := s.supply.darkShelter
  let s := (s.setVsys b.vsysMv).setNv (fun x => x.atStart n)
  (s.coldRegs c b cause).warnFollow.resumeRecord dark shelter

/-- A slot boots. -/
def State.bootSlot (s : State) (b : Board) (cause : BitVec 3) (x : Boot) (slotB : Bool) : State :=
  let n := Board.nvmOr b s.nv.nvm
  let rd := nvmSlot n slotB
  let c : Cfg := { plateCfg rd slotB with vendorKeys := b.vendorKeys }
  let root := s.rootCopy
  let moved := (movedRegions root c).filter (fun g => decide ((c.regions[g.val]).pages ≠ 0))
  let s := s.putRoot (nextRoot root rd c)
  let s := s.ladle n c b cause
  let s := s.setNv (fun m => moved.foldl (fun m g => m.clearRegion c.regions[g.val]) m)
  let doms := coldDoms rd c (Board.failedBanks b)
  let s := (((s.coldRest doms .up).coldStores rd).coldBanks).coldImages rd
  let s := if doms[dPOOL.val] = .on then s.thtRebuild.relink else s
  let s := (s.setReg .pltBoot (bootWord n x root.isNone)).setReg .pltSeq (BitVec.ofNat 32 (hdrSeq rd))
  let r := s.rootCopy
  let s := s.setReg .pltArb (BitVec.ofNat 32 (r.elim 0 (fun r =>
    r.arbPlate % 0x10000 + 0x10000 * (r.arbRdg % 0x100) + 0x1000000 * (r.arbBur % 0x100))))
  let time := bootTime n (slotLen rd) (s.ladleZeroes rd) (2 * moved.length)
  let (us, s) :=
    if x.rejected then
      let (w, s) := s.freshWord
      s.roundDiv (time + (match rejectedTime n x with
        | none => 780 * w.toNat
        | some most => w.toNat % (most + 1))) 780
    else s.roundDiv time 780
  let s := (s.setReg .pltBootTime (BitVec.ofNat 32 us)).islandTake
  let s := (s.permitFollow .meas).permitFollow .xmit
  if s.power.tampLatch then s.accept 8 else s

/-- No slot passes: BARE (R286). The gates that LINK needs run (notes/assumptions/24.md). -/
def State.bootBare (s : State) (b : Board) (cause : BitVec 3) (x : Boot) : State :=
  let n := Board.nvmOr b s.nv.nvm
  let s := s.ladle n { Cfg.reset with vendorKeys := b.vendorKeys } b cause
  let s := (((s.coldRest bareDoms .bare).permitFollow .meas).permitFollow .xmit)
  (s.setReg .pltBoot (bootWord n x false)).setReg .clkGate (BitVec.ofNat 32 0x7001)

/-- The cold start from its trigger to step 11 of Table PLT-6. -/
def State.coldStart (s : State) (b : Board) (cause : BitVec 3) : State :=
  let x := s.bootOf b
  match x.slot with
  | some slotB => s.bootSlot b cause x slotB
  | none => s.bootBare b cause x

/-- The cause of the cold start that the warden waits for. -/
def Life.coldCause : Life → Option (BitVec 3)
  | .waiting c => some c
  | .up => none
  | .bare => none
  | .off => none
  | .shelter => none
  | .lockout => none

/-- VSYS is above T_WARN (spec/02 R314): the comparator has released, or never tripped. -/
def State.vsysUp (s : State) (mv : Nat) : Bool :=
  decide (s.tWarn + hysteresisMv ≤ mv) || (!s.bitOf .supStat 4 && decide (s.tWarn ≤ mv))

/-- The ladle starts: VSYS is up, and the TEST ball is low (spec/16 R308). -/
def State.ladleStarts (s : State) (b : Board) : Bool := s.vsysUp b.vsysMv && !b.testHigh

/-- COLD_START: the one command that changes what the Plate fixed and the Proof store root. -/
def execColdStart (b : Board) (s : State) : Host.Outcome State Fault Refusal :=
  match s.life.coldCause with
  | none => .next s
  | some cause =>
    if s.ladleStarts b then .next { s.coldStart b cause with pending := s.pending, now := s.now } else .next s

end Sys2Proof.Machine
end

