-- ==== Sys2Proof/Machine/LoadStore.lean ====
section
/-! DEFINITION. The load and store instructions of both sets (spec/08 R162 to R164, Tables ISA-5, ISA-8, ISA-13). -/

namespace Sys2Proof.Machine

/-- A Hatch load: RT gets the data after the base write-back. -/
def State.hatchLoad (s : State) (rt rb : Fin 16) (m : HatchMode) (n : Nat) (sx : Bool) : State :=
  s.instrLoad { encHatch with ok := HatchMode.wf rt rb m } n (fun c => c.hatchEA rb n m) (fun v c => c.putG rt (loadWord sx n v))

/-- A Hatch store of the low bytes of RT. -/
def State.hatchStore (s : State) (rt rb : Fin 16) (m : HatchMode) (n : Nat) : State :=
  s.instrStore { encHatch with ok := HatchMode.wf rt rb m } n (fun c => c.hatchEA rb n m) (fun c => c.getG rt)

/-- LDW: RT := word. -/
def execLdw (rt rb : Fin 16) (m : HatchMode) (s : State) : Host.Outcome State Fault Refusal :=
  done s (s.hatchLoad rt rb m 4 false)

/-- LDH: RT := sign-extended halfword. -/
def execLdh (rt rb : Fin 16) (m : HatchMode) (s : State) : Host.Outcome State Fault Refusal :=
  done s (s.hatchLoad rt rb m 2 true)

/-- LDHU: RT := zero-extended halfword. -/
def execLdhu (rt rb : Fin 16) (m : HatchMode) (s : State) : Host.Outcome State Fault Refusal :=
  done s (s.hatchLoad rt rb m 2 false)

/-- LDB: RT := sign-extended byte. -/
def execLdb (rt rb : Fin 16) (m : HatchMode) (s : State) : Host.Outcome State Fault Refusal :=
  done s (s.hatchLoad rt rb m 1 true)

/-- LDBU: RT := zero-extended byte. -/
def execLdbu (rt rb : Fin 16) (m : HatchMode) (s : State) : Host.Outcome State Fault Refusal :=
  done s (s.hatchLoad rt rb m 1 false)

/-- STW. -/
def execStw (rt rb : Fin 16) (m : HatchMode) (s : State) : Host.Outcome State Fault Refusal :=
  done s (s.hatchStore rt rb m 4)

/-- STH. -/
def execSth (rt rb : Fin 16) (m : HatchMode) (s : State) : Host.Outcome State Fault Refusal :=
  done s (s.hatchStore rt rb m 2)

/-- STB. -/
def execStb (rt rb : Fin 16) (m : HatchMode) (s : State) : Host.Outcome State Fault Refusal :=
  done s (s.hatchStore rt rb m 1)

/-- LD: a Stipple load (R164). -/
def execLd (f : StippleMem) (s : State) : Host.Outcome State Fault Refusal :=
  done s (s.instrLoad (StippleMem.enc f true) (sizeBytes (StippleMem.size f)) (fun c => c.stippleMemEA f)
    (fun v c => c.putD (StippleMem.dt f) (loadWord (StippleMem.sx f) (sizeBytes (StippleMem.size f)) v)))

/-- ST: a Stipple store of the low bytes of dT. -/
def execSt (f : StippleMem) (s : State) : Host.Outcome State Fault Refusal :=
  done s (s.instrStore (StippleMem.enc f false) (sizeBytes (StippleMem.size f)) (fun c => c.stippleMemEA f)
    (fun c => c.getD (StippleMem.dt f)))

end Sys2Proof.Machine
end

