-- ==== Sys2Proof/Machine/System.lean ====
section
/-! DEFINITION. The system instructions and the undefined encodings (spec/08 Tables ISA-7 and ISA-9; spec/07). -/

namespace Sys2Proof.Machine

/-- The ILB is discarded. -/
def State.dropIlb (s : State) : State := s.setCore (fun c => { c with ilb := [] })

/-- WFE by a gable: it gives up the rest of its frame, and waits until a line is pending and enabled (R149, R210). -/
def State.waitEvent (s : State) (g : Gable) (len : Nat) : State :=
  let s := (s.retire g len id).setGab g GabState.giveUp
  s.setCtxOf g (fun c => { c with wfe := !s.eventReady g })

/-- Return from trap (R141): EVT_MASK from PREV_MASK, TRAP_ACT cleared, on at GAB_EPC, the ILB discarded (R140). -/
def State.returnTrap (s : State) (g : Gable) (len : Nat) : State :=
  let epc := s.reg (.gabEpc g)
  let s := (s.retire g len (fun c => c.putPc epc)).dropIlb
  (s.putBit (.gabTstat g) 1 (s.bitOf (.gabTstat g) 2)).clearReg (.gabTstat g) (bitMask 0)

/-- The halfword at the program counter of the gable that holds the core has major opcode 0xF: a Stipple encoding there
is 32 bits long (R155). -/
def State.longAtPc (s : State) : Bool :=
  match s.core.running with
  | none => false
  | some g =>
    let pc := (s.ctxOf g).pc.toNat
    decide (inLine (s.peekLine (pc / 32)) pc 2 / 2 ^ 12 = 0xF)

/-- The length at which an undefined encoding is fetched, which in Stipple its major opcode decides. Whether it is defined
the command says (notes/assumptions/7.md). -/
def encUndefined (long : Bool) : Enc := { isa := .both, slen := if long then 4 else 2, ok := false }

/-- UNDEFINED_ENCODING: E_UND (R153), after the fetch of the whole encoding (R166). -/
def execUndefinedEncoding (s : State) : Host.Outcome State Fault Refusal :=
  done s (s.instr (encUndefined s.longAtPc) (fun _ _ s => s))

/-- NOP. -/
def execNop (s : State) : Host.Outcome State Fault Refusal :=
  done s (s.instrCtx encBoth id)

/-- FENCE: waits until the store buffer is empty (R145). -/
def execFence (s : State) : Host.Outcome State Fault Refusal :=
  done s (s.instr encBoth (fun g len s => (s.drain).retire g len id))

/-- ISYNC (R140). -/
def execIsync (s : State) : Host.Outcome State Fault Refusal :=
  done s (s.instr encBoth (fun g len s => ((s.drain).retire g len id).dropIlb))

/-- WFE. -/
def execWfe (s : State) : Host.Outcome State Fault Refusal :=
  done s (s.instr encBoth (fun g len s => s.waitEvent g len))

/-- TRAP: the software trap. The handler reads IMM8 from the instruction at GAB_EPC. -/
def execTrap (_imm : Byte) (s : State) : Host.Outcome State Fault Refusal :=
  done s (s.instr encBoth (fun g _ s => s.takeTrap g trapSoft))

/-- RFT. -/
def execRft (s : State) : Host.Outcome State Fault Refusal :=
  done s (s.instr encBoth (fun g len s => s.returnTrap g len))

/-- MFF: FLAGS with zeros above (R158). -/
def execMff (f : RegForm) (s : State) : Host.Outcome State Fault Refusal :=
  done s (s.instrCtx (RegForm.enc f) (fun c => c.putR f (zextWord c.flags)))

/-- MTF: FLAGS from bits [5:0] (R158). -/
def execMtf (f : RegForm) (s : State) : Host.Outcome State Fault Refusal :=
  done s (s.instrCtx (RegForm.enc f) (fun c => c.putFlags (BitVec.ofNat 6 (c.getR f).toNat)))

end Sys2Proof.Machine
end

