-- ==== Sys2Proof/Machine/Dispatch.lean ====
section
/-! DEFINITION. The dispatch: one arm per command, each one direct call of its meaning. -/

namespace Sys2Proof.Machine

def exec (i : Instr) (s : State) : Host.Outcome State Fault Refusal :=
  match i with
  | .registerWrite g addr v => Sys2Proof.Machine.execRegisterWrite g addr v s
  | .vinOkFall vin => Sys2Proof.Machine.execVinOkFall vin s
  | .vinOkAssert vin => Sys2Proof.Machine.execVinOkAssert vin s
  | .buckInRegulation => Sys2Proof.Machine.execBuckInRegulation s
  | .vinPathCarrying => Sys2Proof.Machine.execVinPathCarrying s
  | .vinOvervoltage vin => Sys2Proof.Machine.execVinOvervoltage vin s
  | .vinOvClear vin => Sys2Proof.Machine.execVinOvClear vin s
  | .avsDisable v => Sys2Proof.Machine.execAvsDisable v s
  | .avsSet g => Sys2Proof.Machine.execAvsSet g s
  | .avsResponse crcOk ack status data => Sys2Proof.Machine.execAvsResponse crcOk ack status data s
  | .avsStatusPoll r status data => Sys2Proof.Machine.execAvsStatusPoll r status data s
  | .avsAttemptTimeout => Sys2Proof.Machine.execAvsAttemptTimeout s
  | .avsPollPeriod => Sys2Proof.Machine.execAvsPollPeriod s
  | .statusAlert => Sys2Proof.Machine.execStatusAlert s
  | .brace vsys => Sys2Proof.Machine.execBrace vsys s
  | .braceComplete => Sys2Proof.Machine.execBraceComplete s
  | .warnRelease vsys => Sys2Proof.Machine.execWarnRelease vsys s
  | .unbrace => Sys2Proof.Machine.execUnbrace s
  | .stormEnd => Sys2Proof.Machine.execStormEnd s
  | .brownoutReset vsys => Sys2Proof.Machine.execBrownoutReset vsys s
  | .coldStart b => Sys2Proof.Machine.execColdStart b s
  | .shelterIn vst vbat => Sys2Proof.Machine.execShelterIn vst vbat s
  | .shelterEnd vst => Sys2Proof.Machine.execShelterEnd vst s
  | .shelterCellLoss => Sys2Proof.Machine.execShelterCellLoss s
  | .dormantLockout vst => Sys2Proof.Machine.execDormantLockout vst s
  | .dormantRelease vst => Sys2Proof.Machine.execDormantRelease vst s
  | .gutterStart vst => Sys2Proof.Machine.execGutterStart vst s
  | .gutterStop vst => Sys2Proof.Machine.execGutterStop vst s
  | .chargeTargetReached => Sys2Proof.Machine.execChargeTargetReached s
  | .permitAssert p vst => Sys2Proof.Machine.execPermitAssert p vst s
  | .permitDeassert p vst => Sys2Proof.Machine.execPermitDeassert p vst s
  | .dusk vst => Sys2Proof.Machine.execDusk vst s
  | .duskRearm vst => Sys2Proof.Machine.execDuskRearm vst s
  | .gutThrWrite v => Sys2Proof.Machine.execGutThrWrite v s
  | .automaticSeed vst vbat => Sys2Proof.Machine.execAutomaticSeed vst vbat s
  | .seedStore g => Sys2Proof.Machine.execSeedStore g s
  | .seedEnd vst vbat => Sys2Proof.Machine.execSeedEnd vst vbat s
  | .seedTimeout => Sys2Proof.Machine.execSeedTimeout s
  | .qualificationWindow t count => Sys2Proof.Machine.execQualificationWindow t count s
  | .xt32QualTimeout => Sys2Proof.Machine.execXt32QualTimeout s
  | .frcQualRetry => Sys2Proof.Machine.execFrcQualRetry s
  | .oscMonitorWindow t count => Sys2Proof.Machine.execOscMonitorWindow t count s
  | .xt32Enable v => Sys2Proof.Machine.execXt32Enable v s
  | .extrefEnable v => Sys2Proof.Machine.execExtrefEnable v s
  | .trimWindow count => Sys2Proof.Machine.execTrimWindow count s
  | .trimSourceWrite v => Sys2Proof.Machine.execTrimSourceWrite v s
  | .sscUpdate => Sys2Proof.Machine.execSscUpdate s
  | .clkGateWrite g v => Sys2Proof.Machine.execClkGateWrite g v s
  | .rtcSourceChange => Sys2Proof.Machine.execRtcSourceChange s
  | .rtcSet v => Sys2Proof.Machine.execRtcSet v s
  | .rtcSetApply => Sys2Proof.Machine.execRtcSetApply s
  | .rtcAlarm => Sys2Proof.Machine.execRtcAlarm s
  | .moscTimerStart g n v => Sys2Proof.Machine.execMoscTimerStart g n v s
  | .moscTimerStop g n v => Sys2Proof.Machine.execMoscTimerStop g n v s
  | .moscTimerExpiry n => Sys2Proof.Machine.execMoscTimerExpiry n s
  | .pclkTimerStart g v => Sys2Proof.Machine.execPclkTimerStart g v s
  | .pclkTimerStop g v => Sys2Proof.Machine.execPclkTimerStop g v s
  | .pclkTimerExpiry g => Sys2Proof.Machine.execPclkTimerExpiry g s
  | .adcConversionRequest g v => Sys2Proof.Machine.execAdcConversionRequest g v s
  | .adcRequestComplete samples => Sys2Proof.Machine.execAdcRequestComplete samples s
  | .domainSwitchDone => Sys2Proof.Machine.execDomainSwitchDone s
  | .bankZeroDone b => Sys2Proof.Machine.execBankZeroDone b s
  | .warmReset v => Sys2Proof.Machine.execWarmReset v s
  | .padRelease g v => Sys2Proof.Machine.execPadRelease g v s
  | .vioLoss p => Sys2Proof.Machine.execVioLoss p s
  | .vioReturn p => Sys2Proof.Machine.execVioReturn p s
  | .wakePinAccept n level => Sys2Proof.Machine.execWakePinAccept n level s
  | .wkEdgeCount n rising => Sys2Proof.Machine.execWkEdgeCount n rising s
  | .wake src => Sys2Proof.Machine.execWake src s
  | .wakeUnmask g v => Sys2Proof.Machine.execWakeUnmask g v s
  | .linkHoldExpiry => Sys2Proof.Machine.execLinkHoldExpiry s
  | .offGraceExpiry => Sys2Proof.Machine.execOffGraceExpiry s
  | .residencySnapshot g v => Sys2Proof.Machine.execResidencySnapshot g v s
  | .residencyClear => Sys2Proof.Machine.execResidencyClear s
  | .enterProfile g => Sys2Proof.Machine.execEnterProfile g s
  | .setDomains g => Sys2Proof.Machine.execSetDomains g s
  | .flushCacheGable g => Sys2Proof.Machine.execFlushCacheGable g s
  | .checkpoint g => Sys2Proof.Machine.execCheckpoint g s
  | .padReleaseAssist g => Sys2Proof.Machine.execPadReleaseAssist g s
  | .padReleaseTimeout g => Sys2Proof.Machine.execPadReleaseTimeout g s
  | .plateUpdate g => Sys2Proof.Machine.execPlateUpdate g s
  | .plateProgramDone r => Sys2Proof.Machine.execPlateProgramDone r s
  | .braceTest g => Sys2Proof.Machine.execBraceTest g s
  | .customerService g => Sys2Proof.Machine.execCustomerService g s
  | .dispatch => Sys2Proof.Machine.execDispatch s
  | .ridgeWord => Sys2Proof.Machine.execRidgeWord s
  | .ridgeTokenAcquired => Sys2Proof.Machine.execRidgeTokenAcquired s
  | .ridgeVreqDone => Sys2Proof.Machine.execRidgeVreqDone s
  | .ridgeTmrDelayExpiry => Sys2Proof.Machine.execRidgeTmrDelayExpiry s
  | .ridgeWaitCondition => Sys2Proof.Machine.execRidgeWaitCondition s
  | .ridgeWaitTimeout => Sys2Proof.Machine.execRidgeWaitTimeout s
  | .ridgeCommit v => Sys2Proof.Machine.execRidgeCommit v s
  | .ridgeCommitChecked => Sys2Proof.Machine.execRidgeCommitChecked s
  | .ridgeCommitTimeout => Sys2Proof.Machine.execRidgeCommitTimeout s
  | .storeCommit => Sys2Proof.Machine.execStoreCommit s
  | .lineFill => Sys2Proof.Machine.execLineFill s
  | .eventEntry => Sys2Proof.Machine.execEventEntry s
  | .gableSwitch => Sys2Proof.Machine.execGableSwitch s
  | .frameStart => Sys2Proof.Machine.execFrameStart s
  | .budgetExhausted g => Sys2Proof.Machine.execBudgetExhausted g s
  | .quantumExpiry => Sys2Proof.Machine.execQuantumExpiry s
  | .boostExpiry g => Sys2Proof.Machine.execBoostExpiry g s
  | .gableRestart g => Sys2Proof.Machine.execGableRestart g s
  | .gableSelfRestart g v => Sys2Proof.Machine.execGableSelfRestart g v s
  | .eccWriteback b => Sys2Proof.Machine.execEccWriteback b s
  | .bankGrant b => Sys2Proof.Machine.execBankGrant b s
  | .scrubRead => Sys2Proof.Machine.execScrubRead s
  | .cwinWrite g n v => Sys2Proof.Machine.execCwinWrite g n v s
  | .bankBist v => Sys2Proof.Machine.execBankBist v s
  | .bistDone pass => Sys2Proof.Machine.execBistDone pass s
  | .lcClean g addr => Sys2Proof.Machine.execLcClean g addr s
  | .lcInvalidate g addr => Sys2Proof.Machine.execLcInvalidate g addr s
  | .lcCleanInvalidate g addr => Sys2Proof.Machine.execLcCleanInvalidate g addr s
  | .alloc h arg v => Sys2Proof.Machine.execAlloc h arg v s
  | .free h arg => Sys2Proof.Machine.execFree h arg s
  | .retain h arg => Sys2Proof.Machine.execRetain h arg s
  | .transfer h arg v => Sys2Proof.Machine.execTransfer h arg v s
  | .cancel h => Sys2Proof.Machine.execCancel h s
  | .thtSelWrite g v => Sys2Proof.Machine.execThtSelWrite g v s
  | .thatchWaitTimeout h => Sys2Proof.Machine.execThatchWaitTimeout h s
  | .waitAck g => Sys2Proof.Machine.execWaitAck g s
  | .thatchSnapshot => Sys2Proof.Machine.execThatchSnapshot s
  | .apertureAccess g off size a => Sys2Proof.Machine.execApertureAccess g off size a s
  | .burinWord n pins => Sys2Proof.Machine.execBurinWord n pins s
  | .burinFifoWaitEnd n pins => Sys2Proof.Machine.execBurinFifoWaitEnd n pins s
  | .burinDelayExpiry n pins => Sys2Proof.Machine.execBurinDelayExpiry n pins s
  | .burinWaitCondition n pins => Sys2Proof.Machine.execBurinWaitCondition n pins s
  | .burinWaitTimeout n pins => Sys2Proof.Machine.execBurinWaitTimeout n pins s
  | .burinParkTimeout n => Sys2Proof.Machine.execBurinParkTimeout n s
  | .burinCommit v => Sys2Proof.Machine.execBurinCommit v s
  | .burinCommitChecked => Sys2Proof.Machine.execBurinCommitChecked s
  | .burinCommitExchange => Sys2Proof.Machine.execBurinCommitExchange s
  | .burinCommitTimeout => Sys2Proof.Machine.execBurinCommitTimeout s
  | .burinStart g n v => Sys2Proof.Machine.execBurinStart g n v s
  | .burinHalt g n => Sys2Proof.Machine.execBurinHalt g n s
  | .flushTx g n => Sys2Proof.Machine.execFlushTx g n s
  | .flushRx g n => Sys2Proof.Machine.execFlushRx g n s
  | .swfSet g n => Sys2Proof.Machine.execSwfSet g n s
  | .swfClr g n => Sys2Proof.Machine.execSwfClr g n s
  | .burTxfWrite g n v => Sys2Proof.Machine.execBurTxfWrite g n v s
  | .burRxfRead g n => Sys2Proof.Machine.execBurRxfRead g n s
  | .burinDmaAccess n dir => Sys2Proof.Machine.execBurinDmaAccess n dir s
  | .burinDmaEnd n dir => Sys2Proof.Machine.execBurinDmaEnd n dir s
  | .ts1 p rate role tkt => Sys2Proof.Machine.execTs1 p rate role tkt s
  | .ts2 p rate role tkt own => Sys2Proof.Machine.execTs2 p rate role tkt own s
  | .sofH p sfn => Sys2Proof.Machine.execSofH p sfn s
  | .sofT p sfn => Sys2Proof.Machine.execSofT p sfn s
  | .linkTrained p => Sys2Proof.Machine.execLinkTrained p s
  | .retrain p => Sys2Proof.Machine.execRetrain p s
  | .lossOfLink p => Sys2Proof.Machine.execLossOfLink p s
  | .superframe p => Sys2Proof.Machine.execSuperframe p s
  | .slp p => Sys2Proof.Machine.execSlp p s
  | .linkSleep p => Sys2Proof.Machine.execLinkSleep p s
  | .lineActivity p => Sys2Proof.Machine.execLineActivity p s
  | .openSession f noise => Sys2Proof.Machine.execOpenSession f noise s
  | .lockoutExpiry g => Sys2Proof.Machine.execLockoutExpiry g s
  | .close f => Sys2Proof.Machine.execClose f s
  | .ping f => Sys2Proof.Machine.execPing f s
  | .readReg f => Sys2Proof.Machine.execReadReg f s
  | .writeReg f => Sys2Proof.Machine.execWriteReg f s
  | .winRead f => Sys2Proof.Machine.execWinRead f s
  | .winWrite f => Sys2Proof.Machine.execWinWrite f s
  | .msgSend f => Sys2Proof.Machine.execMsgSend f s
  | .replyTimeout g p => Sys2Proof.Machine.execReplyTimeout g p s
  | .purReply g v => Sys2Proof.Machine.execPurReply g v s
  | .msgqRead g => Sys2Proof.Machine.execMsgqRead g s
  | .credit p epoch cum => Sys2Proof.Machine.execCredit p epoch cum s
  | .busyDeadline g p => Sys2Proof.Machine.execBusyDeadline g p s
  | .sessionIdleTimeout g p => Sys2Proof.Machine.execSessionIdleTimeout g p s
  | .swap p tkt => Sys2Proof.Machine.execSwap p tkt s
  | .swapReq p tkt backoff => Sys2Proof.Machine.execSwapReq p tkt backoff s
  | .swapAck p tkt => Sys2Proof.Machine.execSwapAck p tkt s
  | .swapTimeout p => Sys2Proof.Machine.execSwapTimeout p s
  | .backoffEnd p tkt => Sys2Proof.Machine.execBackoffEnd p tkt s
  | .recoveryErase f => Sys2Proof.Machine.execRecoveryErase f s
  | .recoveryReboot f => Sys2Proof.Machine.execRecoveryReboot f s
  | .tampStrobe high => Sys2Proof.Machine.execTampStrobe high s
  | .undefinedEncoding => Sys2Proof.Machine.execUndefinedEncoding s
  | .add f => Sys2Proof.Machine.execAdd f s
  | .addc f => Sys2Proof.Machine.execAddc f s
  | .sub f => Sys2Proof.Machine.execSub f s
  | .subc f => Sys2Proof.Machine.execSubc f s
  | .neg d sr => Sys2Proof.Machine.execNeg d sr s
  | .cmp f => Sys2Proof.Machine.execCmp f s
  | .and f => Sys2Proof.Machine.execAnd f s
  | .or f => Sys2Proof.Machine.execOr f s
  | .xor f => Sys2Proof.Machine.execXor f s
  | .not d sr => Sys2Proof.Machine.execNot d sr s
  | .mov d sr => Sys2Proof.Machine.execMov d sr s
  | .movi d imm => Sys2Proof.Machine.execMovi d imm s
  | .shl f => Sys2Proof.Machine.execShl f s
  | .shr f => Sys2Proof.Machine.execShr f s
  | .sar f => Sys2Proof.Machine.execSar f s
  | .ror f => Sys2Proof.Machine.execRor f s
  | .shi rd ra sets op count => Sys2Proof.Machine.execShi rd ra sets op count s
  | .shli d imm => Sys2Proof.Machine.execShli d imm s
  | .shri d imm => Sys2Proof.Machine.execShri d imm s
  | .sari d imm => Sys2Proof.Machine.execSari d imm s
  | .mul f => Sys2Proof.Machine.execMul f s
  | .mulhu f => Sys2Proof.Machine.execMulhu f s
  | .mulhs f => Sys2Proof.Machine.execMulhs f s
  | .divu f => Sys2Proof.Machine.execDivu f s
  | .divs f => Sys2Proof.Machine.execDivs f s
  | .remu f => Sys2Proof.Machine.execRemu f s
  | .rems f => Sys2Proof.Machine.execRems f s
  | .sltu rd ra rb sets => Sys2Proof.Machine.execSltu rd ra rb sets s
  | .slt rd ra rb sets => Sys2Proof.Machine.execSlt rd ra rb sets s
  | .addi f => Sys2Proof.Machine.execAddi f s
  | .subi d imm => Sys2Proof.Machine.execSubi d imm s
  | .andi f => Sys2Proof.Machine.execAndi f s
  | .ori f => Sys2Proof.Machine.execOri f s
  | .xori f => Sys2Proof.Machine.execXori f s
  | .cmpi f => Sys2Proof.Machine.execCmpi f s
  | .lui rd imm => Sys2Proof.Machine.execLui rd imm s
  | .movid d imm => Sys2Proof.Machine.execMovid d imm s
  | .movhd d imm => Sys2Proof.Machine.execMovhd d imm s
  | .movia a imm => Sys2Proof.Machine.execMovia a imm s
  | .movib imm => Sys2Proof.Machine.execMovib imm s
  | .ldw rt rb m => Sys2Proof.Machine.execLdw rt rb m s
  | .ldh rt rb m => Sys2Proof.Machine.execLdh rt rb m s
  | .ldhu rt rb m => Sys2Proof.Machine.execLdhu rt rb m s
  | .ldb rt rb m => Sys2Proof.Machine.execLdb rt rb m s
  | .ldbu rt rb m => Sys2Proof.Machine.execLdbu rt rb m s
  | .stw rt rb m => Sys2Proof.Machine.execStw rt rb m s
  | .sth rt rb m => Sys2Proof.Machine.execSth rt rb m s
  | .stb rt rb m => Sys2Proof.Machine.execStb rt rb m s
  | .ld f => Sys2Proof.Machine.execLd f s
  | .st f => Sys2Proof.Machine.execSt f s
  | .bcc f => Sys2Proof.Machine.execBcc f s
  | .bra disp => Sys2Proof.Machine.execBra disp s
  | .jmp disp => Sys2Proof.Machine.execJmp disp s
  | .call f => Sys2Proof.Machine.execCall f s
  | .jr f => Sys2Proof.Machine.execJr f s
  | .callr f => Sys2Proof.Machine.execCallr f s
  | .ret => Sys2Proof.Machine.execRet s
  | .nop => Sys2Proof.Machine.execNop s
  | .fence => Sys2Proof.Machine.execFence s
  | .isync => Sys2Proof.Machine.execIsync s
  | .wfe => Sys2Proof.Machine.execWfe s
  | .trap imm => Sys2Proof.Machine.execTrap imm s
  | .rft => Sys2Proof.Machine.execRft s
  | .mff f => Sys2Proof.Machine.execMff f s
  | .mtf f => Sys2Proof.Machine.execMtf f s
  | .adda f => Sys2Proof.Machine.execAdda f s
  | .suba x y => Sys2Proof.Machine.execSuba x y s
  | .cmpa f => Sys2Proof.Machine.execCmpa f s
  | .mova f => Sys2Proof.Machine.execMova f s
  | .movd x y => Sys2Proof.Machine.execMovd x y s
  | .movb y => Sys2Proof.Machine.execMovb y s
  | .movdb x => Sys2Proof.Machine.execMovdb x s
  | .mac m a b => Sys2Proof.Machine.execMac m a b s
  | .msu m a b => Sys2Proof.Machine.execMsu m a b s
  | .macm m mode d ab => Sys2Proof.Machine.execMacm m mode d ab s
  | .aadd m sr => Sys2Proof.Machine.execAadd m sr s
  | .aaddm m mode ab => Sys2Proof.Machine.execAaddm m mode ab s
  | .ash m right count => Sys2Proof.Machine.execAsh m right count s
  | .aclr m => Sys2Proof.Machine.execAclr m s
  | .ald m n => Sys2Proof.Machine.execAld m n s
  | .asat m n => Sys2Proof.Machine.execAsat m n s
  | .amvl m n => Sys2Proof.Machine.execAmvl m n s
  | .amvg m n => Sys2Proof.Machine.execAmvg m n s
  | .aneg m => Sys2Proof.Machine.execAneg m s
  | .seedAllowanceReturn => Sys2Proof.Machine.execSeedAllowanceReturn s
  | .vbatOkRise vbat => Sys2Proof.Machine.execVbatOkRise vbat s
  | .vbatOkFall vbat => Sys2Proof.Machine.execVbatOkFall vbat s
  | .openCircuitSample tegVoc pvVoc => Sys2Proof.Machine.execOpenCircuitSample tegVoc pvVoc s
  | .moscTrimCorrection faster => Sys2Proof.Machine.execMoscTrimCorrection faster s
  | .vcLimitOnset limiting => Sys2Proof.Machine.execVcLimitOnset limiting s
  | .linkpllLock => Sys2Proof.Machine.execLinkpllLock s
  | .proofPageWriteDone readBackOk => Sys2Proof.Machine.execProofPageWriteDone readBackOk s
  | .residencyWrap counter => Sys2Proof.Machine.execResidencyWrap counter s
  | .discardedFrame p body => Sys2Proof.Machine.execDiscardedFrame p body s
  | .characterViolation c => Sys2Proof.Machine.execCharacterViolation c s

end Sys2Proof.Machine
end

