-- ==== Sys2Proof/Machine/Tick.lean ====
section
/-! DEFINITION. One MOSC tick (1 us): what `step` does on an empty queue (notes/assumptions/2.md). -/

namespace Sys2Proof.Machine

/-! ## Charging the tick (spec/11 R207) -/

/-- Whom a tick is charged to. -/
inductive Charge where
  | reserve
  | budget
  | slack
  | overrun
  deriving DecidableEq, Repr

/-- What a gable is charged to: boosted running to the link reserve while any is left, then to REMAIN (R213); other running
to REMAIN. Without any it runs in slack where the switcher lets it, up to its next boundary; else it overruns (R209). -/
def State.chargeFor (s : State) (g : Gable) : Charge :=
  if s.boostRuns g && decide (s.frame.rsvLeft ≠ 0) then .reserve
  else if (s.gab g).remain ≠ 0 then .budget
  else if (s.gab g).slack || decide (s.pickGable = some g) then .slack
  else .overrun

/-- One tick charged to a gable. -/
def State.chargeTick (s : State) (g : Gable) : State :=
  let c := s.chargeFor g
  let boosted := s.boostRuns g
  let s := match c with
    | .reserve => s.setFrame (fun f => { f with rsvLeft := f.rsvLeft - 1 })
    | .budget => s.setGab g (fun x => { x with remain := x.remain - 1, used := x.used + 1 })
    | .slack => (s.setReg (.gabSlackUs g) (s.reg (.gabSlackUs g) + 1)).setGab g (fun x => { x with slack := true })
    | .overrun => s.setGab g (fun x => { x with used := x.used + 1, overrun := x.overrun + 1 })
  s.setGab g (fun x =>
    { x with
      turn := if boosted then x.turn else x.turn - 1
      spent := x.spent || (!boosted && decide (x.turn ≤ 1))
      boost := x.boost.map (fun b => if boosted then { b with ran := b.ran + 1 } else b) })

/-- Who pays a tick (R207): the gable that holds the core, while it is runnable, and else the incoming one; nobody while the
warden is braced, while Ridge holds the core halted, or while no gable runs. -/
def State.payer (s : State) : Option Gable :=
  if s.coreRuns then
    match s.core.running with
    | none => s.pickGable
    | some g => if s.runnable g then some g else s.pickGable
  else none

/-- A gable that is runnable waits while another pays the tick. -/
def State.tickWaits (s : State) (payer : Option Gable) : State :=
  { s with gabs := Vector.ofFn (fun g : Gable =>
    { s.gab g with waited := if s.runnable g && decide (payer ≠ some g) then (s.gab g).waited + 1 else 0 }) }

/-- A tick is charged to its payer, whose turn begins where it has none. -/
def State.tickCharge (s : State) : State :=
  let p := s.payer
  let s := s.tickWaits p
  match p with
  | none => s
  | some g =>
    let s := (if s.pickGable = some g then s.beginTurn g else s).chargeTick g
    if s.core.running = some g then s.perf g perfRunUs else s

/-- The frame's tick. -/
def State.tickFrame (s : State) : State :=
  if s.up then s.setFrame (fun f => { f with tick := f.tick + 1 }) else s

/-! ## Residency (spec/05 R106) -/

/-- The counter of a domain's state. -/
def residencyIndex (d : Dom) (t : DomState) : Fin 77 := ⟨3 * d.val + (t.code - 1) % 3, by omega⟩

/-- The counter of the global state. -/
def globalIndex : GState → Option (Fin 77)
  | .run => some 72
  | .idle => some 73
  | .sleep => some 74
  | .deep => some 75
  | .trans => some 76
  | .off => none

/-- Exactly one counter of each domain, and in the Profile scheme one global counter. -/
def State.tickResidency (s : State) : State :=
  let t := (List.finRange 24).foldl (fun (t : State) d => t.bumpResidency (residencyIndex d (s.power.dom[d.val]))) s
  if s.domainScheme then t
  else match globalIndex s.power.gstate with
    | none => t
    | some i => t.bumpResidency i

/-! ## Timers and the RTC (spec/04 R64, R78 to R82) -/

/-- A running timer counts down; its passing from 1 to 0 is the command that tells it. -/
def State.tickTimer (s : State) (t : TimerRegs) (n : Nat) : State :=
  if s.timerRuns t && decide (s.reg t.count ≠ 1) then
    let v := s.reg t.count
    s.setReg t.count (if v.toNat ≤ n ∧ v ≠ 0 then 1 else v - BitVec.ofNat 32 n)
  else s

/-- The MOSC timers. -/
def State.tickMosc (s : State) : State := (List.finRange 4).foldl (fun (t : State) n => t.tickTimer (moscTimer n) 1) s

/-- PCLK cycles in 1,600ths that a tick brings: 96 nominal cycles of FRC, times 1 - depth / 2 under the spread in force,
whose depth counts 0.125 % steps (R71, R82). The triangle itself is averaged out (notes/assumptions/45.md). -/
def State.pclkPerTick (s : State) : Nat := 96 * (1600 - bitsOf s.clk.sscInForce 4 0)

/-- PCLK in one tick: while it runs, the whole cycles that have passed; and the timers count them while gates PCLK and TMRF
run. -/
def State.tickPclk (s : State) : State :=
  if s.gateRuns 1 then
    let v := s.clk.pclkAcc + s.pclkPerTick
    let t := s.setClk (fun c => { c with pclkAcc := v % 1600 })
    if t.gateRuns 11 then (List.finRange 8).foldl (fun (t : State) g => t.tickTimer (pclkTimer g) (v / 1600)) t else t
  else s

/-- The RTC advances by 1/65,536 s units; a count that crosses a second takes a wanted change of source with it (R64). -/
def State.rtcAdvance (s : State) (n : Nat) : State :=
  let v := s.clk.rtcFrac.toNat + n
  let s := s.setClk (fun c => { c with rtcFrac := BitVec.ofNat 16 v, rtcEdge := decide (65536 ≤ v) })
  if 65536 ≤ v then (s.setReg .tmrRtcSec (s.reg .tmrRtcSec + 1)).rtcSource else s

/-- One cycle of the RTC's source: a pending set takes effect, or the fraction advances. -/
def State.rtcCycle (s : State) (xt : Bool) : State :=
  if s.clk.rtcSetPend.isSome then s.rtcApply
  else if xt then s.rtcAdvance 2
  else
    let a := s.clk.rtcAcc + 65536
    (s.setClk (fun c => { c with rtcAcc := a % 32000 })).rtcAdvance (a / 32000)

/-- The RTC in one tick, while its island is powered (R78): a source cycle ends when its phase fills up. -/
def State.tickRtc (s : State) : State :=
  if s.life = .lockout then s
  else
    let xt := s.bitOf .clkStat 6
    let p := s.clk.rtcPhase + (if xt then fXt else fLrc)
    let s := s.setClk (fun c => { c with rtcPhase := p % 1000000 })
    if 1000000 ≤ p then s.rtcCycle xt else s

/-! ## The WK pins (spec/05 R100) -/

/-- An LRC cycle ends every 31.25 us, and with it the WK pins are sampled. -/
def State.tickPins (s : State) : State :=
  let a := s.power.lrcAcc + fLrc
  let s := s.setPower (fun p => { p with lrcAcc := a % 1000000 })
  if 1000000 ≤ a then s.samplePins else s

/-! ## Ridge and the internal converter -/

/-- A TMR count of Ridge runs, braced or not (spec/06 R112, R117). -/
def RidgePhase.count : RidgePhase → RidgePhase
  | .delay n => .delay (n - 1)
  | .waiting (some n) => .waiting (some (n - 1))
  | .waiting none => .waiting none
  | .boundary => .boundary
  | .token => .token
  | .domains => .domains
  | .vreqToken => .vreqToken
  | .vreq => .vreq
  | .atDispatch => .atDispatch
  | .braced => .braced
  | .action => .action
  | .native => .native
  | .finish c => .finish c

def RidgeCtx.count (c : RidgeCtx) : RidgeCtx := { c with phase := c.phase.count }

def State.tickRidge (s : State) : State :=
  s.setRidge (fun r => { r with ctx := r.ctx.count, suspend := r.suspend.map RidgeCtx.count })

/-- The internal converter's output moves toward its code by at most 10 mV in a microsecond (spec/02, after R318). -/
def slew (mv target : Nat) : Nat := if mv < target then min (mv + 10) target else max (mv - 10) target

def State.tickVcore (s : State) : State :=
  s.setSupply (fun p => { p with vcMv := slew p.vcMv (vcodeMv (s.fieldOf .supVcore 15 8)) })

/-! ## The tick -/

/-- What runs while AON does. -/
def State.tickAon (s : State) : State :=
  match s.life with
  | .up => ((((((s.tickMosc.tickPclk).tickPins).tickRidge).tickVcore).tickThatch).tickResidency).tickCharge.tickFrame
  | .bare => (((s.tickMosc.tickPclk).tickPins).tickVcore).tickResidency
  | .off => (s.tickMosc.tickPins).tickResidency
  | .waiting _ => s
  | .shelter => s
  | .lockout => s

/-- One MOSC tick. -/
def State.tick (s : State) : State :=
  { s.tickAon.tickRtc with pending := s.pending, cfg := s.cfg, root := s.root, now := s.now + 1 }

end Sys2Proof.Machine
end

