-- ==== Sys2Proof/Safety.lean ====
section
/-! DEFINITION. The terms that the statements are written in: an executed core instruction, what it may change, the flags
of a result, an admitted register write, and the properties of the whole warden that every step keeps. -/

namespace Sys2Proof.Machine

/-! ## Executing a core instruction -/

/-- Gable `g` holds the core, may run its next instruction (no event comes first, R149), the fetch of an encoding `e`
raises nothing, and `e` is defined in the gable's instruction set (R152, R153). -/
def State.executes (s : State) (g : Gable) (e : Enc) : Prop :=
  s.core.running = some g ∧ s.mayRun g = true ∧ (s.fetch g (s.encLen g e)).1 = none ∧ s.defined g e = true

/-- The state once the instruction has been fetched: the cache and the instruction line buffer may have taken a line. -/
def State.fetched (s : State) (g : Gable) (e : Enc) : State := (s.fetch g (s.encLen g e)).2

/-- The gable's context with the program counter past the instruction (R155, R166). -/
def State.pastCtx (s : State) (g : Gable) (e : Enc) : Ctx :=
  { s.ctxOf g with pc := (s.ctxOf g).pc + BitVec.ofNat 32 (s.encLen g e), wfe := false }

/-- The performance counters of a gable and their control register (R151). -/
def Reg.isPerf (g : Gable) : Reg → Bool
  | .gabPerf h _ => decide (h = g)
  | .gabPerfCtl h => decide (h = g)
  | _ => false

/-- The registers that memory accesses and retirement count in: cache, error and performance counters. -/
def Reg.isCount : Reg → Bool
  | .lcCnt _ _ => true
  | .bnkEccCnt _ => true
  | .bnkEccLast => true
  | .gabPerf _ _ => true
  | .gabPerfCtl _ => true
  | _ => false

/-- `t` differs from `u` only in the context of `g` and in the performance counters of `g`: no byte of a bank, no line
of the cache, no other register and no other gable's context changes. -/
def State.onlyCtx (u : State) (g : Gable) (t : State) : Prop :=
  t = { u with regs := t.regs, core := { u.core with ctx := t.core.ctx } } ∧
    (∀ h, h ≠ g → t.ctxOf h = u.ctxOf h) ∧
    (∀ r, Reg.isPerf g r = false → t.reg r = u.reg r)

/-- Command `i`, executed by a gable with encoding `e`, completes; it changes only the gable's context, from that past
the instruction to one that `P` allows. -/
def RunsTo (i : Instr) (e : Enc) (P : Ctx → Ctx → Prop) : Prop :=
  ∀ (s : State) (g : Gable), s.executes g e →
    ∃ t, exec i s = .next t ∧ (s.fetched g e).onlyCtx g t ∧ P (s.pastCtx g e) (t.ctxOf g)

/-- The same for an instruction that also looks at its own address, the first argument of `P`. -/
def RunsFrom (i : Instr) (e : Enc) (P : Word → Ctx → Ctx → Prop) : Prop :=
  ∀ (s : State) (g : Gable), s.executes g e →
    ∃ t, exec i s = .next t ∧ (s.fetched g e).onlyCtx g t ∧ P (s.ctxOf g).pc (s.pastCtx g e) (t.ctxOf g)

/-! ## Memory as a program sees it -/

/-- The newest committed byte at a bank address: that of the cache line that holds it, else the bank's. -/
def State.byteAt (s : State) (a : Nat) : Byte :=
  match s.cache.holder (a / 32) with
  | some i => BitVec.ofNat 8 ((s.cache.lines[i.val]).data.toNat / 256 ^ (a % 32))
  | none => s.banks.byte a

/-- The number that `n` bytes from an address on stand for, least significant first (R2). -/
def State.bytesAt (s : State) (a n : Nat) : Nat := leNat ((List.range n).map (fun k => s.byteAt (a + k)))

/-! ## Exceptions (spec/07 R141 to R143) -/

/-- From `u` gable `g` has entered its handler at vector `vec`: steps 2 to 4 of R141. -/
def State.entersTrap (u : State) (g : Gable) (vec : Nat) (code : Byte) (line : Nat) (addr : Word) (t : State) : Prop :=
  t.reg (.gabEpc g) = (u.ctxOf g).pc ∧
    t.reg (.gabTcause g) = BitVec.ofNat 32 (vec + 0x100 * code.toNat + 0x10000 * line) ∧
    t.reg (.gabTaddr g) = addr ∧
    t.bitOf (.gabTstat g) 0 = true ∧ t.bitOf (.gabTstat g) 1 = true ∧
    t.bitOf (.gabTstat g) 2 = u.bitOf (.gabTstat g) 1 ∧
    t.ctxOf g = { u.ctxOf g with
      pc := BitVec.ofNat 32 ((u.reg (.gabTrapBase g)).toNat / 256 * 256 + 16 * vec), wfe := false } ∧
    t.core.ilb = [] ∧ (∀ h, h ≠ g → t.ctxOf h = u.ctxOf h) ∧
    (∀ r, Reg.isPerf g r = false → r ≠ .gabEpc g → r ≠ .gabTcause g → r ≠ .gabTaddr g → r ≠ .gabTstat g →
      t.reg r = u.reg r) ∧
    t = { u with regs := t.regs, core := { u.core with ctx := t.core.ctx, ilb := t.core.ilb } }

/-- A gable that may run reaches an instruction with encoding `e`: it holds the core and no event comes first. -/
def State.reaches (s : State) (g : Gable) : Prop := s.core.running = some g ∧ s.mayRun g = true

/-- Command `i`, reached by a gable outside a handler in a state that `H` allows, completes by taking an exception: older
stores commit first, and then it enters the handler (R141). -/
def Traps (i : Instr) (e : Enc) (vec : Nat) (code : Byte) (H : State → Gable → Word → Prop) : Prop :=
  ∀ (s : State) (g : Gable) (addr : Word), s.reaches g → s.bitOf (.gabTstat g) 0 = false → H s g addr →
    ∃ t, exec i s = .next t ∧ (s.fetched g e).drain.entersTrap g vec code 0 addr t ∧ t.core.sb = []

/-! ## Addresses of loads and stores (spec/08 R162, R164) -/

/-- Effective address and context after the write-back of a Hatch access of `n` bytes. -/
def HatchMode.ea (m : HatchMode) (c : Ctx) (rb : Fin 16) (n : Nat) : Word :=
  match m with
  | .base => c.g[rb.val]
  | .disp imm => c.g[rb.val] + imm.signExtend 32
  | .postInc => c.g[rb.val]
  | .preDec => c.g[rb.val] - BitVec.ofNat 32 n
  | .index ri sh => c.g[rb.val] + (c.g[ri.val] <<< sh.toNat)

def HatchMode.after (m : HatchMode) (c : Ctx) (rb : Fin 16) (n : Nat) : Ctx :=
  match m with
  | .base => c
  | .disp _ => c
  | .postInc => { c with g := c.g.set rb.val (c.g[rb.val] + BitVec.ofNat 32 n) }
  | .preDec => { c with g := c.g.set rb.val (c.g[rb.val] - BitVec.ofNat 32 n) }
  | .index _ _ => c

/-- An address in the page that BNK selects. -/
def Ctx.page (c : Ctx) (off : BitVec 16) : Word := c.bnk ++ off

/-- Effective address and context after the write-back of a Stipple access of `n` bytes. -/
def StippleMode.ea (m : StippleMode) (c : Ctx) (ab : Fin 8) (n : Nat) : Word :=
  match m with
  | .base => c.page c.a[ab.val]
  | .postInc => c.page c.a[ab.val]
  | .preDec => c.page (c.a[ab.val] - BitVec.ofNat 16 n)

def StippleMode.after (m : StippleMode) (c : Ctx) (ab : Fin 8) (n : Nat) : Ctx :=
  match m with
  | .base => c
  | .postInc => { c with a := c.a.set ab.val (c.a[ab.val] + BitVec.ofNat 16 n) }
  | .preDec => { c with a := c.a.set ab.val (c.a[ab.val] - BitVec.ofNat 16 n) }

def StippleMem.ea (f : StippleMem) (c : Ctx) : Word :=
  match f with
  | .short size mode _ _ ab => StippleMode.ea mode c ab (sizeBytes size)
  | .long _ _ _ ab disp => c.page (c.a[ab.val] + disp.signExtend 16)

def StippleMem.after (f : StippleMem) (c : Ctx) : Ctx :=
  match f with
  | .short size mode _ _ ab => StippleMode.after mode c ab (sizeBytes size)
  | .long _ _ _ _ _ => c

/-- Loaded data of `n` bytes as a word. -/
def loaded (sx : Bool) (n v : Nat) : Word :=
  if sx then (if n = 1 then (BitVec.ofNat 8 v).signExtend 32 else if n = 2 then (BitVec.ofNat 16 v).signExtend 32
    else BitVec.ofNat 32 v) else BitVec.ofNat 32 v

/-- A load instruction, executed with an access that raises nothing and meets no bank under self-test (spec/09 R183),
completes. From memory space the access leaves a state `u` in which only the cache, the banks, the store buffer and counters
changed, and data `v`, and nothing changes after it but the gable's context, which `P` gives. From device space the access
may have the effects of its register; after it too only the gable's context changes. -/
def LoadRuns (i : Instr) (e : Enc) (n : Nat) (ea : Ctx → Word) (P : Nat → Ctx → Ctx → Prop) : Prop :=
  (∀ (s : State) (g : Gable) (b : Nat) (kind : StoreKind) (isAlias : Bool) (ring : Option (Fin 8)) (u : State) (v : Nat),
    s.executes g e → s.place g (ea (s.ctxOf g)).toNat = .bank b kind isAlias ring →
    (s.fetched g e).underTest g .r (ea (s.ctxOf g)).toNat = false →
    (s.fetched g e).load g (ea (s.ctxOf g)) n = (.inr v, u) →
    ∃ t, exec i s = .next t ∧ u.onlyCtx g t ∧ P v (s.pastCtx g e) (t.ctxOf g) ∧
      (∀ h, h ≠ g → t.ctxOf h = s.ctxOf h) ∧
      u = { s.fetched g e with
        regs := u.regs, cache := u.cache, banks := u.banks, core := { (s.fetched g e).core with sb := u.core.sb } }) ∧
  (∀ (s : State) (g : Gable) (u : State) (v : Nat), s.executes g e →
    (s.fetched g e).underTest g .r (ea (s.ctxOf g)).toNat = false →
    (s.fetched g e).load g (ea (s.ctxOf g)) n = (.inr v, u) →
    ∃ t w, exec i s = .next t ∧ t = s.commit w ∧ u.onlyCtx g w ∧
      P v { u.ctxOf g with pc := (u.ctxOf g).pc + BitVec.ofNat 32 (s.encLen g e), wfe := false } (t.ctxOf g))

/-- A store instruction, executed where its naturally aligned address leads to a bank that the gable may write and whose
path is open, completes: the store buffer, which has room, takes the store, and nothing else changes but the gable's
context, which `after` gives. -/
def StoreRuns (i : Instr) (e : Enc) (size : Size) (ea : Ctx → Word) (val : Ctx → Word) (after : Ctx → Ctx) : Prop :=
  ∀ (s : State) (g : Gable) (b : Nat) (kind : StoreKind) (isAlias : Bool) (ring : Option (Fin 8)), s.executes g e →
    (ea (s.ctxOf g)).toNat % sizeBytes size = 0 →
    s.place g (ea (s.ctxOf g)).toNat = .bank b kind isAlias ring → s.cfg.may g .w b = true →
    s.pathOn b isAlias = true → s.core.sb.length < 4 →
    ∃ t, exec i s = .next t ∧ t.ctxOf g = after (s.pastCtx g e) ∧
      t.core.sb = s.core.sb ++
        [SbEntry.mk g b size (BitVec.ofNat 32 ((val (s.ctxOf g)).toNat % 256 ^ sizeBytes size)) kind ring] ∧
      (∀ h, h ≠ g → t.ctxOf h = s.ctxOf h) ∧
      (∀ r, Reg.isPerf g r = false → t.reg r = (s.fetched g e).reg r) ∧
      (∀ a, t.byteAt a = (s.fetched g e).byteAt a) ∧
      t = { s.fetched g e with
        regs := t.regs, core := { (s.fetched g e).core with ctx := t.core.ctx, sb := t.core.sb } }

/-! ## Flags of a result (spec/08 Table ISA-2) -/

/-- FLAGS go from `f` to `f'` on a result `w`: N and Z of the result, C and V as given, SAT and AOV kept. -/
def FlagsAre (f f' : BitVec 6) (w : Word) (c v : Bool) : Prop :=
  f'.getLsbD 3 = w.msb ∧ f'.getLsbD 2 = decide (w = 0) ∧ f'.getLsbD 0 = c ∧ f'.getLsbD 1 = v ∧
    f'.getLsbD 4 = f.getLsbD 4 ∧ f'.getLsbD 5 = f.getLsbD 5

/-- A true value that a signed word does not hold. -/
def overflows (x : Int) : Bool := decide (x < -2147483648) || decide (2147483647 < x)

/-- Operands of a register-register form. -/
def AluForm.fst (f : AluForm) (c : Ctx) : Word :=
  match f with
  | .hatch _ ra _ _ => c.g[ra.val]
  | .stipple d _ => c.d[d.val]

def AluForm.snd (f : AluForm) (c : Ctx) : Word :=
  match f with
  | .hatch _ _ rb _ => c.g[rb.val]
  | .stipple _ sr => c.d[sr.val]

/-- A form yields a result: its destination register holds `w`, FLAGS follow where the form sets flags (Hatch: S = 1;
Stipple: always) and stay otherwise, and nothing else of the context changes. -/
def AluForm.yields (f : AluForm) (c c' : Ctx) (w : Word) (cf vf : Bool) : Prop :=
  match f with
  | .hatch rd _ _ sb => ∃ fl, c' = { c with g := c.g.set rd.val w, flags := fl } ∧
      (if sb then FlagsAre c.flags fl w cf vf else fl = c.flags)
  | .stipple d _ => ∃ fl, c' = { c with d := c.d.set d.val w, flags := fl } ∧ FlagsAre c.flags fl w cf vf

/-- Operand, immediate and result of an immediate form; the immediate is sign-extended. -/
def ImmForm.fst (f : ImmForm) (c : Ctx) : Word :=
  match f with
  | .hatch _ ra _ _ => c.g[ra.val]
  | .short d _ => c.d[d.val]
  | .long d _ => c.d[d.val]

def ImmForm.sext : ImmForm → Word
  | .hatch _ _ _ imm => imm.signExtend 32
  | .short _ imm => imm.signExtend 32
  | .long _ imm => imm.signExtend 32

def ImmForm.zext : ImmForm → Word
  | .hatch _ _ _ imm => imm.zeroExtend 32
  | .short _ imm => imm.zeroExtend 32
  | .long _ imm => imm.zeroExtend 32

def ImmForm.yields (f : ImmForm) (c c' : Ctx) (w : Word) (cf vf : Bool) : Prop :=
  match f with
  | .hatch rd ra sb _ => AluForm.yields (.hatch rd ra ra sb) c c' w cf vf
  | .short d _ => AluForm.yields (.stipple d d) c c' w cf vf
  | .long d _ => AluForm.yields (.stipple d d) c c' w cf vf

/-- The same for ORI and XORI, which have no six-bit form. -/
def LogicImmForm.fst (f : LogicImmForm) (c : Ctx) : Word :=
  match f with
  | .hatch _ ra _ _ => c.g[ra.val]
  | .long d _ => c.d[d.val]

def LogicImmForm.zext : LogicImmForm → Word
  | .hatch _ _ _ imm => imm.zeroExtend 32
  | .long _ imm => imm.zeroExtend 32

def LogicImmForm.yields (f : LogicImmForm) (c c' : Ctx) (w : Word) (cf vf : Bool) : Prop :=
  match f with
  | .hatch rd ra sb _ => AluForm.yields (.hatch rd ra ra sb) c c' w cf vf
  | .long d _ => AluForm.yields (.stipple d d) c c' w cf vf

/-- Operands of the compares. -/
def CmpForm.fst (f : CmpForm) (c : Ctx) : Word :=
  match f with
  | .hatch ra _ => c.g[ra.val]
  | .stipple d _ => c.d[d.val]

def CmpForm.snd (f : CmpForm) (c : Ctx) : Word :=
  match f with
  | .hatch _ rb => c.g[rb.val]
  | .stipple _ sr => c.d[sr.val]

def CmpImmForm.fst (f : CmpImmForm) (c : Ctx) : Word :=
  match f with
  | .hatch ra _ => c.g[ra.val]
  | .short d _ => c.d[d.val]
  | .long d _ => c.d[d.val]

def CmpImmForm.sext : CmpImmForm → Word
  | .hatch _ imm => imm.signExtend 32
  | .short _ imm => imm.signExtend 32
  | .long _ imm => imm.signExtend 32

/-- A compare changes FLAGS alone, to those of the difference. -/
def Ctx.compares (c c' : Ctx) (a b : Word) : Prop :=
  ∃ fl, c' = { c with flags := fl } ∧
    FlagsAre c.flags fl (a - b) (decide (b.toNat ≤ a.toNat)) (overflows (a.toInt - b.toInt))

/-- A Stipple instruction with one destination register. -/
def Ctx.takesD (c c' : Ctx) (d : Fin 8) (w : Word) (cf vf : Bool) : Prop :=
  AluForm.yields (.stipple d d) c c' w cf vf

/-- The register that JR, CALLR, MFF and MTF name. -/
def RegForm.read (f : RegForm) (c : Ctx) : Word :=
  match f with
  | .hatch r => c.g[r.val]
  | .stipple d => c.d[d.val]

def RegForm.write (f : RegForm) (c : Ctx) (w : Word) : Ctx :=
  match f with
  | .hatch r => { c with g := c.g.set r.val w }
  | .stipple d => { c with d := c.d.set d.val w }

/-- An accumulator takes a true value modulo 2^40: N and Z of the accumulator, AOV set where the true value lies outside
the 40 bits, C, V and SAT kept (R161). -/
def Ctx.accTakes (c c' : Ctx) (m : Fin 2) (x : Int) : Prop :=
  ∃ fl, c' = { c with acc := c.acc.set m.val (BitVec.ofInt 40 x), flags := fl } ∧
    fl.getLsbD 3 = (BitVec.ofInt 40 x).msb ∧ fl.getLsbD 2 = decide (BitVec.ofInt 40 x = 0) ∧
    fl.getLsbD 5 = (c.flags.getLsbD 5 || decide (x < -549755813888) || decide (549755813887 < x)) ∧
    fl.getLsbD 0 = c.flags.getLsbD 0 ∧ fl.getLsbD 1 = c.flags.getLsbD 1 ∧ fl.getLsbD 4 = c.flags.getLsbD 4

/-- A signed halfword of a word, as the multiply-accumulate takes it (Table ISA-12). -/
def lowSigned (w : Word) : Int := (w.extractLsb' 0 16).toInt

/-! ## Register writes (spec/00 R4 to R6, R14) -/

/-- The registers that a write stores and nothing more (Table SCO-4): neither does it start an operation, nor is it checked
further, nor does another part of the warden follow it. -/
def Reg.plain : Reg → Bool
  | .supCfg => false
  | .supAvsCfg => false
  | .gutCfg => false
  | .gutThr => false
  | .clkCfg => false
  | .clkFrcTrim => false
  | .clkGate => false
  | .tmrRtcCtl => false
  | .tmrSCtl _ => false
  | .tmrFCtl _ => false
  | .snsConv _ => false
  | .pwrReset => false
  | .pwrPadRelease => false
  | .pwrGpioOut _ => false
  | .pwrGpioOe _ => false
  | .pwrWakeMasked => false
  | .pwrResCtl => false
  | .rdgCall _ => false
  | .rdgArg0 _ => false
  | .rdgArg1 _ => false
  | .rdgCommit => false
  | .gabTrapBase _ => false
  | .gabEvtEnLo _ => false
  | .gabEvtEnHi _ => false
  | .gabEvtPendLo _ => false
  | .gabPerfCtl _ => false
  | .gabCtl _ => false
  | .gabFault _ => false
  | .bnkEccLast => false
  | .bnkBist => false
  | .bnkCwin _ => false
  | .lcGctl _ => false
  | .lcOp _ => false
  | .thtOp _ => false
  | .thtWait _ => false
  | .thtSel _ => false
  | .thtStatCtl => false
  | .burCommit => false
  | .burCtl _ => false
  | .burPincfg _ => false
  | .burTxf _ => false
  | .purPcfg _ => false
  | .purPctl _ => false
  | .purReply _ => false
  | _ => true

/-- A write by a gable reaches a register of a running warden, and passes the checks of rights, reserved bits and reserved
encodings. -/
def State.admits (s : State) (g : Gable) (r : Reg) (v : Word) : Prop :=
  s.up = true ∧ s.reachable r.domain = true ∧ s.writeRefused g r v = false ∧ v &&& ~~~ (r.definedMask) = 0 ∧
    r.reservedEncoding v = false

/-- `t` differs from `s` at most in the stored words of the registers that `p` allows. -/
def State.onlyRegs (s : State) (p : Reg → Prop) (t : State) : Prop :=
  t = { s with regs := t.regs } ∧ ∀ r, ¬ p r → t.reg r = s.reg r

/-- `t` holds in every register but those listed what `s` holds. -/
def State.keeps (s : State) (l : List Reg) (t : State) : Prop := ∀ r : Reg, r ∉ l → t.reg r = s.reg r

/-- `t` differs from `s` at most in the stored words of the registers that `p` allows, once the older stores of the core
have committed and the access has counted (spec/07 R146): what a write of a plain register leaves. -/
def State.accessedOnly (s : State) (g : Gable) (p : Reg → Prop) (t : State) : Prop := (s.deviceAccess g).onlyRegs p t

/-- A service of gable `g` has ended with a code (spec/06 R126): Ridge is at its DISPATCH word with an empty stack, the
caller's slot is free, and its result shows DONE and the code, or is discarded if the caller was reset meanwhile
(R134). -/
def State.answers (s : State) (g : Gable) (code : Byte) (t : State) : Prop :=
  t.ridge = { s.ridge with ctx := s.ridge.ctx.idle, slots := t.ridge.slots, discard := t.ridge.discard } ∧
    t.ridge.slots[g.val] = .free ∧ t.ridge.discard[g.val] = false ∧
    (∀ h : Gable, h ≠ g → t.ridge.slots[h.val] = s.ridge.slots[h.val] ∧ t.ridge.discard[h.val] = s.ridge.discard[h.val]) ∧
    (if s.ridge.discard[g.val] then t.reg (.rdgResult g) = 0
     else bitsOf (t.reg (.rdgResult g)) 7 0 = code.toNat ∧ t.bitOf (.rdgResult g) 16 = true)

/-- Line `n` has been told to gable `g`: it pends there where the Plate routes it (spec/07 R148). -/
def State.told (s : State) (g : Gable) (n : Nat) (t : State) : Prop :=
  t.linePending g n = (s.linePending g n || s.cfg.routed g n)

/-- Line `n` has been told to every gable. -/
def State.toldAll (s : State) (n : Nat) (t : State) : Prop := ∀ g : Gable, s.told g n t

/-- The registers of pending event lines. -/
def Reg.isPend : Reg → Bool
  | .gabEvtPendLo _ => true
  | .gabEvtPendHi _ => true
  | _ => false

/-- `t` holds in every register but those listed and those of pending lines what `s` holds. -/
def State.tells (s : State) (l : List Reg) (t : State) : Prop :=
  ∀ r : Reg, r ∉ l → Reg.isPend r = false → t.reg r = s.reg r

/-- The power logic with other requests of the gables: a delivered event may withdraw requests (spec/05 R91, R93). -/
def Power.requests (p q : Power) : Power := { p with greq := q.greq, offAt := q.offAt }

/-- The AVSBus request `q` of state `s` has ended with a code (spec/02 R33, R317): the token is free, a Ridge word's failure
makes VREQ_FAIL true from the end of that word (spec/06 R116), and an AVS_SET call is answered. -/
def State.avsEnded (s : State) (q : AvsReq) (code : Byte) (t : State) : Prop :=
  t.supply.avs = none ∧ t.bitOf .supStat 9 = false ∧
    match q.origin with
    | .ridge => t.ridge = { s.ridge with vreqPend := decide (code ≠ E_OK) }
    | .service g => State.answers { s with ridge := { s.ridge with vreqFail := decide (code ≠ E_OK) } } g code t
    | .coldStart => t.ridge = s.ridge
    | .poll => t.ridge = s.ridge

/-- The AVS_SET call that a request serves, if one does, runs. -/
def State.avsServed (s : State) (q : AvsReq) : Prop :=
  ∀ g, q.origin = .service g → ∃ n, s.ridge.ctx.routine = .service g n

/-- The registers that the end of a request writes: the token, and an AVS_SET call's result. -/
def AvsReq.endRegs (q : AvsReq) : List Reg :=
  match q.origin with
  | .service g => [.supStat, .rdgResult g]
  | .ridge => [.supStat]
  | .coldStart => [.supStat]
  | .poll => [.supStat]

/-- No call and no poll waits for the AVSBus token. -/
def State.tokenUnasked (s : State) : Prop := s.supply.avsSetWait = none ∧ s.supply.pollWait = false

/-- VST stands above every threshold of darkness, and above the automatic seed start (Table GUT-1, R47). -/
def State.vstAmple (s : State) : Prop :=
  s.tDusk ≤ s.vstMv ∧ s.tShelter ≤ s.vstMv ∧ s.tDie ≤ s.vstMv ∧ 1700 ≤ s.vstMv

/-- No session is open and no boost has begun. -/
def State.linkUnused (s : State) : Prop := (∀ g p, s.session g p = none) ∧ ∀ g : Gable, (s.gab g).boost = none

/-- Disabling the gates `off` meets gate `c`, enabled and busy, below gate `p`, which is enabled: every gate between the two
is enabled (spec/04 R72, Table CLK-3). -/
def State.blocks (s : State) (off : List Nat) (p c : Nat) : Prop :=
  p ∈ off ∧ s.bitOf .clkGate p = true ∧ p ∈ gateAncestors c ∧ s.bitOf .clkGate c = true ∧ s.gateBusy c = true ∧
    ∀ a, a ∈ gateAncestors c → p ∈ gateAncestors a → s.bitOf .clkGate a = true

/-- The lowest-numbered gate that is blocked so, and its lowest busy child. -/
def State.blocksFirst (s : State) (off : List Nat) (p c : Nat) : Prop :=
  s.blocks off p c ∧ (∀ q d, s.blocks off q d → p ≤ q) ∧ ∀ d, s.blocks off p d → c ≤ d

/-! ## Ridge words (spec/06 Table RDG-2) -/

/-- Ridge goes on at an address with a stack, at the boundary of a word. -/
def State.ridgeAt (s : State) (a : BitVec 9) (stack : List (BitVec 9)) : State :=
  { s with ridge := { s.ridge with ctx := { s.ridge.ctx with addr := a, stack := stack, phase := .boundary } } }

/-- The address after the word Ridge stands at. -/
def State.ridgeInc (s : State) : BitVec 9 := BitVec.ofNat 9 ((s.ridge.ctx.addr.toNat + 1) % 512)

/-- A word has ended as its NXT field says, outside a transition between global states (Table RDG-2, R121, R122);
`timeout` tells a WAIT that ended by its timeout. -/
def State.followsNxt (s : State) (timeout : Bool) (t : State) : Prop :=
  let w := s.ridgeWordAt
  let inc := s.ridgeInc
  let target := BitVec.ofNat 9 (rdgTarget w)
  let stack := s.ridge.ctx.stack
  let cond := s.ridgeCond (rdgCond w)
  let faults := fun (cause : Nat) => ∀ g n, s.ridge.ctx.routine = .service g n →
    t.reg .rdgFault = BitVec.ofNat 32 (s.ridge.ctx.addr.toNat + 0x200 * cause) ∧ t.bitOf .rdgEvt 0 = true ∧
      s.answers g E_RANGE t
  (rdgNxt w = 0 → t = s.ridgeAt inc stack) ∧
    (rdgNxt w = 1 → t = s.ridgeAt target stack) ∧
    (rdgNxt w = 2 → t = s.ridgeAt (if cond then target else inc) stack) ∧
    (rdgNxt w = 3 → t = s.ridgeAt (if cond then inc else target) stack) ∧
    (rdgNxt w = 4 → if stack.length < 4 then t = s.ridgeAt target (inc :: stack) else faults 1) ∧
    (rdgNxt w = 5 → match stack with
      | a :: rest => t = s.ridgeAt a rest
      | [] => faults 2) ∧
    (rdgNxt w = 6 → t = s.ridgeAt (if timeout then target else inc) stack) ∧
    (rdgNxt w = 7 → ∀ g n, s.ridge.ctx.routine = .service g n →
      s.answers g (if 256 ≤ rdgTarget w then s.ridge.lastAct else BitVec.ofNat 8 (rdgTarget w % 16)) t) ∧
    (rdgNxt w = 7 → ∀ e, s.ridge.ctx.routine = .trigger e → entryState e.toNat = none →
      t = { s with ridge := { s.ridge with ctx := s.ridge.ctx.idle } }) ∧
    (rdgNxt w = 7 → s.ridge.ctx.routine = .init ∨ s.ridge.ctx.routine = .dispatch →
      t = { s with ridge := { s.ridge with ctx := s.ridge.ctx.idle } }) ∧
    (rdgNxt w = 8 → t = { s with ridge := { s.ridge with
      ctx := { s.ridge.ctx with stack := [], origin := s.ridge.ctx.addr, routine := .dispatch, phase := .atDispatch } } })

/-- A word whose fields before NXT ask for nothing. -/
def quietWord (w : BitVec 128) : Prop :=
  rdgEvt w = 0 ∧ rdgDom w = 0 ∧ rdgPadh w = 0 ∧ rdgClkg w = 0 ∧ rdgVreq w = false ∧ rdgCnt w = 0 ∧ rdgTmr w = 0

/-- A word without a voltage request begins: the refusals of the word before hold during it (R123), and VREQ_FAIL is true if
it was, or if a request of the word before failed (R116). -/
def State.wordBegun (s : State) : State :=
  { s with ridge := { s.ridge with
      ctx := s.ridge.ctx.beginning, refs := s.ridge.refsNext, refsNext := Refs.none
      vreqFail := s.ridge.vreqFail || s.ridge.vreqPend, vreqPend := false } }

/-! ## Buffers of Thatch (spec/12 Table THT-1) -/

/-- The eight bytes of a buffer's header as a program would see them: NEXT or REFCNT, guard tag, pool and holder, state. -/
def State.headerIs (s : State) (a low : Nat) (p : Fin 4) (holder st : Nat) : Prop :=
  (List.range 8).map (fun k => s.byteAt (a + k)) =
    leBytes 4 low ++ leBytes 2 0x5A1F ++ [BitVec.ofNat 8 (p.val + 4 * holder), BitVec.ofNat 8 st]

/-- The line engines once a prefetch in transfer is done: its engine takes up the oldest that waits (spec/10 R195). -/
def Cache.without (c : Cache) (tr : Transfer) : Cache :=
  { c with transfers := startWaiting (Cache.idle { c with transfers := c.transfers.erase tr }) (c.transfers.erase tr) }

/-- `t` differs from `s` in memory at most in the eight bytes of the header at `a`, no line of which is cached, and in
registers at most in those listed and in the error counters. -/
def State.onlyHeader (s : State) (a : Nat) (l : List Reg) (t : State) : Prop :=
  (∀ x, x < a ∨ a + 8 ≤ x → t.banks.byte x = s.banks.byte x) ∧
    (∀ r, Reg.isCount r = false → r ∉ l → t.reg r = s.reg r) ∧
    t = { s with regs := t.regs, banks := t.banks, thatch := t.thatch, power := t.power }

/-- A gable's Thatch operation on an argument passes the register checks; `u` is the state in which it acts: the core's
older stores have committed (spec/07 R146), and THT_ARG is written. -/
def State.thtAsks (s : State) (g : Gable) (arg v : Word) (u : State) : Prop :=
  (s.deviceAccess g).admits g (.thtArg g) arg ∧ u = ((s.deviceAccess g).setReg (.thtArg g) arg).deviceAccess g ∧
    u.admits g (.thtOp g) v

/-! ## Burin words (spec/13 Table BUR-1) -/

/-- The word that an engine stands at. -/
def State.burWordOf (s : State) (n : EngineNo) : BitVec 128 := s.burin.wordAt (s.engine n).pc.toNat

/-- Nothing but engine `n` changes. -/
def State.onlyEngine (s : State) (n : EngineNo) (t : State) : Prop :=
  t = { s with burin := { s.burin with eng := t.burin.eng } } ∧ ∀ m : EngineNo, m ≠ n → t.engine m = s.engine m

/-- What a word leaves of an engine that it neither shifts, folds nor moves FIFO words in: X, the CRC, the shifter, its
counts and the FIFOs. -/
def Engine.sameData (e f : Engine) : Prop :=
  f.x = e.x ∧ f.crc = e.crc ∧ f.shifter = e.shifter ∧ f.bitsOut = e.bitsOut ∧ f.bitsIn = e.bitsIn ∧ f.txf = e.txf ∧
    f.rxf = e.rxf ∧ f.swf = e.swf ∧ f.parkReq = e.parkReq

/-- An engine has gone on from a word of state `s` as NXT says, to `t` (R241); conditions are of the state after phase
7, and none looks at what phase 8 changes. -/
def State.burFollows (s : State) (n : EngineNo) (timeout : Bool) (t : State) : Prop :=
  let w := s.burWordOf n
  let e := s.engine n
  let f := t.engine n
  let inc := BitVec.ofNat 10 (e.pc.toNat + 1)
  let target := BitVec.ofNat 10 (burTarget w)
  let cond := t.burCondition n w
  let goes := fun (a : BitVec 10) (stack : List (BitVec 10)) => f.pc = a ∧ f.stack = stack ∧ f.st = .running ∧ f.phase = .start
  let faults := fun (cause : Nat) => f.st = .halted ∧ f.pc = e.pc ∧
    t.reg (.burFault n) = BitVec.ofNat 32 (e.pc.toNat + 0x400 * cause + 0x1000) ∧
    ∀ g, s.cfg.engineOwner n = some g → s.told g (22 + n.val) t
  (burNxt w = 0 ∨ burNxt w = 8 → goes inc e.stack) ∧
    (burNxt w = 1 → goes target e.stack) ∧
    (burNxt w = 2 → goes (if cond then target else inc) e.stack) ∧
    (burNxt w = 3 → goes (if cond then inc else target) e.stack) ∧
    (burNxt w = 4 → if e.stack.length < 4 then goes target (inc :: e.stack) else faults 1) ∧
    (burNxt w = 5 → match e.stack with
      | a :: rest => goes a rest
      | [] => faults 2) ∧
    (burNxt w = 6 → goes (if timeout then target else inc) e.stack) ∧
    (burNxt w = 7 → f.st = .halted ∧ f.synced = true ∧ f.pc = e.pc)

/-- A word that only drives pins: it neither shifts, moves FIFO words, folds, nor works with X or events. -/
def burPlain (w : BitVec 128) : Prop :=
  burShift w = 0 ∧ burSmode w = 0 ∧ burFifop w = 0 ∧ burCrcop w % 4 = 0 ∧ burEvt w = 0

/-- The pins that a word without a shift drives (R238): OUT slots keep their values. -/
def State.burPins (s : State) (n : EngineNo) (w : BitVec 128) (e : Engine) : Prop :=
  e.pinOe = BitVec.ofNat 8 (burPinOe w) ∧
    ∀ k : Fin 8, e.pinOut.getLsbD k.val =
      if k.val ∈ s.outSlots n then (s.engine n).pinOut.getLsbD k.val else decide (burPinOut w / 2 ^ k.val % 2 = 1)

/-- No PAD_RELEASE_ASSIST call waits for its release point, which the words of an engine may reach (spec/05 R99). -/
def State.assistUnasked (s : State) : Prop := ∀ g : Gable, s.serviceWaits g 0x05 = false

/-- Engine `n` runs: BUR is ON and its clock runs (R235). -/
def State.engineUp (s : State) (n : EngineNo) : Prop := s.domOn dBUR = true ∧ s.gateRuns (3 + n.val) = true

/-! ## Ports and sessions (spec/14) -/

/-- Nothing but port `p` changes. -/
def State.onlyPort (s : State) (p : Port) (t : State) : Prop :=
  t = { s with purlin := { s.purlin with ports := t.purlin.ports } } ∧ ∀ q : Port, q ≠ p → t.port q = s.port q

/-- Port `p` has started to train (R254): it sends TS1 with its rate, its role and a fresh ticket; its queues, credits and
sessions stay. -/
def State.trainsAnew (s : State) (p : Port) (t : State) : Prop :=
  t.port p = PortState.transmit { s.port p with
    link := .training, head := false, rate := 0, ts1 := 0, ts2 := 0, sofs := 0, ticket := (t.port p).ticket
    swap := .linked, reissued := false, act := false } [.ts1 (s.ownRate p) (s.ownRole p) (t.port p).ticket p] 0

/-- A frame of opcode `opc` arrives whole at a trained port: the checks of R259 on the frame itself are passed. -/
def State.meets (s : State) (opc : BitVec 4) (f : Frame) : Prop :=
  s.receives f.port = true ∧ f.discard = none ∧ f.opc = opc

/-- A control frame of opcode `opc` arrives whole and a control buffer takes it (R259). -/
def State.meetsCtl (s : State) (opc : BitVec 4) (f : Frame) : Prop := s.meets opc f ∧ (s.port f.port).ctlFull = false

/-- A sequenced frame of opcode `opc` arrives whole and a buffer holds it: checks of R259 and R261 are passed. -/
def State.holdsFrame (s : State) (opc : BitVec 4) (f : Frame) : Prop :=
  s.meets opc f ∧ s.portHeld f.port < (s.port f.port).empty.length

/-- A sequenced command of opcode `opc` arrives whole, a buffer holds it, and its TAG is that of session `x`: checks 1 and
2 of R268 are passed. -/
def State.hears (s : State) (opc : BitVec 4) (f : Frame) (x : Session) : Prop :=
  s.holdsFrame opc f ∧ s.session f.sess f.port = some x ∧
    f.tag = frameTag x.ks false (frameBody false opc f.flags f.sess 0 f.seq f.data)

/-- The command passes every check up to its opcode's own (R268, R270): it is performed now. -/
def State.performs (s : State) (opc : BitVec 4) (f : Frame) (x : Session) : Prop :=
  s.hears opc f x ∧ f.seq = x.lastSeq + 1 ∧ f.seq ≠ x.lastSeq ∧ x.pending = none ∧ s.refusing = false ∧
    s.defers opc f = false

/-- The state once a command's SEQ is accepted: it is the session's last, and no response is cached. -/
def State.heard (s : State) (f : Frame) (x : Session) : State :=
  (s.setPurlin (fun u => { u with received := u.received + 1 })).putSession f.sess f.port
    (some { x with lastSeq := f.seq, cached := none, usedAt := s.now })

/-- The state in which an accepted command acts: it is a PUR wake where the warden does not run (spec/05 R105). -/
def State.woken (s : State) (f : Frame) (x : Session) : State := (s.heard f x).cmdWake f.port

/-- The same, with the command's receive buffer empty again (R260). -/
def State.taken (s : State) (f : Frame) (x : Session) : State :=
  (s.woken f x).setPort f.port (fun q => { q with fresh := q.fresh + 1 })

/-- From `u` the response to a command has been queued and cached, and the session closes with the last SEQ (R268, R269). -/
def State.replied (u : State) (opc : BitVec 4) (f : Frame) (x : Session) (flags code : Byte) (data : List Byte)
    (t : State) : Prop :=
  let r := x.response opc flags f.sess code f.seq data
  (t.port f.port).data = (u.port f.port).data ++ [r] ∧
    (if f.seq = 0xFFFFFFFF then t.session f.sess f.port = none
     else ∃ y, t.session f.sess f.port = some y ∧ y.cached = some r ∧ y.pending = none ∧ y.lastSeq = f.seq ∧ y.ks = x.ks) ∧
    (∀ g p, (g, p) ≠ (f.sess, f.port) → t.session g p = u.session g p) ∧
    t = { u with regs := t.regs, purlin := t.purlin, power := Power.requests u.power t.power } ∧
    (f.seq ≠ 0xFFFFFFFF → t.regs = u.regs)

/-- The command that a row's frame carries. -/
def seqCommand (opc : BitVec 4) (f : Frame) : Instr :=
  if opc = opcClose then .close f
  else if opc = opcReadReg then .readReg f
  else if opc = opcWriteReg then .writeReg f
  else if opc = opcWinRead then .winRead f
  else if opc = opcWinWrite then .winWrite f
  else .msgSend f

/-- The opcodes of the sequenced commands (Table PUR-4). -/
def seqOpcodes : List (BitVec 4) := [opcClose, opcReadReg, opcWriteReg, opcWinRead, opcWinWrite, opcMsgSend]

/-- An OPEN has been answered: its response is queued as a control frame, and no other port changes. -/
def State.openAnswered (s : State) (f : Frame) (code : Byte) (data : List Byte) (t : State) : Prop :=
  t.port f.port = { s.port f.port with ctl := (s.port f.port).ctl ++ [.openResp f.sess code data] } ∧
    ∀ q : Port, q ≠ f.port → t.port q = s.port q

/-- The receive buffer of a frame at port `p` is empty again; nothing else there changes (R260). -/
def State.bufferEmptied (s : State) (p : Port) (t : State) : Prop := t.port p = { s.port p with fresh := (s.port p).fresh + 1 }

/-! ## The whole warden -/

/-- R19: no bank, engine, pad group, wake source or analog input has two owners, and no bank is both owned and designated
to Thatch. -/
def Cfg.exclusive (c : Cfg) : Prop :=
  (∀ g h : Gable, g ≠ h → (c.desc[g.val]).present = true → (c.desc[h.val]).present = true →
    (c.desc[g.val]).banks &&& (c.desc[h.val]).banks = 0 ∧ (c.desc[g.val]).engines &&& (c.desc[h.val]).engines = 0 ∧
      (c.desc[g.val]).groups &&& (c.desc[h.val]).groups = 0 ∧ (c.desc[g.val]).wakes &&& (c.desc[h.val]).wakes = 0 ∧
      (c.desc[g.val]).ains &&& (c.desc[h.val]).ains = 0) ∧
    ∀ g : Gable, (c.desc[g.val]).present = true → (c.desc[g.val]).banks &&& c.thtBanks = 0

/-- R206 and R312: the link reserve and the budgets of the gables fit in a frame, and the quantum is not 0. -/
def Cfg.budgeted (c : Cfg) : Prop :=
  c.linkRsv +
      ((List.finRange 8).map (fun g : Gable => if (c.desc[g.val]).present then (c.desc[g.val]).budget else 0)).sum ≤ 1000 ∧
    c.quantum ≠ 0

/-- The anti-rollback floors of the current root copy: the Plate's, Ridge's and Burin's; 0 before the first use. -/
def State.floors (s : State) : Nat × Nat × Nat :=
  match s.rootCopy with
  | none => (0, 0, 0)
  | some r => (r.arbPlate, r.arbRdg, r.arbBur)

/-- Bank memory, the Proof store and the NVM are in canonical form: addresses rise strictly, and no listed byte is what an
unlisted one reads as. -/
def State.canonical (s : State) : Prop :=
  Memory.wf s.banks.mem = true ∧ Memory.wf s.nv.proof = true ∧ Memory.wfBy 0xFF s.nv.nvm.bytes = true

end Sys2Proof.Machine
end

