-- ==== Sys2Proof/Certificates/Slice0/Obligations.lean ====
section
/-! DEFINITION. The statements for the provers: what the rules of the spec say that the warden and its commands do. -/

section
open Sys2Proof Sys2Proof.Machine


/-! ## The queue, the reset state, and what every step keeps -/

/-- The command at the front of the queue runs with the rest of the queue left waiting (its effect is `exec`'s); with none
waiting one MOSC tick passes (the model's choice, notes/assumptions/2.md). -/
def Obligations.StepRunsTheFrontCommand : Prop :=
  (∀ (s : State) (c : Instr) (rest : List Instr),
    step { s with pending := c :: rest } = exec c { s with pending := rest }) ∧
  (∀ s : State, s.pending = [] → ∃ t, step s = .next t ∧ t.now = s.now + 1 ∧ t.pending = [] ∧ t.cfg = s.cfg ∧
    t.root = s.root)

/-- R3: after reset every register holds the Reset of its fields (SUP_STAT and CLK_STAT show the sources that the model's
reset state assumes, notes/assumptions/4.md); nothing waits; no memory is listed; the core holds nothing. -/
def Obligations.ResetLeavesRegistersAtReset : Prop :=
  (∀ r : Reg, r ≠ .supStat → r ≠ .clkStat → State.reset.reg r = Reg.reset r) ∧
  State.reset.pending = [] ∧ State.reset.banks.mem = [] ∧ State.reset.nv.proof = [] ∧ State.reset.core.sb = [] ∧
  State.reset.core.running = none ∧ State.reset.cfg.exclusive ∧ State.reset.cfg.budgeted ∧
  State.reset.floors = (0, 0, 0) ∧ State.reset.canonical

/-- R19, R206, R312: ownership stays exclusive and the budgets of a frame stay within 1 ms across every step. -/
def Obligations.EveryStepKeepsOwnershipExclusive : Prop :=
  ∀ s t : State, s.cfg.exclusive → s.cfg.budgeted → step s = .next t → t.cfg.exclusive ∧ t.cfg.budgeted

/-- Every step keeps bank memory, the Proof store and the NVM in canonical form, so that equal contents are equal data
(the model's form of memory; spec/09 and spec/15 name the memories). -/
def Obligations.EveryStepKeepsTheMemoriesCanonical : Prop :=
  ∀ s t : State, s.canonical → step s = .next t → t.canonical

/-- R280: no anti-rollback floor of the Proof store root ever falls. -/
def Obligations.NoStepLowersAnAntiRollbackFloor : Prop :=
  ∀ s t : State, step s = .next t →
    s.floors.1 ≤ t.floors.1 ∧ s.floors.2.1 ≤ t.floors.2.1 ∧ s.floors.2.2 ≤ t.floors.2.2

/-- R17: only a cold start changes what the Plate fixed; no other command changes it or the Proof store root, and no
command changes the time or the queue, or stops the machine. R308: a cold start does not begin where the TEST ball is
high. -/
def Obligations.OnlyColdStartReadsThePlate : Prop :=
  (∀ (c : Instr) (s : State), (∀ b, c ≠ .coldStart b) →
    ∃ t, exec c s = .next t ∧ t.cfg = s.cfg ∧ t.root = s.root ∧ t.now = s.now ∧ t.pending = s.pending) ∧
  (∀ (b : Board) (s : State), ∃ t, exec (.coldStart b) s = .next t ∧ t.now = s.now ∧ t.pending = s.pending ∧
    (s.life.coldCause = none ∨ b.testHigh = true → t = s))

/-! ## Register writes (spec/00) -/

/-- R146: before a REGISTER_WRITE to device space the core's older stores commit, and the access counts. R6: one that the
register's access line does not grant changes nothing after that but the writer's GAB_FAULT, which takes E_WINDOW and
counts, and its GAB_FAULT_ADDR, which takes the address. R4, R5, R14: one with the rights for it that carries a 1 in a
reserved bit counts once in GAB_RSVD_CNT; then one with a reserved encoding is discarded and records E_RSVD, and any other
takes effect without its reserved bits: in a register whose writes only store (Reg.plain), each RW bit takes the bit
written, a 1 clears a W1C bit (Table SCO-4, R12), every other bit stays. Named beside them are three event registers, whose
writer is G0 (SUP_EVT, CLK_EVT) or the gable itself (GAB_EVT_PEND_HI). -/
def Obligations.RegisterWritesAreCheckedAndTaken : Prop :=
  (∀ (s : State) (g : Gable) (addr v : Word) (r : Reg), s.up = true → addr.toNat % 4 = 0 → 0x40000000 ≤ addr.toNat →
    addr.toNat < 0x400C0000 → inAperture addr.toNat = false → Reg.atAddr? g addr.toNat = some r →
    s.reachable r.domain = true →
    (s.deviceAccess g).core = { s.core with sb := [] } ∧ (∀ q, Reg.isCount q = false → (s.deviceAccess g).reg q = s.reg q) ∧
    ((s.deviceAccess g).writeRefused g r v = true →
      ∃ t, exec (.registerWrite g addr v) s = .next t ∧
        s.accessedOnly g (fun q => q = .gabFault g ∨ q = .gabFaultAddr g) t ∧
        bitsOf (t.reg (.gabFault g)) 7 0 = E_WINDOW.toNat ∧
        bitsOf (t.reg (.gabFault g)) 15 8 = min (bitsOf (s.reg (.gabFault g)) 15 8 + 1) 255 ∧
        t.reg (.gabFaultAddr g) = BitVec.ofNat 32 r.addr) ∧
    ((s.deviceAccess g).writeRefused g r v = false → r.reservedEncoding v = true →
      ∃ t, exec (.registerWrite g addr v) s = .next t ∧
        s.accessedOnly g (fun q => q = .gabFault g ∨ q = .gabFaultAddr g ∨ q = .gabRsvdCnt g) t ∧
        bitsOf (t.reg (.gabFault g)) 7 0 = E_RSVD.toNat ∧
        (t.reg (.gabRsvdCnt g)).toNat = (if v &&& ~~~ (r.definedMask) = 0 then (s.reg (.gabRsvdCnt g)).toNat
          else min ((s.reg (.gabRsvdCnt g)).toNat + 1) 4294967295)) ∧
    ((s.deviceAccess g).writeRefused g r v = false → r.reservedEncoding v = false → r.plain = true →
      ∃ t, exec (.registerWrite g addr v) s = .next t ∧
        s.accessedOnly g (fun q => q = r ∨ q = .gabRsvdCnt g) t ∧
        (∀ k, k < 32 → t.bitOf r k =
          (if (Reg.rwMask r).getLsbD k then v.getLsbD k
          else (s.deviceAccess g).bitOf r k && !((Reg.w1cMask r).getLsbD k && v.getLsbD k) ||
            ((Reg.w1sMask r).getLsbD k && v.getLsbD k))) ∧
        (t.reg (.gabRsvdCnt g)).toNat = (if v &&& ~~~ (r.definedMask) = 0 then (s.reg (.gabRsvdCnt g)).toNat
          else min ((s.reg (.gabRsvdCnt g)).toNat + 1) 4294967295))) ∧
  ((∀ (s : State) (addr v : Word), addr.toNat = 0x40010004 → (s.deviceAccess 0).admits 0 .supEvt v →
    ∃ t, exec (.registerWrite 0 addr v) s = .next t ∧ s.accessedOnly 0 (fun q => q = .supEvt) t ∧
      t.reg .supEvt = s.reg .supEvt &&& ~~~ (v &&& Reg.w1cMask .supEvt)) ∧
  (∀ (s : State) (addr v : Word), addr.toNat = 0x40020004 → (s.deviceAccess 0).admits 0 .clkEvt v →
    ∃ t, exec (.registerWrite 0 addr v) s = .next t ∧ s.accessedOnly 0 (fun q => q = .clkEvt) t ∧
      t.reg .clkEvt = s.reg .clkEvt &&& ~~~ (v &&& Reg.w1cMask .clkEvt)) ∧
  (∀ (s : State) (g : Gable) (addr v : Word), addr.toNat = 0x4005082C → (s.deviceAccess g).admits g (.gabEvtPendHi g) v →
    ∃ t, exec (.registerWrite g addr v) s = .next t ∧ s.accessedOnly g (fun q => q = .gabEvtPendHi g) t ∧
      t.reg (.gabEvtPendHi g) = s.reg (.gabEvtPendHi g) &&& ~~~ v))

/-! ## The Graver instruction set (spec/08) -/

/-- R156 and Table ISA-2 for ADD, ADDC, SUB, SUBC, NEG and the immediate forms: the destination register takes the sum or
difference; C is the carry out, or 1 where no borrow occurred (that a borrow comes into SUBC where C is 0 is
notes/assumptions/27.md); V is signed overflow. Nothing else of the warden changes. -/
def Obligations.AddSubtractResultsAndFlags : Prop :=
  (∀ f, RunsTo (.add f) (AluForm.enc f encShort) fun c c' =>
    AluForm.yields f c c' (AluForm.fst f c + AluForm.snd f c)
      (decide (4294967296 ≤ (AluForm.fst f c).toNat + (AluForm.snd f c).toNat))
      (overflows ((AluForm.fst f c).toInt + (AluForm.snd f c).toInt))) ∧
  (∀ f, RunsTo (.addc f) (AluForm.enc f encShort) fun c c' =>
    AluForm.yields f c c' (AluForm.fst f c + AluForm.snd f c + BitVec.ofNat 32 (c.flags.getLsbD 0).toNat)
      (decide (4294967296 ≤ (AluForm.fst f c).toNat + (AluForm.snd f c).toNat + (c.flags.getLsbD 0).toNat))
      (overflows ((AluForm.fst f c).toInt + (AluForm.snd f c).toInt + (c.flags.getLsbD 0).toNat))) ∧
  (∀ f, RunsTo (.sub f) (AluForm.enc f encShort) fun c c' =>
    AluForm.yields f c c' (AluForm.fst f c - AluForm.snd f c)
      (decide ((AluForm.snd f c).toNat ≤ (AluForm.fst f c).toNat))
      (overflows ((AluForm.fst f c).toInt - (AluForm.snd f c).toInt))) ∧
  (∀ f, RunsTo (.subc f) (AluForm.enc f encShort) fun c c' =>
    AluForm.yields f c c' (AluForm.fst f c - AluForm.snd f c - BitVec.ofNat 32 (!c.flags.getLsbD 0).toNat)
      (decide ((AluForm.snd f c).toNat + (!c.flags.getLsbD 0).toNat ≤ (AluForm.fst f c).toNat))
      (overflows ((AluForm.fst f c).toInt - (AluForm.snd f c).toInt - (!c.flags.getLsbD 0).toNat))) ∧
  (∀ d r, RunsTo (.neg d r) encShort fun c c' =>
    c.takesD c' d (-c.d[r.val]) (decide (c.d[r.val] = 0)) (overflows (-c.d[r.val].toInt))) ∧
  (∀ f, RunsTo (.addi f) (ImmForm.enc f) fun c c' =>
    ImmForm.yields f c c' (ImmForm.fst f c + ImmForm.sext f)
      (decide (4294967296 ≤ (ImmForm.fst f c).toNat + (ImmForm.sext f).toNat))
      (overflows ((ImmForm.fst f c).toInt + (ImmForm.sext f).toInt))) ∧
  (∀ (d : Fin 8) (imm : BitVec 16), RunsTo (.subi d imm) encLong fun c c' =>
    c.takesD c' d (c.d[d.val] - imm.signExtend 32) (decide ((imm.signExtend 32).toNat ≤ c.d[d.val].toNat))
      (overflows (c.d[d.val].toInt - imm.toInt)))

/-- R156 for the compares, and R158: CMP, CMPI and CMPA change FLAGS alone, CMPA by the 16-bit difference; MFF and MTF
move FLAGS; SLT and SLTU write 1 or 0 (and leave FLAGS: notes/assumptions/28.md). Table ISA-2's second row, Table ISA-5
and Table ISA-13: logic and moves write the result with N and Z and leave C and V. LUI writes no flags
(notes/assumptions/28.md). -/
def Obligations.CompareLogicAndMoveResults : Prop :=
  ((∀ f, RunsTo (.cmp f) (CmpForm.enc f) fun c c' => c.compares c' (CmpForm.fst f c) (CmpForm.snd f c)) ∧
  (∀ f, RunsTo (.cmpi f) (CmpImmForm.enc f) fun c c' => c.compares c' (CmpImmForm.fst f c) (CmpImmForm.sext f)) ∧
  (∀ f, RunsTo (.cmpa f) encShort fun c c' =>
    let a : BitVec 16 := match f with
      | .imm x _ => c.a[x.val]
      | .reg x _ => c.a[x.val]
    let b : BitVec 16 := match f with
      | .imm _ i => i.signExtend 16
      | .reg _ y => c.a[y.val]
    ∃ fl : BitVec 6, c' = { c with flags := fl } ∧ fl.getLsbD 3 = (a - b).msb ∧ fl.getLsbD 2 = decide (a = b) ∧
      fl.getLsbD 0 = decide (b.toNat ≤ a.toNat) ∧
      fl.getLsbD 1 = (decide (a.toInt - b.toInt < -32768) || decide (32767 < a.toInt - b.toInt)) ∧
      fl.getLsbD 4 = c.flags.getLsbD 4 ∧ fl.getLsbD 5 = c.flags.getLsbD 5) ∧
  (∀ f, RunsTo (.mff f) (RegForm.enc f) fun c c' => c' = RegForm.write f c (c.flags.zeroExtend 32)) ∧
  (∀ f, RunsTo (.mtf f) (RegForm.enc f) fun c c' => c' = { c with flags := (RegForm.read f c).extractLsb' 0 6 }) ∧
  (∀ (rd ra rb : Fin 16) (sb : Bool), RunsTo (.slt rd ra rb sb) encHatch fun c c' =>
    c' = { c with g := c.g.set rd.val (if c.g[ra.val].toInt < c.g[rb.val].toInt then 1 else 0) }) ∧
  (∀ (rd ra rb : Fin 16) (sb : Bool), RunsTo (.sltu rd ra rb sb) encHatch fun c c' =>
    c' = { c with g := c.g.set rd.val (if c.g[ra.val].toNat < c.g[rb.val].toNat then 1 else 0) })) ∧
  ((∀ f, RunsTo (.and f) (AluForm.enc f encShort) fun c c' =>
    AluForm.yields f c c' (AluForm.fst f c &&& AluForm.snd f c) (c.flags.getLsbD 0) (c.flags.getLsbD 1)) ∧
  (∀ f, RunsTo (.or f) (AluForm.enc f encShort) fun c c' =>
    AluForm.yields f c c' (AluForm.fst f c ||| AluForm.snd f c) (c.flags.getLsbD 0) (c.flags.getLsbD 1)) ∧
  (∀ f, RunsTo (.xor f) (AluForm.enc f encShort) fun c c' =>
    AluForm.yields f c c' (AluForm.fst f c ^^^ AluForm.snd f c) (c.flags.getLsbD 0) (c.flags.getLsbD 1)) ∧
  (∀ d r, RunsTo (.not d r) encShort fun c c' =>
    c.takesD c' d (~~~ c.d[r.val]) (c.flags.getLsbD 0) (c.flags.getLsbD 1)) ∧
  (∀ d r, RunsTo (.mov d r) encShort fun c c' =>
    c.takesD c' d c.d[r.val] (c.flags.getLsbD 0) (c.flags.getLsbD 1)) ∧
  (∀ (d : Fin 8) (imm : BitVec 6), RunsTo (.movi d imm) encShort fun c c' =>
    c.takesD c' d (imm.signExtend 32) (c.flags.getLsbD 0) (c.flags.getLsbD 1)) ∧
  (∀ f, RunsTo (.andi f) (ImmForm.enc f) fun c c' =>
    ImmForm.yields f c c' (ImmForm.fst f c &&& ImmForm.zext f) (c.flags.getLsbD 0) (c.flags.getLsbD 1)) ∧
  (∀ f, RunsTo (.ori f) (LogicImmForm.enc f) fun c c' =>
    LogicImmForm.yields f c c' (LogicImmForm.fst f c ||| LogicImmForm.zext f) (c.flags.getLsbD 0)
      (c.flags.getLsbD 1)) ∧
  (∀ f, RunsTo (.xori f) (LogicImmForm.enc f) fun c c' =>
    LogicImmForm.yields f c c' (LogicImmForm.fst f c ^^^ LogicImmForm.zext f) (c.flags.getLsbD 0)
      (c.flags.getLsbD 1)) ∧
  (∀ (rd : Fin 16) (imm : BitVec 16), RunsTo (.lui rd imm) encHatch fun c c' =>
    c' = { c with g := c.g.set rd.val (imm ++ (0 : BitVec 16)) }) ∧
  (∀ (d : Fin 8) (imm : BitVec 16), RunsTo (.movid d imm) encLong fun c c' =>
    c.takesD c' d (imm.signExtend 32) (c.flags.getLsbD 0) (c.flags.getLsbD 1)) ∧
  (∀ (d : Fin 8) (imm : BitVec 16), RunsTo (.movhd d imm) encLong fun c c' =>
    c.takesD c' d (imm ++ c.d[d.val].extractLsb' 0 16) (c.flags.getLsbD 0) (c.flags.getLsbD 1)))

/-- R160 and Table ISA-2's third row: a register count is bits [4:0]; zeros, the sign, or the low bits come in; C is the
last bit shifted out and stays for a count of 0. -/
def Obligations.ShiftResultsAndFlags : Prop :=
  (∀ f, RunsTo (.shl f) (AluForm.enc f encShort) fun c c' =>
    let n := (AluForm.snd f c).toNat % 32
    AluForm.yields f c c' (AluForm.fst f c <<< n)
      (if n = 0 then c.flags.getLsbD 0 else (AluForm.fst f c).getLsbD (32 - n)) (c.flags.getLsbD 1)) ∧
  (∀ f, RunsTo (.shr f) (AluForm.enc f encShort) fun c c' =>
    let n := (AluForm.snd f c).toNat % 32
    AluForm.yields f c c' (AluForm.fst f c >>> n)
      (if n = 0 then c.flags.getLsbD 0 else (AluForm.fst f c).getLsbD (n - 1)) (c.flags.getLsbD 1)) ∧
  (∀ f, RunsTo (.sar f) (AluForm.enc f encShort) fun c c' =>
    let n := (AluForm.snd f c).toNat % 32
    AluForm.yields f c c' ((AluForm.fst f c).sshiftRight n)
      (if n = 0 then c.flags.getLsbD 0 else (AluForm.fst f c).getLsbD (n - 1)) (c.flags.getLsbD 1)) ∧
  (∀ f, RunsTo (.ror f) (AluForm.enc f encShort) fun c c' =>
    let n := (AluForm.snd f c).toNat % 32
    AluForm.yields f c c' ((AluForm.fst f c).rotateRight n)
      (if n = 0 then c.flags.getLsbD 0 else (AluForm.fst f c).getLsbD (n - 1)) (c.flags.getLsbD 1)) ∧
  (∀ (rd ra : Fin 16) (sb : Bool) (op : BitVec 2) (count : BitVec 5), RunsTo (.shi rd ra sb op count) encHatch
    fun c c' =>
      let a := c.g[ra.val]
      let n := count.toNat
      AluForm.yields (.hatch rd ra ra sb) c c'
        (if op = 0 then a <<< n else if op = 1 then a >>> n else if op = 2 then a.sshiftRight n else a.rotateRight n)
        (if n = 0 then c.flags.getLsbD 0 else if op = 0 then a.getLsbD (32 - n) else a.getLsbD (n - 1))
        (c.flags.getLsbD 1)) ∧
  (∀ (d : Fin 8) (imm : BitVec 6), imm.toNat < 32 → RunsTo (.shli d imm) encShort fun c c' =>
    c.takesD c' d (c.d[d.val] <<< imm.toNat)
      (if imm = 0 then c.flags.getLsbD 0 else c.d[d.val].getLsbD (32 - imm.toNat)) (c.flags.getLsbD 1)) ∧
  (∀ (d : Fin 8) (imm : BitVec 6), imm.toNat < 32 → RunsTo (.shri d imm) encShort fun c c' =>
    c.takesD c' d (c.d[d.val] >>> imm.toNat)
      (if imm = 0 then c.flags.getLsbD 0 else c.d[d.val].getLsbD (imm.toNat - 1)) (c.flags.getLsbD 1)) ∧
  (∀ (d : Fin 8) (imm : BitVec 6), imm.toNat < 32 → RunsTo (.sari d imm) encShort fun c c' =>
    c.takesD c' d (c.d[d.val].sshiftRight imm.toNat)
      (if imm = 0 then c.flags.getLsbD 0 else c.d[d.val].getLsbD (imm.toNat - 1)) (c.flags.getLsbD 1))

/-- R159 and Table ISA-2's rows for MUL, MULHU, MULHS and the divisions: division never raises an exception. -/
def Obligations.MultiplyAndDivideResults : Prop :=
  (∀ f, RunsTo (.mul f) (AluForm.enc f encShort) fun c c' =>
    AluForm.yields f c c' (BitVec.ofNat 32 ((AluForm.fst f c).toNat * (AluForm.snd f c).toNat)) (c.flags.getLsbD 0)
      (overflows ((AluForm.fst f c).toInt * (AluForm.snd f c).toInt))) ∧
  (∀ f, RunsTo (.mulhu f) (AluForm.enc f encLong) fun c c' =>
    AluForm.yields f c c' (BitVec.ofNat 32 ((AluForm.fst f c).toNat * (AluForm.snd f c).toNat / 4294967296))
      (c.flags.getLsbD 0) (c.flags.getLsbD 1)) ∧
  (∀ f, RunsTo (.mulhs f) (AluForm.enc f encLong) fun c c' =>
    AluForm.yields f c c' (BitVec.ofInt 32 ((AluForm.fst f c).toInt * (AluForm.snd f c).toInt / 4294967296))
      (c.flags.getLsbD 0) (c.flags.getLsbD 1)) ∧
  (∀ f, RunsTo (.divu f) (AluForm.enc f encLong) fun c c' =>
    AluForm.yields f c c'
      (if AluForm.snd f c = 0 then 0xFFFFFFFF
        else BitVec.ofNat 32 ((AluForm.fst f c).toNat / (AluForm.snd f c).toNat))
      (c.flags.getLsbD 0) (decide (AluForm.snd f c = 0))) ∧
  (∀ f, RunsTo (.divs f) (AluForm.enc f encLong) fun c c' =>
    AluForm.yields f c c'
      (if AluForm.snd f c = 0 then 0xFFFFFFFF
        else BitVec.ofInt 32 ((AluForm.fst f c).toInt.tdiv (AluForm.snd f c).toInt))
      (c.flags.getLsbD 0)
      (decide (AluForm.snd f c = 0) ||
        (decide (AluForm.fst f c = 0x80000000) && decide (AluForm.snd f c = 0xFFFFFFFF)))) ∧
  (∀ f, RunsTo (.remu f) (AluForm.enc f encLong) fun c c' =>
    AluForm.yields f c c'
      (if AluForm.snd f c = 0 then AluForm.fst f c
        else BitVec.ofNat 32 ((AluForm.fst f c).toNat % (AluForm.snd f c).toNat))
      (c.flags.getLsbD 0) (decide (AluForm.snd f c = 0))) ∧
  (∀ f, RunsTo (.rems f) (AluForm.enc f encLong) fun c c' =>
    AluForm.yields f c c'
      (if AluForm.snd f c = 0 then AluForm.fst f c
        else BitVec.ofInt 32 ((AluForm.fst f c).toInt.tmod (AluForm.snd f c).toInt))
      (c.flags.getLsbD 0)
      (decide (AluForm.snd f c = 0) ||
        (decide (AluForm.fst f c = 0x80000000) && decide (AluForm.snd f c = 0xFFFFFFFF))))

/-- R164 and Table ISA-11: address registers and BNK are added, subtracted and moved modulo 2^16, and set no flags. R161
and Table ISA-12: accumulator results wrap modulo 2^40 and set AOV where the true value does not fit; ASAT clamps into a
data register; AMVL and AMVG read an accumulator. -/
def Obligations.AddressRegisterAndAccumulatorResults : Prop :=
  ((∀ (a : Fin 8) (imm : BitVec 16), RunsTo (.movia a imm) encLong fun c c' => c' = { c with a := c.a.set a.val imm }) ∧
  (∀ imm : BitVec 16, RunsTo (.movib imm) encLong fun c c' => c' = { c with bnk := imm }) ∧
  (∀ f, RunsTo (.adda f) encShort fun c c' =>
    match f with
    | .imm x i => c' = { c with a := c.a.set x.val (c.a[x.val] + i.signExtend 16) }
    | .reg x y => c' = { c with a := c.a.set x.val (c.a[x.val] + c.a[y.val]) }) ∧
  (∀ x y : Fin 8, RunsTo (.suba x y) encShort fun c c' =>
    c' = { c with a := c.a.set x.val (c.a[x.val] - c.a[y.val]) }) ∧
  (∀ f, RunsTo (.mova f) encShort fun c c' =>
    match f with
    | .fromAddr x y => c' = { c with a := c.a.set x.val c.a[y.val] }
    | .fromData x y => c' = { c with a := c.a.set x.val (c.d[y.val].extractLsb' 0 16) }) ∧
  (∀ x y : Fin 8, RunsTo (.movd x y) encShort fun c c' =>
    c' = { c with d := c.d.set x.val (c.a[y.val].zeroExtend 32) }) ∧
  (∀ y : Fin 8, RunsTo (.movb y) encShort fun c c' => c' = { c with bnk := c.d[y.val].extractLsb' 0 16 }) ∧
  (∀ x : Fin 8, RunsTo (.movdb x) encShort fun c c' => c' = { c with d := c.d.set x.val (c.bnk.zeroExtend 32) })) ∧
  ((∀ m a b, RunsTo (.mac m a b) encShort fun c c' =>
    c.accTakes c' m (c.acc[m.val].toInt + lowSigned c.d[a.val] * lowSigned c.d[b.val])) ∧
  (∀ m a b, RunsTo (.msu m a b) encShort fun c c' =>
    c.accTakes c' m (c.acc[m.val].toInt - lowSigned c.d[a.val] * lowSigned c.d[b.val])) ∧
  (∀ m r, RunsTo (.aadd m r) encShort fun c c' => c.accTakes c' m (c.acc[m.val].toInt + c.d[r.val].toInt)) ∧
  (∀ m right n, RunsTo (.ash m right n) encShort fun c c' =>
    c.accTakes c' m (if right then c.acc[m.val].toInt / 2 ^ n.toNat else c.acc[m.val].toInt * 2 ^ n.toNat)) ∧
  (∀ m, RunsTo (.aclr m) encShort fun c c' => c.accTakes c' m 0) ∧
  (∀ m n, RunsTo (.ald m n) encShort fun c c' => c.accTakes c' m c.d[n.val].toInt) ∧
  (∀ m, RunsTo (.aneg m) encShort fun c c' => c.accTakes c' m (-c.acc[m.val].toInt)) ∧
  (∀ m n, RunsTo (.asat m n) encShort fun c c' =>
    let x := c.acc[m.val].toInt
    let w : Word := if x < -2147483648 then 0x80000000 else if 2147483647 < x then 0x7FFFFFFF else BitVec.ofInt 32 x
    ∃ fl : BitVec 6, c' = { c with d := c.d.set n.val w, flags := fl } ∧ fl.getLsbD 3 = w.msb ∧
      fl.getLsbD 2 = decide (w = 0) ∧ fl.getLsbD 4 = (c.flags.getLsbD 4 || overflows x) ∧
      fl.getLsbD 0 = c.flags.getLsbD 0 ∧ fl.getLsbD 1 = c.flags.getLsbD 1 ∧ fl.getLsbD 5 = c.flags.getLsbD 5) ∧
  (∀ m n, RunsTo (.amvl m n) encShort fun c c' =>
    c' = { c with d := c.d.set n.val (c.acc[m.val].extractLsb' 0 32) }) ∧
  (∀ m n, RunsTo (.amvg m n) encShort fun c c' =>
    c' = { c with d := c.d.set n.val ((c.acc[m.val].extractLsb' 32 8).signExtend 32) }))

/-! ## Loads, stores, branches, system instructions, exceptions (spec/07, spec/08) -/

/-- R162 and R164: a load whose access raises nothing writes its destination after the base write-back, extended as its
row says; MACM and AADDM add what they load to an accumulator (R161). -/
def Obligations.LoadsWriteDestinationAndBase : Prop :=
  (∀ rt rb m, LoadRuns (.ldw rt rb m) { encHatch with ok := HatchMode.wf rt rb m } 4 (fun c => HatchMode.ea m c rb 4)
    fun v c c' => c' = { HatchMode.after m c rb 4 with g := (HatchMode.after m c rb 4).g.set rt.val (loaded false 4 v) }) ∧
  (∀ rt rb m, LoadRuns (.ldh rt rb m) { encHatch with ok := HatchMode.wf rt rb m } 2 (fun c => HatchMode.ea m c rb 2)
    fun v c c' => c' = { HatchMode.after m c rb 2 with g := (HatchMode.after m c rb 2).g.set rt.val (loaded true 2 v) }) ∧
  (∀ rt rb m, LoadRuns (.ldhu rt rb m) { encHatch with ok := HatchMode.wf rt rb m } 2 (fun c => HatchMode.ea m c rb 2)
    fun v c c' => c' = { HatchMode.after m c rb 2 with g := (HatchMode.after m c rb 2).g.set rt.val (loaded false 2 v) }) ∧
  (∀ rt rb m, LoadRuns (.ldb rt rb m) { encHatch with ok := HatchMode.wf rt rb m } 1 (fun c => HatchMode.ea m c rb 1)
    fun v c c' => c' = { HatchMode.after m c rb 1 with g := (HatchMode.after m c rb 1).g.set rt.val (loaded true 1 v) }) ∧
  (∀ rt rb m, LoadRuns (.ldbu rt rb m) { encHatch with ok := HatchMode.wf rt rb m } 1 (fun c => HatchMode.ea m c rb 1)
    fun v c c' => c' = { HatchMode.after m c rb 1 with g := (HatchMode.after m c rb 1).g.set rt.val (loaded false 1 v) }) ∧
  (∀ f, LoadRuns (.ld f) (StippleMem.enc f true) (sizeBytes (StippleMem.size f)) (fun c => StippleMem.ea f c)
    fun v c c' => c' = { StippleMem.after f c with
      d := c.d.set (StippleMem.dt f).val (loaded (StippleMem.sx f) (sizeBytes (StippleMem.size f)) v) }) ∧
  (∀ m mode d ab, LoadRuns (.macm m mode d ab) encShort 2 (fun c => StippleMode.ea mode c ab 2)
    fun v c c' => (StippleMode.after mode c ab 2).accTakes c' m
      (c.acc[m.val].toInt + lowSigned c.d[d.val] * (BitVec.ofNat 16 v).toInt)) ∧
  (∀ m mode ab, LoadRuns (.aaddm m mode ab) encShort 4 (fun c => StippleMode.ea mode c ab 4)
    fun v c c' => (StippleMode.after mode c ab 4).accTakes c' m (c.acc[m.val].toInt + (BitVec.ofNat 32 v).toInt))

/-- R145, R187 and R189: a load from a bank address that no buffered store overlaps, whose line the gable's own cache
lines hold without a bad word, gives the newest bytes, changes no byte of memory and no buffered store. R145: a load takes
its data from the youngest buffered store of the same gable that covers every byte it reads; then no line and no bank is
touched, and the load ends a streaming run of the gable's stores (R194). -/
def Obligations.LoadsReadTheNewestBytes : Prop :=
  (∀ (s : State) (g : Gable) (ea : Word) (n : Nat) (i : Fin 48), (n = 1 ∨ n = 2 ∨ n = 4) → ea.toNat % n = 0 →
    ea.toNat < 0x200000 → s.cfg.may g .r ea.toNat = true → s.pathOn ea.toNat false = true →
    s.core.sb.all (fun e => !e.overlaps ea.toNat n) = true →
    s.cache.transfers.all (fun x => decide (x.line ≠ ea.toNat / 32)) = true →
    s.cache.holder (ea.toNat / 32) = some i → (s.cache.lines[i.val]).gable = g → (s.cache.lines[i.val]).bad = 0 →
    ∃ u, s.load g ea n = (.inr (s.bytesAt ea.toNat n), u) ∧ (∀ a, u.byteAt a = s.byteAt a) ∧ u.core = s.core ∧
      u.banks = s.banks) ∧
  (∀ (s : State) (g : Gable) (ea : Word) (n : Nat) (older younger : List SbEntry) (e : SbEntry),
    (n = 1 ∨ n = 2 ∨ n = 4) → ea.toNat % n = 0 → ea.toNat < 0x200000 → s.cfg.may g .r ea.toNat = true →
    s.pathOn ea.toNat false = true → s.core.sb = older ++ e :: younger →
    younger.all (fun x => !x.overlaps ea.toNat n) = true → e.gable = g → e.kind = .plain →
    e.covers ea.toNat n = true →
    s.load g ea n =
      (.inr (e.data.toNat % 256 ^ sizeBytes e.size / 256 ^ (ea.toNat - e.addr) % 256 ^ n),
        { s with cache := { s.cache with stream := vset s.cache.stream (CacheReq.data.str g) Stream.reset } }))

/-- R135, R162, R164: a store that raises nothing enters the store buffer with the low bytes of its register, and its
base is written back; no byte of memory changes before it commits. R145, R174: STORE_COMMIT takes the oldest store from
the buffer, unless its bank is under self-test, when it waits (R183). A plain store to a line that its gable's cache
lines hold changes exactly its bytes; a bit-set or bit-clear store to a word without an error that no line holds sets or
clears exactly the bits that its data bytes have. Every other byte stays. -/
def Obligations.StoresWaitAndCommitExactlyTheirBytes : Prop :=
  ((∀ rt rb m, StoreRuns (.stw rt rb m) { encHatch with ok := HatchMode.wf rt rb m } .word
    (fun c => HatchMode.ea m c rb 4) (fun c => c.g[rt.val]) (fun c => HatchMode.after m c rb 4)) ∧
  (∀ rt rb m, StoreRuns (.sth rt rb m) { encHatch with ok := HatchMode.wf rt rb m } .half
    (fun c => HatchMode.ea m c rb 2) (fun c => c.g[rt.val]) (fun c => HatchMode.after m c rb 2)) ∧
  (∀ rt rb m, StoreRuns (.stb rt rb m) { encHatch with ok := HatchMode.wf rt rb m } .byte
    (fun c => HatchMode.ea m c rb 1) (fun c => c.g[rt.val]) (fun c => HatchMode.after m c rb 1)) ∧
  (∀ f, StoreRuns (.st f) (StippleMem.enc f false) (StippleMem.size f) (fun c => StippleMem.ea f c)
    (fun c => c.d[(StippleMem.dt f).val]) (fun c => StippleMem.after f c))) ∧
  ((∀ (s : State) (e : SbEntry) (rest : List SbEntry) (i : Fin 48), s.core.sb = e :: rest → e.kind = .plain →
    e.addr % sizeBytes e.size = 0 → e.addr < 0x200000 → s.banks.bist ≠ some (bankOf e.addr) →
    s.cache.transfers.all (fun x => decide (x.line ≠ e.addr / 32)) = true →
    s.cache.holder (e.addr / 32) = some i → (s.cache.lines[i.val]).gable = e.gable →
    ∃ t, exec .storeCommit s = .next t ∧ t.core = { s.core with sb := rest } ∧ t.banks = s.banks ∧
      ∀ a, t.byteAt a =
        if e.addr ≤ a ∧ a < e.addr + sizeBytes e.size then BitVec.ofNat 8 (e.data.toNat / 256 ^ (a - e.addr))
        else s.byteAt a) ∧
  (∀ (s : State) (e : SbEntry) (rest : List SbEntry), s.core.sb = e :: rest → e.kind ≠ .plain →
    e.addr % sizeBytes e.size = 0 → s.banks.bist ≠ some (bankOf e.addr) → s.cache.holder (e.addr / 32) = none →
    s.banks.eccAt (wordOf e.addr) = none →
    ∃ t, exec .storeCommit s = .next t ∧ t.core = { s.core with sb := rest } ∧ t.cache = s.cache ∧
      ∀ a, t.banks.byte a =
        if e.addr ≤ a ∧ a < e.addr + sizeBytes e.size then
          (if e.kind = .bitSet then s.banks.byte a ||| BitVec.ofNat 8 (e.data.toNat / 256 ^ (a - e.addr))
          else s.banks.byte a &&& ~~~ (BitVec.ofNat 8 (e.data.toNat / 256 ^ (a - e.addr))))
        else s.banks.byte a) ∧
  (∀ (s : State) (e : SbEntry) (rest : List SbEntry), s.core.sb = e :: rest → s.banks.bist = some (bankOf e.addr) →
    exec .storeCommit s = .next s))

/-- R137, R157 and Tables ISA-5, ISA-8, ISA-9 and ISA-13: a displacement counts from the address of the branch, in words
(Hatch) or halfwords (Stipple); a branch goes where its condition holds; CALL and CALLR write the link register and read
their target first; JR and RET take the pc from a register. Table ISA-3, R137 and R138: each condition code reads FLAGS as
its row says, and a conditional branch counts in GAB_MISPREDICT_CNT exactly where its outcome is not the one that the sign
of its displacement predicts. -/
def Obligations.BranchesFollowTheirConditions : Prop :=
  ((∀ (cond : BitVec 4) (disp : BitVec 22), cond ≠ 0xF → RunsFrom (.bcc (.hatch cond disp)) encHatch fun pc c c' =>
    c' = { c with pc := if condHolds cond c.flags then pc + (disp ++ (0 : BitVec 2)).signExtend 32 else c.pc }) ∧
  (∀ (cond : BitVec 4) (disp : BitVec 8), cond ≠ 0xF → RunsFrom (.bcc (.short cond disp)) encShort fun pc c c' =>
    c' = { c with pc := if condHolds cond c.flags then pc + (disp ++ (0 : BitVec 1)).signExtend 32 else c.pc }) ∧
  (∀ (cond : BitVec 4) (disp : BitVec 20), cond ≠ 0xF → RunsFrom (.bcc (.long cond disp)) encLong fun pc c c' =>
    c' = { c with pc := if condHolds cond c.flags then pc + (disp ++ (0 : BitVec 1)).signExtend 32 else c.pc }) ∧
  (∀ disp : BitVec 12, RunsFrom (.bra disp) encShort fun pc c c' =>
    c' = { c with pc := pc + (disp ++ (0 : BitVec 1)).signExtend 32 }) ∧
  (∀ disp : BitVec 26, RunsFrom (.jmp disp) encHatch fun pc c c' =>
    c' = { c with pc := pc + (disp ++ (0 : BitVec 2)).signExtend 32 }) ∧
  (∀ disp : BitVec 26, RunsFrom (.call (.hatch disp)) encHatch fun pc c c' =>
    c' = { c with g := c.g.set 15 c.pc, pc := pc + (disp ++ (0 : BitVec 2)).signExtend 32 }) ∧
  (∀ disp : BitVec 12, RunsFrom (.call (.short disp)) encShort fun pc c c' =>
    c' = { c with d := c.d.set 7 c.pc, pc := pc + (disp ++ (0 : BitVec 1)).signExtend 32 }) ∧
  (∀ disp : BitVec 20, RunsFrom (.call (.long disp)) encLong fun pc c c' =>
    c' = { c with d := c.d.set 7 c.pc, pc := pc + (disp ++ (0 : BitVec 1)).signExtend 32 }) ∧
  (∀ f, RunsTo (.jr f) (RegForm.enc f) fun c c' => c' = { c with pc := RegForm.read f c }) ∧
  (∀ r : Fin 16, RunsTo (.callr (.hatch r)) encHatch fun c c' =>
    c' = { c with g := c.g.set 15 c.pc, pc := c.g[r.val] }) ∧
  (∀ d : Fin 8, RunsTo (.callr (.stipple d)) encShort fun c c' =>
    c' = { c with d := c.d.set 7 c.pc, pc := c.d[d.val] }) ∧
  (∀ (s : State) (g : Gable), s.executes g encBoth →
    ∃ t, exec .ret s = .next t ∧ (s.fetched g encBoth).onlyCtx g t ∧
      t.ctxOf g = { s.pastCtx g encBoth with
        pc := if (s.descOf g).stipple then (s.ctxOf g).d[7] else (s.ctxOf g).g[15] })) ∧
  ((∀ f : BitVec 6,
    condHolds 0x0 f = f.getLsbD 2 ∧ condHolds 0x1 f = !f.getLsbD 2 ∧ condHolds 0x2 f = f.getLsbD 0 ∧
    condHolds 0x3 f = !f.getLsbD 0 ∧ condHolds 0x4 f = f.getLsbD 3 ∧ condHolds 0x5 f = !f.getLsbD 3 ∧
    condHolds 0x6 f = f.getLsbD 1 ∧ condHolds 0x7 f = !f.getLsbD 1 ∧
    condHolds 0x8 f = (f.getLsbD 0 && !f.getLsbD 2) ∧ condHolds 0x9 f = (!f.getLsbD 0 || f.getLsbD 2) ∧
    condHolds 0xA f = (f.getLsbD 3 == f.getLsbD 1) ∧ condHolds 0xB f = (f.getLsbD 3 != f.getLsbD 1) ∧
    condHolds 0xC f = (!f.getLsbD 2 && (f.getLsbD 3 == f.getLsbD 1)) ∧
    condHolds 0xD f = (f.getLsbD 2 || (f.getLsbD 3 != f.getLsbD 1)) ∧ condHolds 0xE f = true) ∧
  (∀ (cond : BitVec 4) (disp : BitVec 22) (s : State) (g : Gable), cond ≠ 0xF → s.executes g encHatch →
    ∃ t, exec (.bcc (.hatch cond disp)) s = .next t ∧
      t.reg (.gabPerf g perfMispredict) = (s.fetched g encHatch).reg (.gabPerf g perfMispredict) +
        (if cond ≠ 0xE ∧ condHolds cond (s.ctxOf g).flags ≠ decide (disp.toInt ≤ 0) then 1 else 0)))

/-- Tables ISA-7 and ISA-9, R140, R141, R145, R149 and R151: NOP retires; FENCE and ISYNC drain the store buffer, and
ISYNC discards the ILB; WFE waits for an event and gives up the frame; RFT returns from the handler. -/
def Obligations.SystemInstructionsComplete : Prop :=
  (∀ (s : State) (g : Gable), s.executes g encBoth →
    ∃ t, exec .nop s = .next t ∧ (s.fetched g encBoth).onlyCtx g t ∧ t.ctxOf g = s.pastCtx g encBoth ∧
      t.reg (.gabPerf g perfRetired) = (s.fetched g encBoth).reg (.gabPerf g perfRetired) +
        (if (s.fetched g encBoth).bitOf (.gabPerfCtl g) 0 then 1 else 0)) ∧
  (∀ (s : State) (g : Gable), s.executes g encBoth →
    ∃ t, exec .fence s = .next t ∧ (s.fetched g encBoth).drain.onlyCtx g t ∧ t.core.sb = [] ∧
      t.ctxOf g = s.pastCtx g encBoth) ∧
  (∀ (s : State) (g : Gable), s.executes g encBoth →
    ∃ t, exec .isync s = .next t ∧ t.core.sb = [] ∧ t.core.ilb = [] ∧ t.ctxOf g = s.pastCtx g encBoth ∧
      (∀ h, h ≠ g → t.ctxOf h = s.ctxOf h) ∧ t.banks = (s.fetched g encBoth).drain.banks ∧
      t.cache = (s.fetched g encBoth).drain.cache ∧
      (∀ r, Reg.isPerf g r = false → t.reg r = (s.fetched g encBoth).drain.reg r)) ∧
  (∀ (s : State) (g : Gable), s.executes g encBoth →
    ∃ t, exec .wfe s = .next t ∧
      t.ctxOf g = { s.pastCtx g encBoth with
        wfe := decide (s.reg (.gabEvtPendLo g) &&& s.reg (.gabEvtEnLo g) = 0 ∧
          s.reg (.gabEvtPendHi g) &&& s.reg (.gabEvtEnHi g) = 0) } ∧
      (t.gab g).remain = 0 ∧ (t.gab g).released = (s.gab g).released + (s.gab g).remain ∧ t.power = s.power ∧
      t.banks = (s.fetched g encBoth).banks ∧ t.cache = (s.fetched g encBoth).cache ∧
      (∀ h, h ≠ g → t.ctxOf h = s.ctxOf h ∧ t.gab h = s.gab h) ∧
      (∀ r, Reg.isPerf g r = false → t.reg r = (s.fetched g encBoth).reg r)) ∧
  (∀ (s : State) (g : Gable), s.executes g encBoth →
    ∃ t, exec .rft s = .next t ∧ t.ctxOf g = { s.pastCtx g encBoth with pc := s.reg (.gabEpc g) } ∧
      t.bitOf (.gabTstat g) 0 = false ∧ t.bitOf (.gabTstat g) 1 = s.bitOf (.gabTstat g) 2 ∧ t.core.ilb = [] ∧
      (∀ r, Reg.isPerf g r = false → r ≠ .gabTstat g → t.reg r = (s.fetched g encBoth).reg r) ∧
      (∀ h, h ≠ g → t.ctxOf h = s.ctxOf h) ∧
      t.banks = (s.fetched g encBoth).banks ∧ t.cache = (s.fetched g encBoth).cache)

/-- R141, R153, R155 and Table GRV-2: TRAP, an undefined encoding of either length (which the halfword at the pc gives),
a misaligned access, an access outside the windows and a misaligned fetch each enter the gable's handler, after older
stores have committed, with the cause, code and address of their row; registers and memory keep what they held. -/
def Obligations.ExceptionsEnterTheHandler : Prop :=
  (∀ imm : Byte, Traps (.trap imm) encBoth 4 E_OK fun s g a => s.executes g encBoth ∧ a = 0) ∧
  (∀ long, Traps .undefinedEncoding (encUndefined long) 3 E_RSVD fun s g a =>
    s.longAtPc = long ∧ (s.fetch g (s.encLen g (encUndefined long))).1 = none ∧ a = 0) ∧
  (∀ (d : Fin 8) (imm : BitVec 6), 32 ≤ imm.toNat →
    Traps (.shli d imm) { encShort with ok := false } 3 E_RSVD fun s g a =>
      (s.fetch g (s.encLen g { encShort with ok := false })).1 = none ∧ a = 0) ∧
  (∀ rt m, m = .postInc ∨ m = .preDec → Traps (.ldw rt rt m) { encHatch with ok := false } 3 E_RSVD fun s g a =>
      (s.fetch g (s.encLen g { encHatch with ok := false })).1 = none ∧ a = 0) ∧
  (∀ rt rb m, Traps (.ldw rt rb m) { encHatch with ok := HatchMode.wf rt rb m } 5 E_ALIGN fun s g a =>
    s.executes g { encHatch with ok := HatchMode.wf rt rb m } ∧ a = HatchMode.ea m (s.ctxOf g) rb 4 ∧ a.toNat % 4 ≠ 0) ∧
  (∀ rt rb m, Traps (.sth rt rb m) { encHatch with ok := HatchMode.wf rt rb m } 5 E_ALIGN fun s g a =>
    s.executes g { encHatch with ok := HatchMode.wf rt rb m } ∧ a = HatchMode.ea m (s.ctxOf g) rb 2 ∧ a.toNat % 2 ≠ 0) ∧
  (∀ rt rb m, Traps (.stw rt rb m) { encHatch with ok := HatchMode.wf rt rb m } 6 E_WINDOW fun s g a =>
    s.executes g { encHatch with ok := HatchMode.wf rt rb m } ∧ a = HatchMode.ea m (s.ctxOf g) rb 4 ∧
      a.toNat % 4 = 0 ∧ a.toNat < 0x200000 ∧ s.cfg.may g .w a.toNat = false) ∧
  (∀ rt rb m, Traps (.ldbu rt rb m) { encHatch with ok := HatchMode.wf rt rb m } 6 E_WINDOW fun s g a =>
    s.executes g { encHatch with ok := HatchMode.wf rt rb m } ∧ a = HatchMode.ea m (s.ctxOf g) rb 1 ∧
      a.toNat < 0x200000 ∧ s.cfg.may g .r a.toNat = false) ∧
  (Traps .nop encBoth 1 E_ALIGN fun s g a =>
    (s.descOf g).stipple = false ∧ (s.ctxOf g).pc.toNat % 4 ≠ 0 ∧ a = (s.ctxOf g).pc)

/-- R149, R208: an event is taken before the next instruction of a gable with EVT_MASK 0 that the switcher runs on and
that has a line pending and enabled: the lowest-numbered such line goes to GAB_TCAUSE, and the buffered stores stay.
R143 and R217: an exception of a gable whose TRAP_ACT is 1 stops the gable: the trap registers keep the first exception,
GAB_FAULT takes the second cause's code, the gable gives up its frame and leaves the core. -/
def Obligations.EventsEnterAndDoubleFaultsStop : Prop :=
  (∀ (s : State) (g : Gable) (k : Nat), s.core.running = some g → s.coreRuns = true → s.pickGable = some g →
    s.bitOf (.gabTstat g) 1 = false → k < 64 → s.linePending g k = true → s.lineEnabled g k = true →
    (∀ j, j < k → (s.linePending g j && s.lineEnabled g j) = false) →
    ∃ t, exec .eventEntry s = .next t ∧ s.entersTrap g 0 E_OK k 0 t ∧ t.core.sb = s.core.sb) ∧
  (∀ (s : State) (g : Gable), s.reaches g → (s.fetch g (s.encLen g (encUndefined s.longAtPc))).1 = none →
    s.bitOf (.gabTstat g) 0 = true → (s.gab g).boost = none →
    ∃ t, exec .undefinedEncoding s = .next t ∧ (t.gab g).stopped = true ∧ (t.gab g).remain = 0 ∧
      t.core.running = none ∧ bitsOf (t.reg (.gabFault g)) 7 0 = E_RSVD.toNat ∧ t.reg (.gabFaultAddr g) = s.reg (.gabEpc g) ∧
      t.reg (.gabEpc g) = s.reg (.gabEpc g) ∧ t.reg (.gabTcause g) = s.reg (.gabTcause g) ∧
      t.reg (.gabTaddr g) = s.reg (.gabTaddr g) ∧ t.reg (.gabTstat g) = s.reg (.gabTstat g) ∧
      t.ctxOf g = s.ctxOf g ∧ t.core.sb = [] ∧
      ((t.gab g).restartPend = (decide ((s.descOf g).policy = 1) && decide ((s.gab g).autoCount < (s.descOf g).limit))))

/-! ## Supply path (spec/02) -/

/-- R25, R26, Table SUP-3: VIN_OK asserts and the soft start begins, DUSK rearms (R53) and SHELTER ends (R57); then the
buck is in regulation; then the VIN path carries VSYS at the buck's 3.30 V, and SRC_CHG is set if the source changed; and
the overvoltage lockout ends without VIN_OK. R24, R25, R26, R29: VIN_OK falls, by itself or by an overvoltage, while VST
stands above every threshold of darkness and no AVSBus request is outstanding: unless SHELTER is engaged VSYS goes to VST,
whose voltage less the drop of its switch it shows (the drop is free, notes/assumptions/42.md), and VCORE goes from the
external regulator to the internal converter at code min(CODE, 0x3C); DUSK rearms 100 mV above its threshold (R53). -/
def Obligations.VinReturnAndLossMoveTheSupplies : Prop :=
  ((∀ (s : State) (vin : Nat), s.vinOk = false → s.bitOf .supStat 3 = false →
    ∃ t, exec (.vinOkAssert vin) s = .next t ∧
      t = { s with
        vinMv := vin, regs := t.regs
        life := if s.life = .shelter then .waiting 3 else s.life
        supply := { s.supply with buck := .softStart, noCell := false }
        gutter := { s.gutter with duskArmed := s.gutter.duskArmed || s.boostRun } } ∧
      s.keeps [.supStat, .gutStat] t ∧ t.reg .supStat = s.reg .supStat ||| 4 ∧
      t.reg .gutStat = (if s.boostRun then s.reg .gutStat &&& ~~~ (0x20 : Word) else s.reg .gutStat)) ∧
  (∀ s : State, s.supply.buck = .softStart →
    exec .buckInRegulation s = .next { s with supply := { s.supply with buck := .regulated, handover := true } }) ∧
  (∀ s : State, s.supply.handover = true →
    ∃ t, exec .vinPathCarrying s = .next t ∧
      t = { s with vsysMv := 3300, regs := t.regs, supply := { s.supply with handover := false } } ∧
      s.keeps [.supStat, .supEvt] t ∧ t.fieldOf .supStat 1 0 = 1 ∧
      (∀ k, 2 ≤ k → t.bitOf .supStat k = s.bitOf .supStat k) ∧
      t.reg .supEvt = (if s.fieldOf .supStat 1 0 = 1 then s.reg .supEvt else s.reg .supEvt ||| 1)) ∧
  (∀ (s : State) (vin : Nat), ∃ t, exec (.vinOvClear vin) s = .next t ∧ t = { s with vinMv := vin, regs := t.regs } ∧
    s.keeps [.supStat] t ∧ t.reg .supStat = s.reg .supStat &&& ~~~ (8 : Word))) ∧
  (∀ (s : State) (vin : Nat) (c : Instr) (ov : Bool), s.vinOk = true → s.bitOf .supStat 3 = false →
    s.supply.avs = none → s.tokenUnasked → s.vstAmple →
    c = (if ov then .vinOvervoltage vin else .vinOkFall vin) →
    let moves : Bool := decide (s.life ≠ .shelter) && decide (s.fieldOf .supStat 1 0 ≠ 2)
    let rearms : Bool := s.boostRun && decide (s.tDusk + 100 ≤ s.vstMv)
    ∃ t, exec c s = .next t ∧
      t = { s with
        vinMv := vin, regs := t.regs
        freeCtr := s.freeCtr + (if moves then 1 else 0)
        vsysMv := if moves then min (s.vstMv - Config.freeDropMv s.freeCtr) 3450 else s.vsysMv
        gutter := { s.gutter with duskArmed := s.gutter.duskArmed || rearms }
        supply := { s.supply with
          buck := .off, handover := false
          vcMv := if s.bitOf .supStat 7 then 400 + 5 * min (s.fieldOf .supVcore 7 0) 0x3C else s.supply.vcMv } } ∧
      s.keeps [.supStat, .supEvt, .supVcore, .gutStat] t ∧
      t.vinOk = false ∧ t.bitOf .supStat 7 = false ∧ t.bitOf .supStat 3 = ov ∧
      t.fieldOf .supStat 1 0 = (if moves then 2 else s.fieldOf .supStat 1 0) ∧
      (∀ k, k = 4 ∨ k = 5 ∨ k = 6 ∨ 8 ≤ k → t.bitOf .supStat k = s.bitOf .supStat k) ∧
      t.reg .supEvt = s.reg .supEvt ||| 2 ||| (if ov then 4 else 0) ||| (if moves then 1 else 0) ∧
      t.reg .gutStat = (if rearms then s.reg .gutStat &&& ~~~ (0x20 : Word) else s.reg .gutStat) ∧
      (if s.bitOf .supStat 7 then
        t.fieldOf .supVcore 7 0 = min (s.fieldOf .supVcore 7 0) 0x3C ∧
          t.fieldOf .supVcore 15 8 = min (s.fieldOf .supVcore 7 0) 0x3C
       else t.reg .supVcore = s.reg .supVcore))

/-- R29, R317: a request outstanding when VIN_OK falls, or when G0 clears EN, makes no further attempt, and SUP_AVS_FAIL
stays. Between the frames of VDone's polling it ends at once: the token is freed, a Ridge word's request makes VREQ_FAIL
true from the end of its word (spec/06 R116), an AVS_SET call ends with E_DLOST. A frame that is on the bus completes
first, and the request ends so with its response, which SUP_AVS_STATUS shows, or without one. R29: VCORE is on the
internal converter then. R33: the third failed attempt takes VCORE from the internal converter at 0.70 V, raises
SUP_AVS_FAIL and line 21 at G0, and frees the token. -/
def Obligations.VoltageRequestsEndWithoutVdone : Prop :=
  ((∀ (s : State) (vin : Nat) (q : AvsReq), s.vinOk = true → s.supply.avs = some q → s.avsServed q → s.tokenUnasked →
    s.vstAmple →
    ∃ t, exec (.vinOkFall vin) s = .next t ∧ t.vinOk = false ∧ t.bitOf .supStat 7 = false ∧
      (if q.polling then
        s.avsEnded q E_DLOST t ∧ s.keeps (.supEvt :: .supVcore :: .gutStat :: q.endRegs) t
       else
        t.supply.avs = some { q with ending := true } ∧ t.bitOf .supStat 9 = s.bitOf .supStat 9 ∧ t.ridge = s.ridge ∧
          s.keeps [.supStat, .supEvt, .supVcore, .gutStat] t)) ∧
  (∀ (s : State) (u : Word),
    let r := s.deviceAccess 0
    let v : Word := u &&& ~~~ (0x10000 : Word)
    r.admits 0 .supAvsCfg v → s.bitOf .supAvsCfg 16 = true → s.tokenUnasked →
    ∃ t, exec (.avsDisable u) s = .next t ∧
      t.reg .supAvsCfg = (s.reg .supAvsCfg &&& ~~~ (Reg.rwMask .supAvsCfg)) ||| (v &&& Reg.rwMask .supAvsCfg) ∧
      t.bitOf .supStat 7 = false ∧
      (if s.bitOf .supStat 7 then
        t.fieldOf .supVcore 7 0 = min (s.fieldOf .supVcore 7 0) 0x3C ∧
          t.fieldOf .supVcore 15 8 = min (s.fieldOf .supVcore 7 0) 0x3C ∧
          t.supply.vcMv = 400 + 5 * min (s.fieldOf .supVcore 7 0) 0x3C
       else t.reg .supVcore = s.reg .supVcore ∧ t.supply.vcMv = s.supply.vcMv) ∧
      (s.supply.avs = none →
        t = { r with regs := t.regs, supply := { s.supply with vcMv := t.supply.vcMv } } ∧
          r.keeps [.supStat, .supVcore, .supAvsCfg] t) ∧
      (∀ q, s.supply.avs = some q → s.avsServed q →
        if q.polling then s.avsEnded q E_DLOST t ∧ r.keeps (.supAvsCfg :: .supVcore :: q.endRegs) t
        else
          t = { r with regs := t.regs, supply := { s.supply with vcMv := t.supply.vcMv, avs := some { q with ending := true } } } ∧
            r.keeps [.supStat, .supVcore, .supAvsCfg] t ∧ t.bitOf .supStat 9 = s.bitOf .supStat 9)) ∧
  (∀ (s : State) (q : AvsReq) (crcOk : Bool) (ack : BitVec 2) (st : BitVec 5) (d : BitVec 16), s.supply.avs = some q →
    q.ending = true → q.polling = false → s.avsServed q → s.tokenUnasked →
    (∃ t, exec (.avsResponse crcOk ack st d) s = .next t ∧ s.avsEnded q E_DLOST t ∧
      s.keeps (.supAvsStatus :: q.endRegs) t ∧
      (t.reg .supAvsStatus).toNat = d.toNat + 0x10000 * st.toNat + 0x200000 * ack.toNat) ∧
    (∃ t, exec .avsAttemptTimeout s = .next t ∧ s.avsEnded q E_DLOST t ∧ s.keeps q.endRegs t))) ∧
  (∀ (s : State) (q : AvsReq), s.supply.avs = some q → q.origin = .ridge → q.attempt = 2 → q.ending = false →
    s.tokenUnasked →
    ∃ t, exec .avsAttemptTimeout s = .next t ∧ t.supply = { s.supply with avs := none, vcMv := 700 } ∧
      t.ridge = { s.ridge with vreqPend := true } ∧
      t.bitOf .supStat 7 = false ∧ t.bitOf .supStat 9 = false ∧
      t.fieldOf .supVcore 7 0 = 0x3C ∧ t.fieldOf .supVcore 15 8 = 0x3C ∧
      t.bitOf .supAvsFail 0 = true ∧ t.fieldOf .supAvsFail 3 1 = 0 ∧
      t.fieldOf .supAvsFail 15 8 = min (s.fieldOf .supAvsFail 15 8 + 1) 255 ∧ s.told 0 21 t ∧
      s.keeps [.supStat, .supVcore, .supAvsFail, .gabEvtPendLo 0] t ∧
      t = { s with
        regs := t.regs, supply := t.supply, ridge := t.ridge
        power := { s.power with greq := t.power.greq, offAt := t.power.offAt } })

/-- R33: a good response starts the polling by Read of Status; a bad one, to the request or to a Read of Status, fails its
attempt with its cause, CRC first; VDone makes VCORE external and ends the request; a first or second attempt without VDone
is followed by another. R32, R318: a status poll ends with its response, good or bad, which SUP_AVS_STATUS shows, and frees
the token. -/
def Obligations.VoltageRequestRunsAttemptsUntilVdone : Prop :=
  (∀ (s : State) (q : AvsReq) (crcOk : Bool) (ack : BitVec 2) (st : BitVec 5) (d : BitVec 16), s.supply.avs = some q →
    q.polling = false → q.ending = false → q.origin ≠ .poll → q.attempt < 2 →
    ∃ t, exec (.avsResponse crcOk ack st d) s = .next t ∧
      t = { s with
        regs := t.regs
        supply := { s.supply with
          avs := some (if crcOk && ack = 0 then { q with cmd := .readStatus, polling := true }
            else { q with cmd := .writeCommit, attempt := q.attempt + 1 }) } } ∧
      s.keeps [.supAvsStatus, .supAvsFail] t ∧
      (t.reg .supAvsStatus).toNat = d.toNat + 0x10000 * st.toNat + 0x200000 * ack.toNat ∧
      (if crcOk && ack = 0 then t.reg .supAvsFail = s.reg .supAvsFail
       else t.fieldOf .supAvsFail 3 1 = (if crcOk then ack.toNat else 4) ∧
        ∀ k, k = 0 ∨ 4 ≤ k → t.bitOf .supAvsFail k = s.bitOf .supAvsFail k)) ∧
  (∀ (s : State) (q : AvsReq) (st : BitVec 5) (d : BitVec 16), s.supply.avs = some q → q.polling = true →
    s.avsServed q → s.tokenUnasked →
    (∃ t, exec (.avsStatusPoll ⟨true, 0, true⟩ st d) s = .next t ∧ s.avsEnded q E_OK t ∧
      t.supply = { s.supply with avs := none } ∧ t = { s with regs := t.regs, supply := t.supply, ridge := t.ridge } ∧
      s.keeps (.supAvsStatus :: .supVcore :: q.endRegs) t ∧ t.bitOf .supStat 7 = true ∧
      (t.reg .supAvsStatus).toNat = d.toNat + 0x10000 * st.toNat ∧
      t.fieldOf .supVcore 7 0 = q.code.toNat ∧ t.fieldOf .supVcore 15 8 = s.fieldOf .supVcore 15 8) ∧
    (∃ t, exec (.avsStatusPoll ⟨true, 0, false⟩ st d) s = .next t ∧ s.onlyRegs (fun r => r = .supAvsStatus) t ∧
      (t.reg .supAvsStatus).toNat = d.toNat + 0x10000 * st.toNat) ∧
    (∀ (crcOk vdone : Bool) (ack : BitVec 2), (crcOk && ack = 0) = false → q.attempt < 2 →
      ∃ t, exec (.avsStatusPoll ⟨crcOk, ack, vdone⟩ st d) s = .next t ∧
        t = { s with regs := t.regs, supply := { s.supply with
          avs := some { q with cmd := .writeCommit, attempt := q.attempt + 1, polling := false } } } ∧
        s.keeps [.supAvsStatus, .supAvsFail] t ∧ t.fieldOf .supAvsFail 3 1 = (if crcOk then ack.toNat else 4))) ∧
  (∀ (s : State) (q : AvsReq), s.supply.avs = some q → q.origin ≠ .poll → q.ending = false → q.attempt < 2 →
    ∃ t, exec .avsAttemptTimeout s = .next t ∧
      t = { s with
        regs := t.regs, supply := { s.supply with
          avs := some { q with cmd := .writeCommit, attempt := q.attempt + 1, polling := false } } } ∧
      s.keeps [.supAvsFail] t ∧ t.fieldOf .supAvsFail 3 1 = 0) ∧
  (∀ (s : State) (q : AvsReq) (crcOk : Bool) (ack : BitVec 2) (st : BitVec 5) (d : BitVec 16), s.supply.avs = some q →
    q.origin = .poll → q.polling = false → q.ending = false → s.tokenUnasked →
    ∃ t, exec (.avsResponse crcOk ack st d) s = .next t ∧ s.avsEnded q E_OK t ∧
      t = { s with regs := t.regs, supply := { s.supply with avs := none } } ∧ s.keeps [.supAvsStatus, .supStat] t ∧
      (t.reg .supAvsStatus).toNat = d.toNat + 0x10000 * st.toNat + 0x200000 * ack.toNat)

/-- R32, R34, R318: a poll period or StatusAlert that ends while the bus can run puts a Read of Status of the rail that
SUP_AVS_CFG.RAIL selects on the bus with the token, or waits for it; AVS_SET refuses a code under R31, sends one at or below
0x3C to the internal converter where the external regulator is not used, and takes the token otherwise, for the Write and
Commit of the code's millivolts, or waits for it and for the bus to be clocked (R313); and the VC_LIMIT onset is
recorded. -/
def Obligations.PollsAndVoltageCallsTakeTheToken : Prop :=
  (∀ (s : State) (c : Instr), s.busRuns = true → c = .statusAlert ∨ (c = .avsPollPeriod ∧ s.fieldOf .supAvsCfg 15 8 ≠ 0) →
    (s.bitOf .supStat 9 = false → ∃ t, exec c s = .next t ∧
      t = { s with regs := t.regs, supply := { s.supply with
        avs := some { cmd := .readStatus, rail := BitVec.ofNat 4 (s.fieldOf .supAvsCfg 3 0)
                      code := BitVec.ofNat 8 (s.fieldOf .supVcore 7 0), attempt := 0, origin := .poll
                      polling := false, ending := false } } } ∧
      s.keeps [.supStat] t ∧ t.reg .supStat = s.reg .supStat ||| 0x200) ∧
    (s.bitOf .supStat 9 = true → exec c s = .next { s with supply := { s.supply with pollWait := true } })) ∧
  (∀ (s : State) (g : Gable), s.serviceBegins g 0x06 = true →
    let code := s.fieldOf (.rdgArg0 g) 7 0
    let native : Ridge := { s.ridge with ctx := { s.ridge.ctx with phase := .native } }
    ((0x6E < code ∨ (0x3C < code ∧ (s.vinOk = false ∨ s.bitOf .supAvsCfg 16 = false))) →
      ∃ t, exec (.avsSet g) s = .next t ∧ State.answers { s with ridge := { s.ridge with vreqFail := true } } g E_RANGE t ∧
        s.keeps [.rdgResult g] t ∧ t = { s with regs := t.regs, ridge := t.ridge }) ∧
    (code ≤ 0x3C → (s.vinOk = false ∨ s.bitOf .supAvsCfg 16 = false) →
      ∃ t, exec (.avsSet g) s = .next t ∧ s.keeps [.supStat, .supVcore] t ∧ t.bitOf .supStat 7 = false ∧
        t.fieldOf .supVcore 7 0 = code ∧ t.fieldOf .supVcore 15 8 = code ∧
        t = { s with regs := t.regs, ridge := native }) ∧
    (code ≤ 0x6E → s.vinOk = true → s.bitOf .supAvsCfg 16 = true → s.domOn dOSCF = true →
      (s.bitOf .supStat 9 = false → s.bitOf .clkStat 3 = true →
        ∃ t, exec (.avsSet g) s = .next t ∧ s.keeps [.supStat] t ∧ t.reg .supStat = s.reg .supStat ||| 0x200 ∧
          t = { s with
            regs := t.regs, ridge := native
            supply := { s.supply with
              avs := some { cmd := .writeCommit, rail := BitVec.ofNat 4 (s.fieldOf .supAvsCfg 3 0)
                            code := BitVec.ofNat 8 code, attempt := 0, origin := .service g
                            polling := false, ending := false } } } ∧
          ∀ q, t.supply.avs = some q → q.mv = 400 + 5 * code) ∧
      (s.bitOf .supStat 9 = true ∨ s.bitOf .clkStat 3 = false →
        exec (.avsSet g) s = .next { s with
          ridge := native, supply := { s.supply with avsSetWait := some (g, BitVec.ofNat 8 code) } }))) ∧
  (∀ s : State, s.bitOf .supStat 7 = false →
    (s.bitOf .supStat 8 = false → ∃ t, exec (.vcLimitOnset true) s = .next t ∧
      s.onlyRegs (fun r => r = .supStat ∨ r = .supEvt) t ∧ t.reg .supStat = s.reg .supStat ||| 0x100 ∧
      t.reg .supEvt = s.reg .supEvt ||| 0x80) ∧
    (∃ t, exec (.vcLimitOnset false) s = .next t ∧ s.onlyRegs (fun r => r = .supStat) t ∧
      t.reg .supStat = s.reg .supStat &&& ~~~ (0x100 : Word)))

/-! ## Brace, unbrace, brace storms, brownout reset, cold start (spec/02, spec/15) -/

/-- R35, Table SUP-4 steps 1 to 6: VSYS falls below T_WARN from the comparator's released state. Ridge's routine is
suspended, Ridge stands at BRACE's word, and BRACED is set; every pad group is held at its present output; every Burin
engine is asked to park; the store buffer is empty; and no valid line of the cache is dirty. Table SUP-4 steps 5 to 7,
R127, R291: Brace completes. Engines that have not reached a SYNC word are parked, one record goes to the event log, and
SUP_EVT.BRACE is set. And R314: the comparator releases above T_WARN plus the hysteresis. -/
def Obligations.BraceRunsAndCompletes : Prop :=
  (∀ (s : State) (vsys : Nat), s.up = true → s.bitOf .supStat 4 = false → vsys < s.tWarn → s.storm = false →
    s.braced = false →
    ∃ t, exec (.brace vsys) s = .next t ∧
      t.reg .supStat = s.reg .supStat ||| 0x30 ∧
      t.ridge = { s.ridge with
        suspend := s.ridge.suspend.or (some s.ridge.ctx)
        ctx := { addr := 1, stack := [], origin := s.ridge.ctx.origin, routine := .trigger 1, phase := .braced } } ∧
      t.supply = { s.supply with brace := .running, braceAt := s.now, braceReal := true } ∧
      (∀ p : PadGroup, t.held p = true ∧ t.heldByBrace p = (s.heldByBrace p || !s.held p) ∧
        t.power.heldOut[p.val] = (if s.held p then s.power.heldOut[p.val] else s.groupOut p) ∧
        t.power.heldOe[p.val] = (if s.held p then s.power.heldOe[p.val] else s.groupOe p)) ∧
      (∀ n : EngineNo, t.engine n = (s.engine n).askPark) ∧ t.core = { s.core with sb := [] } ∧
      (s.domOn dCACHE = true → ∀ i : Fin 48, (t.cache.lines[i.val]).valid = true → (t.cache.lines[i.val]).dirty = false) ∧
      (∀ r, Reg.isCount r = false → r ≠ .supStat → r ≠ .pwrPadStat → t.reg r = s.reg r) ∧
      t = { s with
        vsysMv := vsys, regs := t.regs, ridge := t.ridge, supply := t.supply, core := t.core, cache := t.cache
        banks := t.banks, burin := t.burin
        power := { s.power with heldOut := t.power.heldOut, heldOe := t.power.heldOe } }) ∧
  ((∀ s : State, s.supply.brace = .running →
    ∃ t, exec .braceComplete s = .next t ∧ t.supply = { s.supply with brace := .complete } ∧
      (∀ n : EngineNo, t.engine n = (s.engine n).forcePark) ∧
      t.nv = (s.logEvent (if s.supply.braceTest.isSome then 0x11 else 0x10)
        (min (s.now - (if s.supply.braceTest.isSome then s.supply.testAt else s.supply.braceAt)) 0xFFFF) 0).nv ∧
      t.reg .supEvt = s.reg .supEvt ||| 8 ∧
      (∀ r, Reg.isCount r = false → r ≠ .supEvt → t.reg r = s.reg r) ∧
      t = { s with
        regs := t.regs, supply := t.supply, cache := t.cache, banks := t.banks, burin := t.burin, nv := t.nv }) ∧
  (∀ (s : State) (vsys : Nat), s.tWarn + 50 ≤ vsys →
    ∃ t, exec (.warnRelease vsys) s = .next t ∧ t = { s with vsysMv := vsys, regs := t.regs } ∧ s.keeps [.supStat] t ∧
      t.reg .supStat = s.reg .supStat &&& ~~~ (0x10 : Word)))

/-- R37, R112: the warden unbraces after a Brace that a fall of VSYS started, and fewer than seven unbraces lie within the
last second: only Brace's pad holds are released, the engines resume, Ridge's routine goes on where it was suspended,
SUP_BRACE_COUNT counts, SUP_BRACE_STAT takes the braced time, and G0 is told. -/
def Obligations.UnbraceUndoesWhatBraceEngaged : Prop :=
  ∀ (s : State) (c : RidgeCtx), s.up = true → s.braced = true → s.bitOf .supStat 4 = false → s.supply.brace = .complete →
    s.supply.braceReal = true → s.supply.braceTest = none → s.supply.stormPrior = none →
    (s.supply.unbraces.filter (fun u => decide (s.now < u + 1000000))).length < 7 →
    s.ridge.suspend = some c → c.phase = .boundary ∨ c.phase = .atDispatch ∨ c.phase = .vreq →
    ∃ t, exec .unbrace s = .next t ∧
      t.ridge = { s.ridge with ctx := c, suspend := none } ∧
      t.supply = { s.supply with
        brace := .released, braceReal := false
        unbraces := s.supply.unbraces.filter (fun u => decide (s.now < u + 1000000)) ++ [s.now] } ∧
      (∀ p : PadGroup, t.held p = (s.held p && !s.heldByBrace p)) ∧
      (∀ n : EngineNo, t.engine n = (s.engine n).unpark) ∧
      t.reg .supStat = s.reg .supStat &&& ~~~ (0x20 : Word) ∧ t.reg .supEvt = s.reg .supEvt ||| 0x10 ∧
      (t.reg .supBraceCount).toNat = min ((s.reg .supBraceCount).toNat + 1) 4294967295 ∧
      t.fieldOf .supBraceStat 15 0 = min (s.now - s.supply.braceAt) 0xFFFF ∧
      t.fieldOf .supBraceStat 23 16 = s.fieldOf .supBraceStat 23 16 ∧ s.told 0 21 t ∧
      s.keeps [.supStat, .supEvt, .supBraceCount, .supBraceStat, .pwrPadStat, .gabEvtPendLo 0] t ∧
      t = { s with
        regs := t.regs, ridge := t.ridge, supply := t.supply, burin := t.burin
        power := { s.power with paused := false, greq := t.power.greq, offAt := t.power.offAt } }

/-- R38, R39: the eighth unbrace within 1 s begins a brace storm: SUP_STAT.STORM and STORM_IN are set, STORMS counts, the
prior states are remembered, the suspend set stays, and Ridge goes on at its dispatch origin once no domain is left to
switch (R122). A fall of VSYS below T_WARN during the storm only holds the pads. Its end clears STORM, sets STORM_OUT, and
with no domain to return resumes the suspended routine in the prior state: at once where Ridge is between routines, else
at the next DISPATCH (Table RDG-4). R40, R42: below T_RESET Brace is abandoned, the store buffer discarded and only the
page write in progress is kept; a cold start with cause 1 is waited for. And R127: BRACE_TEST braces without counting as a
fall of VSYS, and answers E_BUSY in a storm. -/
def Obligations.StormsAndBrownoutResets : Prop :=
  ((∀ s : State, s.up = true → s.braced = true → s.storm = false → s.bitOf .supStat 4 = false →
    s.supply.brace = .complete → s.supply.braceReal = true → s.supply.braceTest = none → s.supply.stormPrior = none →
    7 ≤ (s.supply.unbraces.filter (fun u => decide (s.now < u + 1000000))).length →
    ∃ t, exec .unbrace s = .next t ∧ t.storm = true ∧ t.braced = false ∧ t.bitOf .supEvt 4 = true ∧
      t.bitOf .supEvt 5 = true ∧ t.supply.stormPrior = some (s.settled, s.power.gstate) ∧
      t.ridge = { s.ridge with
        ctx := if t.power.switching = [] then s.ridge.ctx.idle
          else { s.ridge.ctx with addr := 4, stack := [], routine := .trigger 4, phase := .native } } ∧
      t.fieldOf .supBraceStat 23 16 = min (s.fieldOf .supBraceStat 23 16 + 1) 255 ∧
      (t.reg .supBraceCount).toNat = min ((s.reg .supBraceCount).toNat + 1) 4294967295 ∧
      s.keeps [.supStat, .supEvt, .supBraceCount, .supBraceStat, .pwrPadStat, .gabEvtPendLo 0, .clkGateRefused, .clkEvt]
        t ∧
      t = { s with
        regs := t.regs, supply := t.supply, ridge := t.ridge, burin := t.burin, nv := t.nv, power := t.power }) ∧
  (∀ (s : State) (vsys : Nat), s.up = true → s.bitOf .supStat 4 = false → vsys < s.tWarn → s.storm = true →
    ∃ t, exec (.brace vsys) s = .next t ∧ (∀ p : PadGroup, t.held p = true) ∧
      t.reg .supStat = s.reg .supStat ||| 0x10 ∧ s.keeps [.supStat, .pwrPadStat] t ∧
      t = { s with
        vsysMv := vsys, regs := t.regs, ridge := { s.ridge with stormOut := false }
        power := { s.power with heldOut := t.power.heldOut, heldOe := t.power.heldOe } }) ∧
  (∀ s : State, s.up = true → s.storm = true → s.bitOf .supStat 4 = false → s.ridgeFree = false →
    exec .stormEnd s = .next { s with ridge := { s.ridge with stormOut := true } }) ∧
  (∀ (s : State) (row : Instr) (v : Vector DomState 24) (gs : GState) (c : RidgeCtx),
    (row = .stormEnd ∧ s.storm = true ∧ s.bitOf .supStat 4 = false ∧ s.ridgeFree = true) ∨
      (row = .dispatch ∧ s.ridge.stormOut = true ∧ s.ridge.ctx.phase = .atDispatch) → s.up = true →
    s.braced = false → s.supply.stormPrior = some (v, gs) → s.power.switching = [] →
    s.switchesFor (returnField v) = [] → s.ridge.suspend = some c →
    c.phase = .boundary ∨ c.phase = .atDispatch ∨ c.phase = .vreq →
    ∃ t, exec row s = .next t ∧ t.reg .supStat = s.reg .supStat &&& ~~~ (0x40 : Word) ∧
      t.reg .supEvt = s.reg .supEvt ||| 0x40 ∧ t.power.gstate = gs ∧
      t.supply = { s.supply with stormPrior := none } ∧
      t.ridge = { s.ridge with ctx := c, suspend := none, stormOut := false } ∧
      (∀ p : PadGroup, t.held p = (s.held p && !s.heldByBrace p)) ∧ s.told 0 21 t ∧
      s.keeps [.supStat, .supEvt, .pwrPadStat, .gabEvtPendLo 0] t ∧
      t = { s with
        regs := t.regs, supply := t.supply, ridge := t.ridge
        power := { s.power with
          gstate := gs, paused := false, switching := [], greq := t.power.greq, offAt := t.power.offAt } })) ∧
  ((∀ (s : State) (vsys : Nat), vsys < 2050 → s.life = .up ∨ s.life = .bare ∨ s.life = .off →
    ∃ t, exec (.brownoutReset vsys) s = .next t ∧
      t = { s with
        vsysMv := vsys, regs := t.regs, life := .waiting 1
        supply := { s.supply with
          brace := .released, braceTest := none, braceReal := false, stormPrior := none, avs := none
          pollWait := false, avsSetWait := none }
        power := { s.power with dom := Vector.replicate 24 .off, switching := [], paused := false }
        ridge := { s.ridge with suspend := none, ctx := RidgeCtx.reset }
        core := { s.core with running := none, sb := [], ilb := [] }
        nv := { s.nv with prfQ := s.nv.prfQ.take 1, cut := true } } ∧
      s.keeps [.supStat] t ∧ t.reg .supStat = (s.reg .supStat ||| 0x10) &&& ~~~ (0x260 : Word)) ∧
  (∀ (s : State) (g : Gable), s.serviceBegins g 0x09 = true →
    (s.storm = true → ∃ t, exec (.braceTest g) s = .next t ∧ s.answers g E_BUSY t ∧ s.keeps [.rdgResult g] t ∧
      t = { s with regs := t.regs, ridge := t.ridge }) ∧
    (s.storm = false → ∃ t, exec (.braceTest g) s = .next t ∧ t.braced = true ∧
      t.supply = { s.supply with brace := .running, braceAt := s.now, testAt := s.now, braceTest := some g } ∧
      t.core = { s.core with sb := [] } ∧ (∀ p : PadGroup, t.held p = true) ∧
      t.ridge = { s.ridge with
        suspend := s.ridge.suspend.or (some { s.ridge.ctx with phase := .native })
        ctx := { addr := 1, stack := [], origin := s.ridge.ctx.origin, routine := .trigger 1, phase := .braced } } ∧
      (∀ r, Reg.isCount r = false → r ≠ .supStat → r ≠ .pwrPadStat → t.reg r = s.reg r) ∧
      t = { s with
        regs := t.regs, ridge := t.ridge, supply := t.supply, core := t.core, cache := t.cache, banks := t.banks
        burin := t.burin, power := { s.power with heldOut := t.power.heldOut, heldOe := t.power.heldOe } })))

/-- R276, R284, R286, spec/08 R152, spec/16 R308: a cold start with VSYS above T_WARN and the TEST ball low boots the slot
that the ladle chose: every gable starts at its entry vector with an empty store buffer, PLT_SEQ and PWR_RESET_CAUSE tell
the slot and the cause, and a T_WARN that the new slot places at or above VSYS shows as tripped; where no slot passes the
warden is BARE, with only LINK, PRF and OSCF ON. -/
def Obligations.ColdStartBootsTheChosenSlotOrBare : Prop :=
  ∀ (s : State) (b : Board) (cause : BitVec 3), s.life = .waiting cause → s.vsysUp b.vsysMv = true →
    b.testHigh = false →
    ∃ t, exec (.coldStart b) s = .next t ∧ t.bitOf .supStat 4 = decide (b.vsysMv ≤ t.tWarn) ∧ t.fieldOf .pwrResetCause 2 0 = cause.toNat ∧ t.now = s.now ∧
      t.pending = s.pending ∧ t.core.sb = [] ∧ t.core.running = none ∧ t.supply.brace = .released ∧
      t.vinMv = s.vinMv ∧ t.vstMv = s.vstMv ∧ t.vbatMv = s.vbatMv ∧ t.vsysMv = b.vsysMv ∧
      (∀ slotB, (s.bootOf b).slot = some slotB → t.life = .up ∧
        t.cfg = { plateCfg (nvmSlot (Board.nvmOr b s.nv.nvm) slotB) slotB with vendorKeys := b.vendorKeys } ∧
        (t.reg .pltSeq).toNat = hdrSeq (nvmSlot (Board.nvmOr b s.nv.nvm) slotB) % 4294967296 ∧
        (∀ g : Gable, t.ctxOf g = { Ctx.reset with pc := (t.cfg.desc[g.val]).entry })) ∧
      ((s.bootOf b).slot = none → t.life = .bare ∧ t.cfg = { Cfg.reset with vendorKeys := b.vendorKeys } ∧ t.root = s.root ∧ t.bitOf .pltBoot 5 = true ∧
        ∀ d : Dom, t.power.dom[d.val] = (if d = dLINK ∨ d = dPRF ∨ d = dOSCF then .on else .off))

/-! ## Gutter: harvesting, permits, seeds, darkness (spec/03) -/

/-- R49, R52: a permit asserts at its threshold and deasserts below it less the hysteresis; each change shows in GUT_STAT,
sets its bit of GUT_EVT, and is told to the subscribers (lines 17, 18 and 19); a rise is also accepted as wake source 14
or 15, which is not enabled here. R53, R54: DUSK fires while it is armed, VIN_OK is 0 and VST lies below T_DUSK: it
disarms, shows in GUT_STAT and GUT_EVT, triggers Ridge, writes one record of the darkness log that holds the policy, and
is told to the subscribers; here the warden is not in SLEEP or DEEP. It rearms 100 mV above T_DUSK. -/
def Obligations.PermitsAndDuskFollowTheStore : Prop :=
  (∀ (s : State) (p : Permit) (vst : Nat), s.up = true → s.bitOf .gutStat 2 = true →
    (s.bitOf .gutStat (permitBit p) = false → s.tPermit p ≤ vst → s.sourceActs (permitSource p).val = false →
      ∃ t, exec (.permitAssert p vst) s = .next t ∧ t.bitOf .gutStat (permitBit p) = true ∧
        t.bitOf .gutEvt (2 * permitBit p) = true ∧ t.bitOf .pwrWakePend (permitSource p).val = true ∧
        s.toldAll (permitLine p) t ∧
        (∀ k, k ≠ permitBit p → t.bitOf .gutStat k = s.bitOf .gutStat k) ∧
        (∀ k, k ≠ 2 * permitBit p → t.bitOf .gutEvt k = s.bitOf .gutEvt k) ∧
        s.tells [.gutStat, .gutEvt, .pwrWakePend] t ∧
        t = { s with vstMv := vst, regs := t.regs, power := Power.requests s.power t.power }) ∧
    (s.bitOf .gutStat (permitBit p) = true → vst + 50 < s.tPermit p →
      ∃ t, exec (.permitDeassert p vst) s = .next t ∧ t.bitOf .gutStat (permitBit p) = false ∧
        t.bitOf .gutEvt (2 * permitBit p + 1) = true ∧ s.toldAll 19 t ∧
        (∀ k, k ≠ permitBit p → t.bitOf .gutStat k = s.bitOf .gutStat k) ∧
        (∀ k, k ≠ 2 * permitBit p + 1 → t.bitOf .gutEvt k = s.bitOf .gutEvt k) ∧
        s.tells [.gutStat, .gutEvt] t ∧
        t = { s with vstMv := vst, regs := t.regs, power := Power.requests s.power t.power })) ∧
  ((∀ (s : State) (vst : Nat), s.up = true → s.bitOf .gutStat 2 = true → s.gutter.duskArmed = true → s.vinOk = false →
    vst < s.tDusk → s.power.gstate ≠ .sleep → s.power.gstate ≠ .deep →
    ∃ t, exec (.dusk vst) s = .next t ∧ t.reg .gutStat = s.reg .gutStat ||| 0x20 ∧
      t.reg .gutEvt = s.reg .gutEvt ||| 0x10 ∧ t.gutter = { s.gutter with duskArmed := false } ∧
      t.ridge = { s.ridge with duskTrig := true } ∧ t.nv = (State.logDark { s with vstMv := vst } 1 0 (if s.bitOf .gutCfg 0 then 4 else 0)).nv ∧
      s.toldAll 16 t ∧ s.tells [.gutStat, .gutEvt] t ∧
      t = { s with
        vstMv := vst, regs := t.regs, gutter := t.gutter, ridge := t.ridge, nv := t.nv
        power := Power.requests s.power t.power }) ∧
  (∀ (s : State) (vst : Nat), s.bitOf .gutStat 2 = true → s.vinOk = true ∨ s.tDusk + 100 ≤ vst →
    ∃ t, exec (.duskRearm vst) s = .next t ∧
      t = { s with vstMv := vst, regs := t.regs, gutter := { s.gutter with duskArmed := true } } ∧
      s.keeps [.gutStat] t ∧ t.reg .gutStat = s.reg .gutStat &&& ~~~ (0x20 : Word)))

/-- R43, R44: Gutter starts at the boost-start threshold with the defaults of GUT_THR and of the input settings (both
inputs enabled, PV_FRAC 2), and with the seed island's policy and seed settings while the cell supplies it; it stops
below the boost-stop threshold, and charging stops at the target. R43, Table GUT-1, GUT_MPPT: an open-circuit sample
with only the TEG input enabled enters TEG_VOC, and the TEG converter runs while the sample lies within 20 mV to 1 V and
VST below the charge target. And R61: a GUT_THR write with its five thresholds in order takes effect, here crossing
nothing, and any other is discarded and records E_RANGE. -/
def Obligations.GutterStartsAndTakesItsSettings : Prop :=
  ((∀ (s : State) (vst : Nat), s.bitOf .gutStat 2 = false → 1600 ≤ vst → vst < thrMv (bitsOf (Reg.reset .gutThr) 23 18) →
    ∃ t, exec (.gutterStart vst) s = .next t ∧ t.reg .gutThr = Reg.reset .gutThr ∧ t.reg .gutMppt = 0 ∧
      t.reg .gutEvt = 0 ∧ t.fieldOf .gutStat 5 0 = 4 ∧ t.gutter = { s.gutter with duskArmed := false } ∧
      t.fieldOf .gutCfg 4 1 = bitsOf (Reg.reset .gutCfg) 4 1 ∧ t.bitOf .gutCfg 1 = true ∧ t.bitOf .gutCfg 2 = true ∧
      (if 2000 ≤ s.vbatMv then
        t.bitOf .gutCfg 0 = s.gutter.island.shelter ∧ t.bitOf .gutCfg 5 = s.gutter.island.autoSeed ∧
          t.fieldOf .gutSeed 4 0 = s.gutter.island.target.toNat ∧
          t.fieldOf .gutSeed 15 8 = s.gutter.island.period.toNat
       else t.bitOf .gutCfg 0 = false ∧ t.bitOf .gutCfg 5 = false ∧ t.fieldOf .gutSeed 4 0 = 4 ∧
          t.fieldOf .gutSeed 15 8 = 30) ∧
      s.keeps [.gutStat, .gutThr, .gutMppt, .gutEvt, .gutCfg, .gutSeed] t ∧
      t = { s with vstMv := vst, regs := t.regs, gutter := t.gutter }) ∧
  (∀ (s : State) (vst : Nat), s.bitOf .gutStat 2 = true → vst < 1500 →
    ∃ t, exec (.gutterStop vst) s = .next t ∧ t.fieldOf .gutStat 5 0 = 0 ∧
      (∀ k, 6 ≤ k → t.bitOf .gutStat k = s.bitOf .gutStat k) ∧ s.keeps [.gutStat] t ∧
      t = { s with vstMv := vst, regs := t.regs, gutter := { s.gutter with duskArmed := false } }) ∧
  (∀ s : State, ∃ t, exec .chargeTargetReached s = .next t ∧ t.fieldOf .gutStat 4 3 = 0 ∧
    (∀ k, k < 3 ∨ 4 < k → t.bitOf .gutStat k = s.bitOf .gutStat k) ∧ s.keeps [.gutStat] t ∧
    t = { s with vstMv := 4400, regs := t.regs })) ∧
  ((∀ (s : State) (teg pv : Nat), s.bitOf .gutStat 2 = true → s.bitOf .gutCfg 1 = true → s.bitOf .gutCfg 2 = false →
    teg < 1024 →
    ∃ t, exec (.openCircuitSample teg pv) s = .next t ∧ s.onlyRegs (fun r => r = .gutMppt ∨ r = .gutStat) t ∧
      t.fieldOf .gutMppt 27 18 = teg ∧ t.fieldOf .gutMppt 17 0 = s.fieldOf .gutMppt 17 0 ∧
      t.bitOf .gutStat 3 = (decide (20 ≤ teg) && decide (teg ≤ 1000) && decide (s.vstMv < 4400)) ∧
      t.bitOf .gutStat 4 = false ∧
      (∀ k, k ≠ 3 → k ≠ 4 → t.bitOf .gutStat k = s.bitOf .gutStat k)) ∧
  (∀ (s : State) (v : Word), (s.deviceAccess 0).admits 0 .gutThr v →
    (bitsOf v 5 0 < bitsOf v 11 6 → bitsOf v 11 6 < bitsOf v 17 12 → bitsOf v 17 12 < bitsOf v 23 18 →
      bitsOf v 23 18 ≤ bitsOf v 29 24 → s.bitOf .gutStat 2 = true → s.fieldOf .gutStat 1 0 = 0 →
      s.vstMv < thrMv (bitsOf v 23 18) → s.vinOk = true → s.gutter.duskArmed = true → s.bitOf .gutStat 5 = false →
      ∃ t, exec (.gutThrWrite v) s = .next t ∧ s.accessedOnly 0 (fun r => r = .gutThr) t ∧ t.reg .gutThr = v) ∧
    (bitsOf v 11 6 ≤ bitsOf v 5 0 ∨ bitsOf v 17 12 ≤ bitsOf v 11 6 ∨ bitsOf v 23 18 ≤ bitsOf v 17 12 ∨
        bitsOf v 29 24 < bitsOf v 23 18 →
      ∃ t, exec (.gutThrWrite v) s = .next t ∧
        s.accessedOnly 0 (fun r => r = .gabFault 0 ∨ r = .gabFaultAddr 0) t ∧ bitsOf (t.reg (.gabFault 0)) 7 0 = E_RANGE.toNat)))

/-- R46 to R48: an automatic seed and SEED_STORE start a seed when each check passes, and it enters the history;
SEED_STORE returns the code of the first check that fails: E_BUSY while a seed runs, E_RANGE with VST at the target,
E_EMPTY without a cell above the target by 0.1 V, E_QUOTA with three seeds in the period; a seed ends at its target with
SEED_DONE, as VBAT falls or after 60 s with SEED_FAIL, and the next automatic seed then begins where its conditions still
hold; and the oldest seed's allowance returns. R45, R315: the seed island starts with its
ROM defaults and an empty history when the cell comes, and loses both with it; a fall of VBAT does not end SHELTER. -/
def Obligations.SeedsAndTheSeedIsland : Prop :=
  ((∀ (s : State) (vst vbat : Nat), s.gutter.island.autoSeed = true → s.vinOk = false → vst < 1700 → 2000 ≤ vbat →
    1900 + 50 * s.gutter.island.target.toNat ≤ vbat → s.gutter.seedAt = none → s.gutter.seeds.length < 3 →
    ∃ t, exec (.automaticSeed vst vbat) s = .next t ∧ s.keeps [.gutStat] t ∧ t.reg .gutStat = s.reg .gutStat ||| 0x40 ∧
      t = { s with
        vstMv := vst, vbatMv := vbat, regs := t.regs
        gutter := { s.gutter with
          seedAt := some s.now, seeds := s.gutter.seeds ++ [s.now]
          darkSeeds := s.gutter.darkSeeds + (if s.supply.darkPending then 1 else 0) } }) ∧
  (∀ (s : State) (g : Gable), s.serviceBegins g 0x07 = true →
    let target := 1800 + 50 * s.fieldOf .gutSeed 4 0
    (s.gutter.seedAt.isSome = true → ∃ t, exec (.seedStore g) s = .next t ∧ s.answers g E_BUSY t ∧
      s.keeps [.rdgResult g] t ∧ t = { s with regs := t.regs, ridge := t.ridge }) ∧
    (∀ code : Byte, s.gutter.seedAt = none →
      (code = E_RANGE ∧ target ≤ s.vstMv) ∨
        (code = E_EMPTY ∧ s.vstMv < target ∧ (s.vbatMv < 2000 ∨ s.vbatMv < target + 100)) ∨
        (code = E_QUOTA ∧ s.vstMv < target ∧ 2000 ≤ s.vbatMv ∧ target + 100 ≤ s.vbatMv ∧ 3 ≤ s.gutter.seeds.length) →
      ∃ t, exec (.seedStore g) s = .next t ∧ s.answers g code t ∧ s.keeps [.rdgResult g] t ∧
        t = { s with regs := t.regs, ridge := t.ridge }) ∧
    (s.gutter.seedAt = none → s.vstMv < target → 2000 ≤ s.vbatMv → target + 100 ≤ s.vbatMv → s.gutter.seeds.length < 3 →
      ∃ t, exec (.seedStore g) s = .next t ∧ s.answers g E_OK t ∧ s.keeps [.gutStat, .rdgResult g] t ∧
        t.reg .gutStat = s.reg .gutStat ||| 0x40 ∧ t.gutter.seedAt = some s.now ∧
        t.gutter.seeds = s.gutter.seeds ++ [s.now] ∧
        t = { s with regs := t.regs, ridge := t.ridge, gutter := t.gutter })) ∧
  (∀ (s : State) (c : Instr) (vst vbat : Nat) (ok : Bool), s.gutter.seedAt.isSome = true →
    (c = .seedTimeout ∧ ok = false ∧ (∀ k, s.gutter.seedAt = some k → k + 60000000 ≤ s.now) ∧ 1700 ≤ vst ∧
        vst = s.vstMv ∧ vbat = s.vbatMv) ∨
      (c = .seedEnd vst vbat ∧ ok = true ∧ 1800 + 50 * s.fieldOf .gutSeed 4 0 ≤ vst) ∨
      (c = .seedEnd vst vbat ∧ ok = false ∧ vst < 1800 + 50 * s.fieldOf .gutSeed 4 0 ∧
        vbat < 1900 + 50 * s.fieldOf .gutSeed 4 0) →
    ∃ t, exec c s = .next t ∧ s.keeps [.gutStat, .gutEvt] t ∧ t.reg .gutStat = s.reg .gutStat &&& ~~~ (0x40 : Word) ∧
      t.reg .gutEvt = s.reg .gutEvt ||| (if ok then 0x20 else 0x40) ∧
      t = { s with vstMv := vst, vbatMv := vbat, regs := t.regs, gutter := { s.gutter with seedAt := none } }) ∧
  (∀ (s : State) (k : Nat), s.gutter.seedAt = some k → k + 60000000 ≤ s.now → s.gutter.island.autoSeed = true →
    s.vinOk = false → s.vstMv < 1700 → 2000 ≤ s.vbatMv → 1900 + 50 * s.gutter.island.target.toNat ≤ s.vbatMv →
    s.gutter.seeds.length < 3 →
    ∃ t, exec .seedTimeout s = .next t ∧ s.keeps [.gutStat, .gutEvt] t ∧ t.reg .gutStat = s.reg .gutStat ||| 0x40 ∧
      t.reg .gutEvt = s.reg .gutEvt ||| 0x40 ∧
      t = { s with
        regs := t.regs
        gutter := { s.gutter with
          seedAt := some s.now, seeds := s.gutter.seeds ++ [s.now]
          darkSeeds := s.gutter.darkSeeds + (if s.supply.darkPending then 1 else 0) } }) ∧
  (∀ s : State, s.vinOk = true ∨ 1700 ≤ s.vstMv ∨ s.gutter.island.autoSeed = false →
    exec .seedAllowanceReturn s = .next { s with gutter := { s.gutter with seeds := s.gutter.seeds.drop 1 } })) ∧
  ((∀ (s : State) (vbat : Nat), s.bitOf .gutStat 9 = false → 2000 ≤ vbat →
    ∃ t, exec (.vbatOkRise vbat) s = .next t ∧ s.keeps [.gutStat] t ∧ t.reg .gutStat = s.reg .gutStat ||| 0x200 ∧
      t = { s with
        vbatMv := vbat, regs := t.regs
        gutter := { s.gutter with
          seeds := [], island := { autoSeed := false, shelter := false, target := 4, period := 30 } } }) ∧
  (∀ (s : State) (vbat : Nat), s.bitOf .gutStat 9 = true → vbat < 2000 →
    ∃ t, exec (.vbatOkFall vbat) s = .next t ∧ s.keeps [.gutStat, .gutEvt] t ∧ t.bitOf .gutStat 9 = false ∧
      (s.gutter.seedAt = none → t.reg .gutEvt = s.reg .gutEvt) ∧
      t = { s with
        vbatMv := vbat, regs := t.regs
        gutter := { s.gutter with
          seedAt := none, seeds := [], darkSeeds := 0
          island := { autoSeed := false, shelter := false, target := 4, period := 30 } } }))

/-- R56 to R59, R62, R319: SHELTER engages from the cell, or without one the darkness is handled as DORMANT; SHELTER ends
at T_MEAS, where VSYS goes back to VST, or with VIN_OK, until whose path carries it VSYS stays at the cell; the DORMANT
lockout stops everything on VSYS, and ends at T_MEAS, where the RTC island powers up; and the loss of the cell makes
SHELTER a lockout. R18, Table SUP-1: VSYS is the source's voltage less a drop that the model leaves free (log 42), limited
to 3.45 V. -/
def Obligations.DarknessFollowsItsPolicy : Prop :=
  (∀ (s : State) (vst vbat : Nat), s.life = .up → s.bitOf .gutCfg 0 = true → s.vinOk = false → vst < s.tShelter →
    (2000 ≤ vbat → ∃ t, exec (.shelterIn vst vbat) s = .next t ∧ t.life = .shelter ∧ t.fieldOf .supStat 1 0 = 3 ∧
      t.braced = false ∧ t.storm = false ∧ t.core.sb = [] ∧ t.core.running = none ∧
      t.supply.darkPending = true ∧ t.supply.darkShelter = true ∧ t.supply.darkRtcLost = false ∧
      t.nv = (State.logDark { s with vstMv := vst, vbatMv := vbat } 2 0 0).nv ∧ s.keeps [.supStat, .supEvt] t ∧
      (if s.fieldOf .supStat 1 0 = 3 then t.vsysMv = s.vsysMv ∧ t.freeCtr = s.freeCtr
       else t.vsysMv = min (vbat - Config.freeDropMv s.freeCtr) 3450 ∧ t.freeCtr = s.freeCtr + 1 ∧
        t.bitOf .supEvt 0 = true) ∧
      t = { s with
        vstMv := vst, vbatMv := vbat, vsysMv := t.vsysMv, freeCtr := t.freeCtr, regs := t.regs, life := .shelter
        supply := t.supply, nv := t.nv
        ridge := { s.ridge with
          suspend := none, ctx := { RidgeCtx.reset with addr := 2, routine := .trigger 2, phase := .braced } }
        core := { s.core with running := none, sb := [], ilb := [] }
        power := { s.power with dom := Vector.replicate 24 .off, switching := [], paused := false } }) ∧
    (vbat < 2000 → ∃ t, exec (.shelterIn vst vbat) s = .next t ∧
      t.nv = (State.logDark { s with vstMv := vst, vbatMv := vbat } 3 0 0).nv ∧
      t = { s with vstMv := vst, vbatMv := vbat, supply := { s.supply with noCell := true }, nv := t.nv })) ∧
  (∀ (s : State) (vst : Nat), s.life = .shelter →
    (s.vinOk = true → exec (.shelterEnd vst) s = .next { s with vstMv := vst, life := .waiting 3 }) ∧
    (s.vinOk = false → s.tPermit .meas ≤ vst → s.fieldOf .supStat 1 0 ≠ 2 →
      ∃ t, exec (.shelterEnd vst) s = .next t ∧ s.keeps [.supStat, .supEvt] t ∧ t.fieldOf .supStat 1 0 = 2 ∧
        (∀ k, 2 ≤ k → t.bitOf .supStat k = s.bitOf .supStat k) ∧ t.reg .supEvt = s.reg .supEvt ||| 1 ∧
        t = { s with
          vstMv := vst, vsysMv := min (vst - Config.freeDropMv s.freeCtr) 3450, freeCtr := s.freeCtr + 1
          regs := t.regs, life := .waiting 3 })) ∧
  (∀ (s : State) (vst : Nat), s.life = .up → s.bitOf .gutCfg 0 = false → s.vinOk = false → vst < s.tDie →
    ∃ t, exec (.dormantLockout vst) s = .next t ∧ t.life = .lockout ∧ t.bitOf .tmrRtcCtl 1 = false ∧
      t.power.tampLatch = false ∧ t.core.sb = [] ∧ t.core.running = none ∧ t.supply.darkPending = true ∧
      t.supply.darkShelter = false ∧ t.supply.darkRtcLost = true ∧ s.keeps [.supStat, .tmrRtcCtl] t ∧
      t = { s with
        vstMv := vst, regs := t.regs, life := .lockout, supply := t.supply
        ridge := { s.ridge with suspend := none, ctx := RidgeCtx.reset }
        core := { s.core with running := none, sb := [], ilb := [] }
        power := { s.power with
          dom := Vector.replicate 24 .off, switching := [], paused := false
          tampLatch := false, tampHigh := false, tampOpen := false } }) ∧
  (∀ (s : State) (vst : Nat), s.life = .lockout → s.tPermit .meas ≤ vst →
    ∃ t, exec (.dormantRelease vst) s = .next t ∧ s.keeps (.clkStat :: rtcIslandRegs) t ∧
      (∀ r, r ∈ rtcIslandRegs → t.reg r = Reg.reset r) ∧ t.reg .clkStat = s.reg .clkStat &&& ~~~ (0x40 : Word) ∧
      t = { s with
        vstMv := vst, life := .waiting 4, regs := t.regs
        clk := { s.clk with rtcFrac := 0, rtcPhase := 0, rtcAcc := 0, rtcSetPend := none, rtcEdge := true } }) ∧
  (∀ s : State, s.life = .shelter → s.vinOk = true ∨ s.fieldOf .supStat 1 0 ≠ 2 →
    ∃ t, exec .shelterCellLoss s = .next t ∧ t.life = .lockout ∧ t.vbatMv = 0 ∧ t.bitOf .tmrRtcCtl 1 = false ∧
      t.power.tampLatch = false ∧ t.supply.darkShelter = false ∧ t.supply.darkRtcLost = true ∧
      t.gutter = { Gutter.reset with duskArmed := s.gutter.duskArmed } ∧
      (if s.vinOk then s.keeps [.tmrRtcCtl, .gutStat, .gutEvt] t ∧ t.vsysMv = s.vsysMv ∧ t.freeCtr = s.freeCtr
       else s.keeps [.tmrRtcCtl, .gutStat, .gutEvt, .supStat, .supEvt] t ∧ t.fieldOf .supStat 1 0 = 2 ∧
        t.vsysMv = min (s.vstMv - Config.freeDropMv s.freeCtr) 3450 ∧ t.freeCtr = s.freeCtr + 1) ∧
      t = { s with
        vbatMv := 0, vsysMv := t.vsysMv, freeCtr := t.freeCtr, regs := t.regs, life := .lockout, supply := t.supply, gutter := t.gutter
        power := { s.power with tampLatch := false, tampHigh := false, tampOpen := false } })

/-! ## Clocks, timers, sensing (spec/04) -/

/-- R66 to R68: a window of an oscillator under qualification whose count lies within the tolerance qualifies it, sets its
CLK_EVT bit and tells G0; one outside leaves XT32 trying until its timeout and fails EXTREF at the third attempt; the
timeout stops XT32; a failed FRC tries again; and a qualified XT32 or EXTREF outside twice the tolerance is lost. R67,
R69, R71, R63: an enable written from 0 to 1 starts a qualification; a trim window within 0.025 % changes nothing, one
within 2 % moves the code by one step against its error, and one further off freezes the trim and tells G0; a CLK_FRC_TRIM
write ends the freeze; CLK_SSC comes into force at an apex; and MOSC's trim moves by one step. spec/02 R313: the first
qualification of FRC after a cold start with VCORE_DEF requests CODE from the external regulator. -/
def Obligations.OscillatorsQualifyStartAndTrim : Prop :=
  ((∀ (s : State) (o : Osc) (n count : Nat), s.qualRuns o = true → s.qualPhase o = .attempt n →
    (o = .frc → s.supply.vcoreDef = false ∧ s.tokenUnasked) →
    ((((count : Int) * (s.qualWindow o).fRef - ((s.qualWindow o).n : Int) * (s.qualWindow o).fTgt).natAbs * 400 ≤
        s.qualTol o * ((s.qualWindow o).n * (s.qualWindow o).fTgt)) →
      ∃ t, exec (.qualificationWindow o count) s = .next t ∧ t.bitOf .clkStat (qualBit o) = true ∧
        t.bitOf .clkEvt (qualEvt o) = true ∧ t.qualPhase o = .qualified ∧ s.told 0 30 t ∧
        s.tells [.clkStat, .clkEvt] t ∧
        (∀ k, k ≠ qualBit o → t.bitOf .clkStat k = s.bitOf .clkStat k) ∧
        t = { s with regs := t.regs, clk := t.clk, power := Power.requests s.power t.power }) ∧
    (s.qualTol o * ((s.qualWindow o).n * (s.qualWindow o).fTgt) <
        ((count : Int) * (s.qualWindow o).fRef - ((s.qualWindow o).n : Int) * (s.qualWindow o).fTgt).natAbs * 400 →
      (o = .xt32 → exec (.qualificationWindow o count) s = .next s) ∧
      (o = .extref → n < 2 → exec (.qualificationWindow o count) s =
        .next { s with clk := { s.clk with ext := .attempt (n + 1) } }) ∧
      (o = .extref → 2 ≤ n → ∃ t, exec (.qualificationWindow o count) s = .next t ∧
        t.reg .clkEvt = s.reg .clkEvt ||| 0x40 ∧ s.told 0 30 t ∧ s.tells [.clkEvt] t ∧
        t = { s with
          regs := t.regs, clk := { s.clk with ext := .idle }, power := Power.requests s.power t.power }))) ∧
  (∀ (s : State) (n count : Nat), s.domOn dOSCF = true → s.clk.frc = .attempt n → s.supply.vcoreDef = true →
    s.tokenUnasked → s.bitOf .supCfg 7 = true → s.vinOk = true → s.bitOf .supAvsCfg 16 = true →
    s.bitOf .supStat 9 = false →
    ((count : Int) * (s.qualWindow .frc).fRef - ((s.qualWindow .frc).n : Int) * (s.qualWindow .frc).fTgt).natAbs * 400 ≤
      s.qualTol .frc * ((s.qualWindow .frc).n * (s.qualWindow .frc).fTgt) →
    ∃ t, exec (.qualificationWindow .frc count) s = .next t ∧ t.bitOf .clkStat 3 = true ∧ t.bitOf .supStat 9 = true ∧
      t.supply = { s.supply with
        vcoreDef := false
        avs := some { cmd := .writeCommit, rail := BitVec.ofNat 4 (s.fieldOf .supAvsCfg 3 0)
                      code := BitVec.ofNat 8 (s.fieldOf .supVcore 7 0), attempt := 0, origin := .coldStart
                      polling := false, ending := false } } ∧
      s.tells [.clkStat, .clkEvt, .supStat] t) ∧
  (∀ (s : State) (n : Nat), s.clk.xt = .attempt n →
    ∃ t, exec .xt32QualTimeout s = .next t ∧ t.reg .clkEvt = s.reg .clkEvt ||| 2 ∧ s.told 0 30 t ∧
      s.tells [.clkEvt] t ∧
      t = { s with regs := t.regs, clk := { s.clk with xt := .idle }, power := Power.requests s.power t.power }) ∧
  (∀ s : State, s.domOn dOSCF = true → s.clk.frc = .retryWait →
    ∃ t, exec .frcQualRetry s = .next t ∧ t.bitOf .clkStat 7 = (s.bitOf .clkStat 0 && !s.bitOf .clkCfg 2) ∧
      (∀ k, k ≠ 7 → t.bitOf .clkStat k = s.bitOf .clkStat k) ∧ s.keeps [.clkStat] t ∧
      t = { s with regs := t.regs, clk := { s.clk with frc := .attempt 0 } }) ∧
  (∀ (s : State) (o : Osc) (count : Nat), o ≠ .frc → s.qualRuns o = true → s.qualPhase o = .qualified →
    2 * s.qualTol o * ((s.qualWindow o).n * (s.qualWindow o).fTgt) <
      ((count : Int) * (s.qualWindow o).fRef - ((s.qualWindow o).n : Int) * (s.qualWindow o).fTgt).natAbs * 400 →
    ∃ t, exec (.oscMonitorWindow o count) s = .next t ∧ t.bitOf .clkStat (qualBit o) = false ∧
      t.bitOf .clkEvt (lostEvt o) = true ∧ t.qualPhase o = .idle ∧ s.told 0 30 t ∧ s.tells [.clkStat, .clkEvt] t ∧
      t = { s with regs := t.regs, clk := t.clk, power := Power.requests s.power t.power })) ∧
  ((∀ (s : State) (v : Word) (ext : Bool),
    let c : Instr := if ext then .extrefEnable v else .xt32Enable v
    let w : Word := v ||| (if ext then 2 else 1)
    let other : Bool := s.bitOf .clkCfg (if ext then 0 else 1)
    let u : State := s.deviceAccess 0
    u.admits 0 .clkCfg w → s.bitOf .clkCfg (if ext then 1 else 0) = false → w.getLsbD (if ext then 0 else 1) = other →
    ∃ t, exec c s = .next t ∧ t.reg .clkCfg = w ∧ u.keeps [.clkCfg, .clkStat] t ∧
      t.clk.xt = (if ext then (if other then s.clk.xt else .idle) else .attempt 0) ∧
      t.clk.ext = (if ext then .attempt 0 else (if other then s.clk.ext else .idle)) ∧
      (∀ k, t.bitOf .clkStat k = (s.bitOf .clkStat k && (other || decide (k ≠ (if ext then 0 else 4))))) ∧
      t = { u with regs := t.regs, clk := { s.clk with xt := t.clk.xt, ext := t.clk.ext } }) ∧
  (∀ (s : State) (count : Nat), s.trimAct ≠ 0 → 0 < s.fieldOf .clkFrcTrim 12 4 → s.fieldOf .clkFrcTrim 12 4 < 511 →
    let err : Int := (count : Int) - 98304
    (err.natAbs * 4000 ≤ 98304 → exec (.trimWindow count) s = .next s) ∧
    (98304 < err.natAbs * 4000 → err.natAbs * 100 ≤ 2 * 98304 → ∃ t, exec (.trimWindow count) s = .next t ∧
      s.onlyRegs (fun r => r = .clkFrcTrim) t ∧ t.fieldOf .clkFrcTrim 3 0 = s.fieldOf .clkFrcTrim 3 0 ∧
      (t.fieldOf .clkFrcTrim 12 4 : Int) = (s.fieldOf .clkFrcTrim 12 4 : Int) - err.sign) ∧
    (2 * 98304 < err.natAbs * 100 → ∃ t, exec (.trimWindow count) s = .next t ∧
      t.reg .clkEvt = s.reg .clkEvt ||| 0x100 ∧ s.told 0 30 t ∧ s.tells [.clkEvt] t ∧
      t = { s with
        regs := t.regs, clk := { s.clk with trimFrozen := true }, power := Power.requests s.power t.power })) ∧
  (∀ (s : State) (v : Word), (s.deviceAccess 0).admits 0 .clkFrcTrim v →
    ∃ t, exec (.trimSourceWrite v) s = .next t ∧ (s.deviceAccess 0).keeps [.clkFrcTrim] t ∧
      t.reg .clkFrcTrim = (s.reg .clkFrcTrim &&& ~~~ (0xF : Word)) ||| (v &&& 0xF) ∧
      t = { s.deviceAccess 0 with regs := t.regs, clk := { s.clk with trimFrozen := false } }) ∧
  (∀ s : State, exec .sscUpdate s = .next { s with clk := { s.clk with sscInForce := s.reg .clkSsc } }) ∧
  (∀ (s : State) (faster : Bool), 0 < s.fieldOf .clkTrims 15 8 → s.fieldOf .clkTrims 15 8 < 255 →
    ∃ t, exec (.moscTrimCorrection faster) s = .next t ∧ s.onlyRegs (fun r => r = .clkTrims) t ∧
      (t.fieldOf .clkTrims 15 8 : Int) = (s.fieldOf .clkTrims 15 8 : Int) + (if faster then 1 else -1) ∧
      t.fieldOf .clkTrims 7 0 = s.fieldOf .clkTrims 7 0))

/-- R72: a gate change is refused exactly where it would disable an enabled gate with a busy enabled gate below it in the
tree of Table CLK-3, every gate between the two enabled; the refusal names the lowest such gate and its lowest busy child.
The gates that CLK_GATE switches, 3 to 6, 11 and 13 to 15, have no gate below them in that table, so a write that passes
the register checks takes effect in them and leaves the others alone (R310). -/
def Obligations.GateWritesAreTakenWholeOrRefused : Prop :=
  (∀ (s : State) (off : List Nat),
    (s.gateRefusal off = none ↔ ∀ p c, ¬ s.blocks off p c) ∧
      ∀ p c, s.gateRefusal off = some (p, c) ↔ s.blocksFirst off p c) ∧
  (∀ (s : State) (g : Gable) (v : Word), (s.deviceAccess g).admits g .clkGate v →
    ∃ t, exec (.clkGateWrite g v) s = .next t ∧ s.accessedOnly g (fun r => r = .clkGate) t ∧
      ∀ k, t.bitOf .clkGate k = (if k ∈ [3, 4, 5, 6, 11, 13, 14, 15] then v.getLsbD k else s.bitOf .clkGate k))

/-- R64, R79, R80: at a second boundary the RTC's source changes as CLK_STAT.XT32_Q and CLK_CFG.RTC_LRC say, and at no
other count; a set waits for the next count and
then gives the seconds, a fraction of 0 and VALID; an armed alarm whose value is reached fires once, and in SHELTER does
nothing else. R81, R82: a START takes the count from LOAD and runs, and with LOAD = 0 is discarded with E_RANGE; a STOP
keeps the count; and a timer that passes from 1 to 0 reloads in periodic mode, stops at 0 otherwise, and tells its gable:
a MOSC timer as wake source 10 + n, a PCLK timer on line 29. -/
def Obligations.RtcAndTimersCountAndFire : Prop :=
  ((∀ s : State, s.clk.rtcEdge = false → exec .rtcSourceChange s = .next s) ∧
  (∀ s : State, s.clk.rtcEdge = true → ∃ t, exec .rtcSourceChange s = .next t ∧
    t.bitOf .clkStat 6 = (s.bitOf .clkStat 0 && !s.bitOf .clkCfg 3) ∧
    t.bitOf .tmrRtcCtl 3 = (s.bitOf .clkStat 0 && !s.bitOf .clkCfg 3) ∧
    (∀ k, k ≠ 6 → t.bitOf .clkStat k = s.bitOf .clkStat k) ∧
    (∀ k, k ≠ 3 → t.bitOf .tmrRtcCtl k = s.bitOf .tmrRtcCtl k) ∧
    s.onlyRegs (fun r => r = .clkStat ∨ r = .tmrRtcCtl) t) ∧
  (∀ (s : State) (v : Word), (s.deviceAccess 0).admits 0 .tmrRtcCtl (v ||| 1) →
    exec (.rtcSet v) s = .next { s.deviceAccess 0 with clk := { s.clk with rtcSetPend := some (s.reg .tmrRtcSet) } }) ∧
  (∀ (s : State) (v : Word), s.clk.rtcSetPend = some v →
    ∃ t, exec .rtcSetApply s = .next t ∧ t.reg .tmrRtcSec = v ∧ t.bitOf .tmrRtcCtl 1 = true ∧
      t.bitOf .tmrRtcCtl 2 = false ∧ s.keeps [.tmrRtcSec, .tmrRtcCtl] t ∧
      (∀ k, k ≠ 1 → k ≠ 2 → t.bitOf .tmrRtcCtl k = s.bitOf .tmrRtcCtl k) ∧
      t = { s with regs := t.regs, clk := { s.clk with rtcFrac := 0, rtcAcc := 0, rtcSetPend := none, rtcEdge := true } }) ∧
  (∀ s : State, s.bitOf .tmrRtcAlmCtl 0 = true →
    (s.reg .tmrRtcAlmSec).toNat * 65536 + s.fieldOf .tmrRtcAlmFrac 15 0 ≤
      (s.reg .tmrRtcSec).toNat * 65536 + s.clk.rtcFrac.toNat →
    ∃ t, exec .rtcAlarm s = .next t ∧ t.bitOf .tmrRtcAlmCtl 0 = false ∧ t.bitOf .tmrRtcAlmCtl 1 = true ∧
      (s.life = .shelter → s.onlyRegs (fun r => r = .tmrRtcAlmCtl) t) ∧
      (s.life = .up → s.sourceActs 9 = false →
        s.onlyRegs (fun r => r = .tmrRtcAlmCtl ∨ r = .pwrWakePend) t ∧ t.bitOf .pwrWakePend 9 = true) ∧
      (s.life = .off → s.sourceActs 9 = true → t.life = .waiting 2))) ∧
  ((∀ (s : State) (g : Gable) (n : Fin 4) (v : Word) (pclk : Bool),
    let c : Instr := if pclk then .pclkTimerStart g v else .moscTimerStart g n v
    let r : TimerRegs := if pclk then pclkTimer g else moscTimer n
    let w : Word := v ||| 1
    (s.deviceAccess g).admits g r.ctl w → v.getLsbD 1 = false →
    (s.reg r.load ≠ 0 → ∃ t, exec c s = .next t ∧ s.accessedOnly g (fun q => q = r.ctl ∨ q = r.count) t ∧
      t.reg r.count = s.reg r.load ∧ t.bitOf r.ctl 3 = true ∧ t.bitOf r.ctl 2 = v.getLsbD 2) ∧
    (s.reg r.load = 0 → ∃ t, exec c s = .next t ∧
      s.accessedOnly g (fun q => q = .gabFault g ∨ q = .gabFaultAddr g) t ∧
      bitsOf (t.reg (.gabFault g)) 7 0 = E_RANGE.toNat)) ∧
  (∀ (s : State) (g : Gable) (n : Fin 4) (v : Word) (pclk : Bool),
    let c : Instr := if pclk then .pclkTimerStop g v else .moscTimerStop g n v
    let r : TimerRegs := if pclk then pclkTimer g else moscTimer n
    (s.deviceAccess g).admits g r.ctl (v ||| 2) → v.getLsbD 0 = false →
    ∃ t, exec c s = .next t ∧ s.accessedOnly g (fun q => q = r.ctl) t ∧ t.bitOf r.ctl 3 = false ∧
      t.bitOf r.ctl 2 = v.getLsbD 2) ∧
  (∀ (s : State) (n : Fin 4), s.up = true → s.bitOf (.tmrSCtl n) 3 = true → s.reg (.tmrSCount n) = 1 →
    s.sourceActs (10 + n.val) = false →
    ∃ t, exec (.moscTimerExpiry n) s = .next t ∧
      s.onlyRegs (fun r => r = .tmrSCtl n ∨ r = .tmrSCount n ∨ r = .pwrWakePend) t ∧
      t.reg (.tmrSCount n) = (if s.bitOf (.tmrSCtl n) 2 then s.reg (.tmrSLoad n) else 0) ∧
      t.bitOf (.tmrSCtl n) 3 = s.bitOf (.tmrSCtl n) 2 ∧ t.bitOf .pwrWakePend (10 + n.val) = true) ∧
  (∀ (s : State) (g : Gable), s.bitOf (.tmrFCtl g) 3 = true → s.gateRuns 11 = true →
    s.reg (.tmrFCount g) = 1 →
    ∃ t, exec (.pclkTimerExpiry g) s = .next t ∧ s.told g 29 t ∧
      t.reg (.tmrFCount g) = (if s.bitOf (.tmrFCtl g) 2 then s.reg (.tmrFLoad g) else 0) ∧
      t.bitOf (.tmrFCtl g) 3 = s.bitOf (.tmrFCtl g) 2 ∧
      s.keeps [.tmrFCtl g, .tmrFCount g, .gabEvtPendLo g] t ∧
      t = { s with regs := t.regs, power := Power.requests s.power t.power }))

/-- R83, R84: a conversion request that passes its checks pends, and converts at once when none does; a second one of the
same gable records E_BUSY; and the request in progress ends with the mean of its conversions (here a whole number) and hands
the converter to the next gable that waits. spec/16 R302, Table CLK-5: a conversion without error of the supplies gives
their voltages by the full scales of 76.8 V and 9.6 V. -/
def Obligations.AdcServesRequestsInTurn : Prop :=
  (∀ (s : State) (g : Gable) (v : Word),
    let w : Word := v ||| 0x10
    let u : State := s.deviceAccess g
    u.admits g (.snsConv g) w →
    (bitsOf w 3 0 < 8 → bitsOf (s.reg .snsAinOwn) (4 * bitsOf w 3 0 + 3) (4 * bitsOf w 3 0) = g.val) →
    bitsOf w 3 0 < 13 → bitsOf w 7 5 < 5 →
    (s.clk.adc[g.val] = none → ∃ t, exec (.adcConversionRequest g v) s = .next t ∧
      t.fieldOf (.snsResult g) 17 16 = 1 ∧ t.fieldOf (.snsResult g) 15 0 = s.fieldOf (.snsResult g) 15 0 ∧
      t.clk.adc = s.clk.adc.set g.val (some { ch := BitVec.ofNat 4 (bitsOf w 3 0), avg := BitVec.ofNat 3 (bitsOf w 7 5) }) ∧
      t.clk.adcNow = s.clk.adcNow.or (some g) ∧ u.keeps [.snsResult g] t ∧
      t = { u with regs := t.regs, clk := { s.clk with adc := t.clk.adc, adcNow := t.clk.adcNow } }) ∧
    ((s.clk.adc[g.val]).isSome = true → ∃ t, exec (.adcConversionRequest g v) s = .next t ∧
      u.onlyRegs (fun r => r = .gabFault g ∨ r = .gabFaultAddr g) t ∧
      bitsOf (t.reg (.gabFault g)) 7 0 = E_BUSY.toNat)) ∧
  (∀ (s : State) (g : Gable) (q : AdcReq) (samples : List AdcSample), s.clk.adcNow = some g →
    s.clk.adc[g.val] = some q → s.domOn dSENS = true → s.gateRuns 7 = true → samples.length = 2 ^ q.avg.toNat →
    (∀ x ∈ samples, x.err.natAbs ≤ adcErrMax q.ch.toNat (s.adcIdeal q.ch.toNat x.input)) →
    let codes : List Nat := samples.map (fun x => s.adcCode q.ch.toNat x)
    codes.sum % codes.length = 0 →
    ∃ t, exec (.adcRequestComplete samples) s = .next t ∧
      t.fieldOf (.snsResult g) 11 0 = codes.sum / codes.length ∧
      t.fieldOf (.snsResult g) 15 12 = q.ch.toNat ∧ t.fieldOf (.snsResult g) 17 16 = 2 ∧
      t.clk.adc = s.clk.adc.set g.val none ∧ t.clk.adcLast = g ∧ t.clk.adcNow = t.clk.adcNext ∧
      s.keeps [.snsResult g] t ∧
      t = { s with
        regs := t.regs
        clk := { s.clk with adc := t.clk.adc, adcLast := t.clk.adcLast, adcNow := t.clk.adcNow } }) ∧
  (∀ (s : State) (x : AdcSample), x.err = 0 →
    s.adcCode 8 x = min 4095 (s.vinMv * 4096 / 76800) ∧ s.adcCode 9 x = min 4095 (s.vstMv * 4096 / 9600) ∧
      s.adcCode 10 x = min 4095 (s.vbatMv * 4096 / 9600) ∧ s.adcCode 11 x = min 4095 (s.vsysMv * 4096 / 9600))

/-! ## Domains, pads, wakes and residency (spec/05) -/

/-- R90, R106, R86 to R88, R63, R186: the switches of a DOM field stand in the order of R90; as one completes, with no
session and no AVSBus request waiting, its domain is in the new state and the next switch begins. CORE leaves ON with an
empty store buffer, CACHE goes OFF with no dirty line, BUR returns from OFF halted, OSCF takes the qualification of FRC
along, the ADC loses its requests with SENS, and a bank with its ZERO bit returns from OFF as zeroes. -/
def Obligations.SwitchesCompleteInOrder : Prop :=
  (∀ (s : State) (f : BitVec 48),
    ((s.switchesFor f).map (fun w => w.dom)).Sublist (loweringOrder ++ loweringOrder.reverse) ∧
    ∀ w ∈ s.switchesFor f, s.entryOf f w.dom = some w.target ∧ w.target ≠ s.settled[w.dom.val]) ∧
  (∀ (s : State) (w : Switch) (rest : List Switch), s.up = true → s.power.switching = w :: rest → s.power.paused = false →
    s.switchWaits w = false → s.tokenUnasked → s.linkUnused →
    s.braced = false → s.storm = false → s.supply.stormPrior = none → s.ridge.ctx.phase = .atDispatch →
    ∃ t, exec .domainSwitchDone s = .next t ∧ t.power.dom = vset s.power.dom w.dom w.target ∧
      t.power.switching = rest ∧ t.power.gstate = s.power.gstate ∧ t.ridge = s.ridge ∧ t.gutter = s.gutter ∧
      t.nv = s.nv ∧ t.res = s.res ∧ t.gabs = s.gabs ∧
      (w.dom = dPRF → t = { s with power := { s.power with switching := rest, dom := t.power.dom } }) ∧
      (w.dom = dCORE → s.power.dom[dCORE.val] = .on → t.core.sb = []) ∧
      (w.dom = dCORE → s.power.dom[dCORE.val] ≠ .off → w.target = .off → t.core.running = none) ∧
      (w.dom = dCACHE → s.power.dom[dCACHE.val] ≠ .off → w.target = .off →
        ∀ i : Fin 48, ((t.cache.lines[i.val]).valid && (t.cache.lines[i.val]).dirty) = false) ∧
      (w.dom = dBUR → s.power.dom[dBUR.val] = .off → ∀ n : EngineNo, (t.engine n).st = .halted) ∧
      (w.dom = dOSCF → s.power.dom[dOSCF.val] = .on → w.target ≠ .on → t.bitOf .clkStat 3 = false ∧ t.clk.frc = .idle) ∧
      (w.dom = dOSCF → w.target = .on → t.clk.frc = .attempt 0) ∧
      (w.dom = dSENS → s.power.dom[dSENS.val] ≠ .off → w.target = .off → t.clk.adc = Vector.replicate 8 none)) ∧
  (∀ (s : State) (b : BankNo) (w : Switch) (rest : List Switch), s.up = true → s.power.switching = w :: rest →
    s.zeroing = some b → s.linkUnused → s.braced = false → s.storm = false → s.supply.stormPrior = none →
    s.ridge.ctx.phase = .atDispatch →
    ∃ t, exec (.bankZeroDone b) s = .next t ∧ w.dom = dBK b ∧ t.power.dom = vset s.power.dom (dBK b) w.target ∧
      (∀ a, bankOf a = b → t.banks.byte a = 0) ∧ (∀ a, bankOf a ≠ b → t.banks.byte a = s.banks.byte a) ∧
      t = { s with banks := t.banks, power := { s.power with switching := rest, dom := t.power.dom } })

/-- R108, R107, R106: a warm reset by G0 starts every gable at its entry vector with a request of RUN, empties the store
buffer and the cache, closes every session, halts every engine, shows its cause, and leaves the domains as they are; a
snapshot copies all counters into the writer's latch and into no other, before a clear that the same write asks for; a
clear takes every counter to 0; a counter at its top wraps to 0 at its next tick and sets WRAP. Plate fields take the
shadow's values again at the warm reset (Table PWR-8); VCORE may have moved to the internal converter with EN (R29). -/
def Obligations.WarmResetAndResidency : Prop :=
  (∀ (s : State) (v : Word), (s.deviceAccess 0).admits 0 .pwrReset (v ||| 1) → s.supply.avs = none → s.tokenUnasked →
    ∃ t, exec (.warmReset v) s = .next t ∧ t.fieldOf .pwrResetCause 2 0 = 5 ∧ t.core.running = none ∧ t.core.sb = [] ∧
      t.core.halted = false ∧
      (∀ g : Gable, t.ctxOf g = { Ctx.reset with pc := (s.descOf g).entry } ∧ t.power.greq[g.val] = .run ∧
        (t.gab g).stopped = false ∧ t.reg (.rdgResult g) = 0 ∧ ∀ p : Port, t.session g p = none) ∧
      t.cache = Cache.reset ∧ (∀ n : EngineNo, (t.engine n).st = .halted) ∧ t.power.dom = s.power.dom ∧
      t.power.switching = s.power.switching ∧ t.nv = s.nv ∧ t.gutter = s.gutter ∧
      t.supply = { s.supply with vcMv := t.supply.vcMv } ∧ t.res = s.res ∧
      ∀ r, r = .pwrCfg ∨ r = .clkQualXt ∨ r = .clkQualFrc → t.reg r = s.plateWord r) ∧
  (∀ (s : State) (g : Gable) (v : Word), (s.deviceAccess g).admits g .pwrResCtl (v ||| 1) →
    ∃ t, exec (.residencySnapshot g v) s = .next t ∧ (t.res.snap[g.val]).valid = true ∧
      (t.res.snap[g.val]).cnt = s.res.cnt ∧ (v.getLsbD 1 = true → g = 0) ∧
      (∀ h : Gable, h ≠ g → (t.res.snap[h.val]).cnt = (s.res.snap[h.val]).cnt ∧
        (t.res.snap[h.val]).valid = ((s.res.snap[h.val]).valid && !v.getLsbD 1)) ∧
      t.res.cnt = (if v.getLsbD 1 then Vector.replicate 77 0 else s.res.cnt) ∧
      t.res.wrap = (s.res.wrap && !v.getLsbD 1) ∧ t = { s.deviceAccess g with res := t.res }) ∧
  (∀ s : State, s.up = true →
    ∃ t, exec .residencyClear s = .next t ∧ t.res.cnt = Vector.replicate 77 0 ∧ t.res.clearedAt = s.now ∧
      t.res.wrap = false ∧ (∀ h : Gable, (t.res.snap[h.val]).valid = false) ∧
      t = { s.deviceAccess 0 with res := t.res }) ∧
  (∀ (s : State) (i : Fin 77), s.res.cnt[i.val] = BitVec.allOnes 48 →
    (s.bumpResidency i).res.cnt = vset s.res.cnt i 0 ∧ (s.bumpResidency i).res.wrap = true ∧
      (s.bumpResidency i).res.passed.getLsbD i.val = true) ∧
  (∀ (s : State) (i : Fin 77), s.res.passed.getLsbD i.val = true →
    exec (.residencyWrap i) s = .next { s with res := { s.res with wrap := true } })

/-- R97 to R99: a write of PWR_PAD_RELEASE releases each named group whose driving domains are ON and shows REL_REF for
each other one, which stays held; without VIO a group drives nothing and keeps its hold, and nothing drives before INIT
(spec/16 R300); PAD_RELEASE_ASSIST releases all its groups together at the release point, refuses a group of another gable,
waits before that point, ends as an engine's HALT word reaches it, and at its timeout releases none, or all if the point has
been reached by then. -/
def Obligations.PadsReleaseWhenTheirDriversAreOn : Prop :=
  (∀ (s : State) (g : Gable) (v : Word), (s.deviceAccess g).admits g .pwrPadRelease v →
    ∃ t, exec (.padRelease g v) s = .next t ∧ s.accessedOnly g (fun r => r = .pwrPadStat) t ∧
      ∀ p : PadGroup,
        t.held p = (s.held p && !(v.getLsbD p.val && s.driversOn p)) ∧
        t.heldByBrace p = (s.heldByBrace p && !(v.getLsbD p.val && s.driversOn p)) ∧
        t.bitOf .pwrPadStat (16 + p.val) = (s.bitOf .pwrPadStat (16 + p.val) || (v.getLsbD p.val && !s.driversOn p)) ∧
        t.vioOk p = s.vioOk p) ∧
  (∀ (s : State) (p : PadGroup),
    (∃ t, exec (.vioLoss p) s = .next t ∧ s.onlyRegs (fun r => r = .pwrPadStat) t ∧ t.drivenOe p = 0 ∧
      ∀ k, t.bitOf .pwrPadStat k = (s.bitOf .pwrPadStat k && decide (k ≠ 4 * p.val + 3))) ∧
    (∃ t, exec (.vioReturn p) s = .next t ∧ s.onlyRegs (fun r => r = .pwrPadStat) t ∧
      (s.held p = true → s.padsInput = false →
        t.drivenOut p = s.power.heldOut[p.val] ∧ t.drivenOe p = s.power.heldOe[p.val]) ∧
      (s.life = .bare ∨ s.life = .shelter ∨ s.life = .lockout → t.drivenOe p = 0 ∧ t.groupPull p = .down) ∧
      ∀ k, t.bitOf .pwrPadStat k = (s.bitOf .pwrPadStat k || decide (k = 4 * p.val + 3)))) ∧
  (∀ (s : State) (g : Gable), s.serviceBegins g 0x05 = true ∨ s.serviceWaits g 0x05 = true →
    let ps := groupsOf (bitsOf (s.reg (.rdgArg0 g)) 3 0)
    ((∃ p ∈ ps, s.cfg.groupOwner p ≠ g) → ∃ t, exec (.padReleaseAssist g) s = .next t ∧ s.answers g E_NOT_OWNER t ∧
      s.onlyRegs (fun r => r = .rdgResult g) { t with ridge := s.ridge }) ∧
    ((∀ p ∈ ps, s.cfg.groupOwner p = g) → s.assistReady ps = true →
      ∃ t, exec (.padReleaseAssist g) s = .next t ∧ s.answers g E_OK t ∧
        (∀ p : PadGroup, t.held p = (s.held p && !decide (p ∈ ps))) ∧
        s.onlyRegs (fun r => r = .rdgResult g ∨ r = .pwrPadStat) { t with ridge := s.ridge }) ∧
    ((∀ p ∈ ps, s.cfg.groupOwner p = g) → s.assistReady ps = false →
      exec (.padReleaseAssist g) s =
        .next { s with ridge := { s.ridge with ctx := { s.ridge.ctx with phase := .native } } })) ∧
  (∀ (s : State) (g : Gable), s.serviceWaits g 0x05 = true →
    let ps := groupsOf (bitsOf (s.reg (.rdgArg0 g)) 3 0)
    (s.assistReady ps = false →
      ∃ t, exec (.padReleaseTimeout g) s = .next t ∧ s.answers g E_TIMEOUT t ∧
        s.onlyRegs (fun r => r = .rdgResult g) { t with ridge := s.ridge }) ∧
    (s.assistReady ps = true →
      ∃ t, exec (.padReleaseTimeout g) s = .next t ∧ s.answers g E_OK t ∧
        (∀ p : PadGroup, t.held p = (s.held p && !decide (p ∈ ps))) ∧
        s.onlyRegs (fun r => r = .rdgResult g ∨ r = .pwrPadStat) { t with ridge := s.ridge })) ∧
  (∀ (s : State) (g : Gable) (n : EngineNo) (pins : Byte), s.serviceWaits g 0x05 = true → s.engineUp n →
    (s.engine n).phase = .start → (s.engine n).st = .running → burPlain (s.burWordOf n) → burNxt (s.burWordOf n) = 7 →
    burDelay (s.burWordOf n) = 0 →
    let ps := groupsOf (bitsOf (s.reg (.rdgArg0 g)) 3 0)
    (s.setEngine n (fun e => { e with synced := true })).assistReady ps = true →
    ∃ t, exec (.burinWord n pins) s = .next t ∧ s.answers g E_OK t ∧
      (∀ p : PadGroup, t.held p = (s.held p && !decide (p ∈ ps))) ∧ (t.engine n).st = .halted ∧
      s.keeps [.rdgResult g, .pwrPadStat] t)

/-- R100 to R105, R93, R301: an accepted event pends, and goes to the owner of its enabled, unmasked source; one that
wakes the warden is counted, and the one too many masks its source and writes a record; an unmasked source starts its
count afresh; a pin level that FILT + 2 samples showed is accepted and raises its source where the mode selects it; edges
are counted up to 0xFFFF; a PUR source fires from link sleep, or trained while the warden does not run, and never with LINK
OFF; the LINK_HOLD interval and G0's grace end; and the second open strobe of TAMP sets its latch. -/
def Obligations.WakesAreDeliveredCountedAndMasked : Prop :=
  (∀ (s : State) (n : Fin 16), let c : Instr := .wake ⟨n.val, by omega⟩
    (s.sourceActs n.val = false → ∃ t, exec c s = .next t ∧ t.reg .pwrWakePend = s.reg .pwrWakePend ||| bitMask n.val ∧
      s.onlyRegs (fun r => r = .pwrWakePend) t) ∧
    (s.sourceActs n.val = true → s.life = .off → ∃ t, exec c s = .next t ∧
      s.onlyRegs (fun r => r = .pwrWakePend) { t with life := .off } ∧ t.life = .waiting 2) ∧
    (∀ g, s.sourceActs n.val = true → s.up = true → s.cfg.wakeOwner n.val = some g →
      (s.isWake g n.val = false → ∃ t, exec c s = .next t ∧ s.told g n.val t ∧ s.tells [.pwrWakePend] t ∧
        t.reg .pwrWakePend = s.reg .pwrWakePend ||| bitMask n.val ∧
        t = { s with regs := t.regs, power := Power.requests s.power t.power }) ∧
      (s.isWake g n.val = true → s.power.wakeCount[n.val] ≠ 0 → s.now < s.power.wakeOpen[n.val] + s.stormWindow →
        (s.power.wakeCount[n.val] < s.fieldOf .pwrWakeStorm 7 0 → ∃ t, exec c s = .next t ∧ s.told g n.val t ∧
          s.tells [.pwrWakePend] t ∧ t.power.wakeCount[n.val] = s.power.wakeCount[n.val] + 1 ∧
          t.power.wakeSeen = true ∧ t.power.wakeOpen = s.power.wakeOpen ∧
          t = { s with regs := t.regs, power := t.power, ridge := { s.ridge with domWake := t.ridge.domWake } }) ∧
        (s.fieldOf .pwrWakeStorm 7 0 ≤ s.power.wakeCount[n.val] → ∃ t, exec c s = .next t ∧
          s.keeps [.pwrWakePend, .pwrWakeMasked] t ∧
          t.reg .pwrWakeMasked = s.reg .pwrWakeMasked ||| bitMask n.val ∧
          t = { s with regs := t.regs, nv := (s.logEvent recWakeStorm n.val 0).nv })))) ∧
  (∀ (s : State) (p : Port), s.power.dom[dLINK.val] = .off ∨ s.bitOf (.purPcfg p) 0 = false ∨
    ((s.port p).link ≠ .asleep ∧ (s.port p).link ≠ .trained) → exec (.wake ⟨16 + p.val, by omega⟩) s = .next s) ∧
  (∀ (s : State) (p : Port), s.up = true → s.bitOf (.purPcfg p) 0 = true → s.power.dom[dLINK.val] ≠ .off →
    (s.port p).link = .asleep ∨ ((s.port p).link = .trained ∧ s.running = false) →
    ∃ t, exec (.wake ⟨16 + p.val, by omega⟩) s = .next t ∧ t.power.holdAt = some s.now ∧
      t.bitOf .pwrWakePend (16 + p.val) = true ∧ s.keeps [.pwrWakePend] t ∧ t.power.greq = s.power.greq) ∧
  (∀ (s : State) (g : Gable) (v : Word), (s.deviceAccess g).admits g .pwrWakeMasked v →
    (∀ n : Fin 16, v.getLsbD n.val = true → s.levelAsserted n.val = false) →
    ∃ t, exec (.wakeUnmask g v) s = .next t ∧ s.accessedOnly g (fun r => r = .pwrWakeMasked) { t with power := s.power } ∧
      (∀ n : Fin 16, t.bitOf .pwrWakeMasked n.val = (s.bitOf .pwrWakeMasked n.val && !v.getLsbD n.val) ∧
        t.power.wakeCount[n.val] =
          (if v.getLsbD n.val && s.bitOf .pwrWakeMasked n.val then 0 else s.power.wakeCount[n.val])) ∧
      t.power = { s.power with wakeCount := t.power.wakeCount }) ∧
  (∀ (s : State) (n : Fin 8) (level : Bool), s.power.wkRun[n.val] < s.fieldOf (.pwrWkf n) 7 0 + 2 →
    exec (.wakePinAccept n level) s = .next s) ∧
  (∀ (s : State) (n : Fin 8) (level : Bool), s.power.wkLevel.getLsbD n.val ≠ level →
    s.power.wkPin.getLsbD n.val = level → s.fieldOf (.pwrWkf n) 7 0 + 2 ≤ s.power.wkRun[n.val] →
    s.sourceActs n.val = false →
    ∃ t, exec (.wakePinAccept n level) s = .next t ∧ t.power.wkLevel.getLsbD n.val = level ∧
      (∀ m : Fin 8, m ≠ n → t.power.wkLevel.getLsbD m.val = s.power.wkLevel.getLsbD m.val) ∧
      t.bitOf .pwrWakePend n.val = (s.bitOf .pwrWakePend n.val ||
        decide (bitsOf (s.reg (.pwrWkf n)) 9 8 % 2 = if level then 0 else 1)) ∧
      s.keeps [.pwrWakePend] t ∧
      t = { s with
        regs := t.regs
        power := { s.power with wkLevel := t.power.wkLevel, wkRun := s.power.wkRun.set n.val 0 } }) ∧
  (∀ (s : State) (n : Fin 8) (rising : Bool),
    ∃ t, exec (.wkEdgeCount n rising) s = .next t ∧ s.onlyRegs (fun r => r = .pwrWkcnt n) { t with power := s.power } ∧
      t.power = { s.power with wkPin := t.power.wkPin } ∧ t.power.wkPin.getLsbD n.val = rising ∧
      (∀ m : Fin 8, m ≠ n → t.power.wkPin.getLsbD m.val = s.power.wkPin.getLsbD m.val) ∧
      (s.edgeSelected n rising = false → t.reg (.pwrWkcnt n) = s.reg (.pwrWkcnt n))) ∧
  (∀ (s : State) (n : Fin 8) (rising : Bool), s.edgeSelected n rising = true →
    ∃ t, exec (.wkEdgeCount n rising) s = .next t ∧
      t.fieldOf (.pwrWkcnt n) 15 0 = min (s.fieldOf (.pwrWkcnt n) 15 0 + 1) 0xFFFF ∧
      t.bitOf (.pwrWkcnt n) 16 = (s.bitOf (.pwrWkcnt n) 16 || decide (s.fieldOf (.pwrWkcnt n) 15 0 = 0xFFFF))) ∧
  (∀ (s : State) (k : Nat), s.power.holdAt = some k →
    exec .linkHoldExpiry s = .next (if k + 1000 * s.fieldOf .pwrCfg 19 16 ≤ s.now then
      { s with power := { s.power with holdAt := none } } else s)) ∧
  (∀ (s : State) (k : Nat), s.power.offAt = some k →
    exec .offGraceExpiry s = .next (if k + 1000 * s.fieldOf .pwrCfg 15 8 ≤ s.now then
      { s with power := { s.power with graceDone := true } } else s)) ∧
  (∀ (s : State) (high : Bool), s.life = .lockout ∨ s.life = .waiting 4 → exec (.tampStrobe high) s = .next s) ∧
  (∀ (s : State) (high : Bool), s.life ≠ .lockout → s.life ≠ .waiting 4 →
    (high = false ∨ s.power.tampHigh = false → exec (.tampStrobe high) s =
      .next { s with power := { s.power with tampHigh := high, tampOpen := false } }) ∧
    (high = true → s.power.tampHigh = true → s.sourceActs 8 = false →
      ∃ t, exec (.tampStrobe high) s = .next t ∧
        t.power = { s.power with tampHigh := true, tampOpen := true, tampLatch := true } ∧
        s.onlyRegs (fun r => r = .pwrWakePend) { t with power := s.power } ∧
        t.bitOf .pwrWakePend 8 = (s.bitOf .pwrWakePend 8 || !s.power.tampOpen)))

/-! ## Services (spec/05 R92 to R95; spec/10 R200; spec/15 R288 to R292) -/

/-- R92 to R95, R200: ENTER_PROFILE returns E_NOSVC in the Domain scheme, E_RSVD for a code above 4 and E_RANGE for OFF by
another gable than G0; else it records the caller's request alone, and G0's OFF starts the grace and tells every other
gable. SET_DOMAINS returns the first failing check's code and changes nothing, or begins its switches. FLUSH_CACHE_GABLE
leaves no line of the gable valid. -/
def Obligations.ProfileDomainAndFlushServices : Prop :=
  (∀ (s : State) (g : Gable), s.serviceBegins g 0x01 = true →
    let code := bitsOf (s.reg (.rdgArg0 g)) 7 0
    (∀ e, ((s.domainScheme = true ∧ e = E_NOSVC) ∨ (s.domainScheme = false ∧ 5 ≤ code ∧ e = E_RSVD) ∨
        (s.domainScheme = false ∧ code = 4 ∧ g ≠ 0 ∧ e = E_RANGE)) →
      ∃ t, exec (.enterProfile g) s = .next t ∧ s.answers g e t ∧
        s.onlyRegs (fun r => r = .rdgResult g) { t with ridge := s.ridge }) ∧
    (∀ req, s.domainScheme = false → (code, req) ∈ [(0, GState.run), (1, .idle), (2, .sleep), (3, .deep)] →
      ∃ t, exec (.enterProfile g) s = .next t ∧ s.answers g E_OK t ∧
        s.onlyRegs (fun r => r = .rdgResult g) { t with ridge := s.ridge, power := s.power } ∧
        t.power = { s.power with
          greq := vset s.power.greq g req
          offAt := if g = 0 then none else s.power.offAt
          graceDone := if g = 0 then false else s.power.graceDone }) ∧
    (s.domainScheme = false → code = 4 → g = 0 →
      ∃ t, exec (.enterProfile g) s = .next t ∧ s.answers g E_OK t ∧ t.power.greq[0] = .off ∧
        t.power.offAt = some s.now ∧ t.power.graceDone = false ∧
        (∀ h : Gable, h ≠ 0 → s.told h 20 t) ∧ s.tells [.rdgResult g] t)) ∧
  (∀ (s : State) (g : Gable), s.serviceBegins g 0x02 = true →
    let f := s.domArg g
    (∀ e, s.domArgFails g f = some e → ∃ t, exec (.setDomains g) s = .next t ∧ s.answers g e t ∧
      s.onlyRegs (fun r => r = .rdgResult g) { t with ridge := s.ridge }) ∧
    (s.domArgFails g f = none → domEntry f dOSCF = none → s.power.switching ++ s.switchesFor f ≠ [] →
      exec (.setDomains g) s = .next { s with
        power := { s.power with switching := s.power.switching ++ s.switchesFor f }
        ridge := { s.ridge with ctx := { s.ridge.ctx with phase := .native } } }) ∧
    (s.domArgFails g f = none → domEntry f dOSCF = none → s.power.switching ++ s.switchesFor f = [] →
      ∃ t, exec (.setDomains g) s = .next t ∧ s.answers g E_OK t ∧
        s.onlyRegs (fun r => r = .rdgResult g) { t with ridge := s.ridge })) ∧
  (∀ (s : State) (g : Gable) (f : BitVec 48), s.domainScheme = false →
    ((∃ d : Dom, d.val < 8 ∧ domEntry f d ≠ none) → s.domArgFails g f = some E_RANGE) ∧
    ((∀ d : Dom, d.val < 8 → domEntry f d = none) →
      ((∃ b : BankNo, domEntry f (dBK b) ≠ none ∧
          ((s.cfg.bankOwner b = none ∧ g ≠ 0) ∨ ∃ h, s.cfg.bankOwner b = some h ∧ h ≠ g)) →
        s.domArgFails g f = some E_NOT_OWNER) ∧
      ((∀ b : BankNo, domEntry f (dBK b) ≠ none → s.cfg.bankOwner b = some g ∨ (s.cfg.bankOwner b = none ∧ g = 0)) →
        (s.power.gstate ≠ .run → s.power.gstate ≠ .idle → s.domArgFails g f = some E_BUSY) ∧
        (s.power.gstate = .run ∨ s.power.gstate = .idle →
          s.domArgFails g f = if s.depsOk (s.afterField f) then none else some E_RANGE)))) ∧
  (∀ (s : State) (g : Gable), s.serviceBegins g 0x03 = true →
    let h : Gable := ⟨bitsOf (s.reg (.rdgArg0 g)) 2 0 % 8, by omega⟩
    (g ≠ 0 → h ≠ g → ∃ t, exec (.flushCacheGable g) s = .next t ∧ s.answers g E_NOT_OWNER t ∧
      s.onlyRegs (fun r => r = .rdgResult g) { t with ridge := s.ridge }) ∧
    (g = 0 ∨ h = g → s.domOn dCACHE = true → ∃ t, exec (.flushCacheGable g) s = .next t ∧ s.answers g E_OK t ∧
      (∀ i : Fin 48, (t.cache.lines[i.val]).valid = true → (t.cache.lines[i.val]).gable ≠ h) ∧
      (∀ r, Reg.isCount r = false → r ≠ .rdgResult g → t.reg r = s.reg r) ∧
      t = { s with regs := t.regs, cache := t.cache, banks := t.banks, ridge := t.ridge }))

/-- R292, R291, R42: CHECKPOINT answers the first failing check's code and changes nothing, and else writes pages of the
half that is not current alone; with no uncorrectable word in the way it answers E_OK and the half's header holds its GEN
and LEN. A page write takes its page when it is done; a log page that fails read-back is never used again, and its record
waits for the next usable page. -/
def Obligations.CheckpointsAndPageWrites : Prop :=
  (∀ (s : State) (g : Gable), s.serviceBegins g 0x04 = true →
    let src := (s.reg (.rdgArg0 g)).toNat
    let len := (s.reg (.rdgArg1 g)).toNat
    let r := s.cfg.regions[g.val]
    let first := halfPage r (s.nv.target r).1
    (∀ e, s.ckptFails g src len = some e → ∃ t, exec (.checkpoint g) s = .next t ∧ s.answers g e t ∧
      s.onlyRegs (fun q => q = .rdgResult g) { t with ridge := s.ridge }) ∧
    (s.ckptFails g src len = none → Memory.wf s.nv.proof = true →
      ∃ t code, exec (.checkpoint g) s = .next t ∧ s.answers g code t ∧ (code = E_OK ∨ code = E_RANGE) ∧
        (∀ p, p < first ∨ first + (r.pages + 1) / 2 ≤ p → t.nv.page p = s.nv.page p) ∧
        t.nv = { s.nv with proof := t.nv.proof } ∧
        (code = E_OK → leNat (memGetAll 0 t.nv.proof (64 * first) 4) = (s.nv.target r).2 ∧
          leNat (memGetAll 0 t.nv.proof (64 * first + 4) 4) = len) ∧
        ((∀ w, s.banks.eccAt w ≠ some .uncorrectable) → (∀ i : Fin 48, (s.cache.lines[i.val]).bad = 0) →
          code = E_OK))) ∧
  (∀ (s : State) (g : Gable) (src len : Nat),
    s.ckptFails g src len =
      if (s.cfg.regions[g.val]).pages = 0 then some E_QUOTA
      else if len = 0 ∨ 32 * (s.cfg.regions[g.val]).pages - 16 < len then some E_RANGE
      else if src % 4 ≠ 0 then some E_ALIGN
      else if s.cfg.mayRange g .r src len = false then some E_WINDOW
      else if s.rangeOn src len = false then some E_DLOST else none) ∧
  (∀ (s : State) (w : PageWrite) (rest : List PageWrite) (ok : Bool), s.nv.prfQ = w :: rest →
    Memory.wf s.nv.proof = true → w.data.length = 64 →
    (ok = true ∨ w.log = none → ∃ t, exec (.proofPageWriteDone ok) s = .next t ∧ t.nv.page w.page = w.data ∧
      (∀ p, p ≠ w.page → t.nv.page p = s.nv.page p) ∧ t = { s with nv := { s.nv with prfQ := rest, proof := t.nv.proof } }) ∧
    (∀ rec k, ok = false → w.log = some rec → s.nv.cut = false →
      ({ s.nv with worn := w.page :: s.nv.worn } : Nonvolatile).usable (logOfPage w.page)
        (s.nv.head (logOfPage w.page)) = some k →
      ∃ t, exec (.proofPageWriteDone false) s = .next t ∧ w.page ∈ t.nv.worn ∧
        (∃ x ∈ t.nv.prfQ, x.log = some rec ∧ x.page = (logOfPage w.page).page k ∧ x.page ≠ w.page) ∧
        (∀ p, p ≠ w.page → t.nv.page p = s.nv.page p) ∧ t = { s with nv := t.nv, freeCtr := t.freeCtr }))

/-- R288, R289: PLATE_UPDATE answers the first failing check's code and changes no NVM byte, or starts the programmer on
the slot that was not booted, whose sectors under the image read erased where the NVM interface runs; the programmer
leaves the whole image where every check passed, and else a first page that reads erased, and shows the code; no byte
outside the slot's erased blocks changes. -/
def Obligations.PlateUpdatesAreProgrammed : Prop :=
  (∀ (s : State) (g : Gable) (src len : Nat) (image : List Byte),
    let rd := imageRd image
    s.updateFails g src len image =
      if s.nv.upd.isSome then some E_BUSY
      else if len < 0x80 ∨ 0x100000 < len then some E_RANGE
      else if src % 4 ≠ 0 then some E_ALIGN
      else if s.cfg.mayRange g .r src len = false then some E_WINDOW
      else if hdrMagicOk rd = false ∨ hdrCrcOk rd = false ∨ hdrSeq rd ≤ s.cfg.seq.toNat then some E_VERSION
      else if s.nv.nvm.sfdp = true ∧ s.nv.nvm.density < 0x200000 then some E_RANGE else none) ∧
  (∀ (s : State) (g : Gable), s.serviceBegins g 0x08 = true →
    let src := (s.reg (.rdgArg0 g)).toNat
    let len := (s.reg (.rdgArg1 g)).toNat
    let x := (s.cleanGable g).bankReadMany reqRidge src (if src + len ≤ 0x200000 then len else 0)
    (∀ e, s.updateFails g src len x.1 = some e → ∃ t, exec (.plateUpdate g) s = .next t ∧ s.answers g e t ∧
      s.onlyRegs (fun r => r = .rdgResult g) { t with ridge := s.ridge }) ∧
    (s.updateFails g src len x.1 = none → ∃ t, exec (.plateUpdate g) s = .next t ∧ s.answers g E_OK t ∧
      t.nv.upd = some { slotB := !s.cfg.slotB, image := x.1 } ∧ t.fieldOf .pltUpdStat 1 0 = 1 ∧
      t.nv = { s.nv with upd := t.nv.upd, nvm := { s.nv.nvm with bytes := t.nv.nvm.bytes } } ∧
      (∀ a, memGet 0xFF t.nv.nvm.bytes a =
        if s.gateRuns 9 = true ∧ slotBase (!s.cfg.slotB) ≤ a ∧ a < slotBase (!s.cfg.slotB) + (x.1.length + 0xFFF) / 0x1000 * 0x1000 then 0xFF
        else memGet 0xFF s.nv.nvm.bytes a) ∧
      (∀ r, Reg.isCount r = false → r ≠ .rdgResult g → r ≠ .pltUpdStat → t.reg r = s.reg r) ∧
      t = { s with regs := t.regs, cache := t.cache, banks := t.banks, ridge := t.ridge, nv := t.nv })) ∧
  (∀ (s : State) (u : Update) (nvmOk : Bool), s.gateRuns 9 = true → s.nv.upd = some u →
    Memory.wfBy 0xFF s.nv.nvm.bytes = true →
    256 ≤ u.image.length →
    let base := slotBase u.slotB
    let cause := firstCause (checks3to8 (imageRd u.image) (plateCfg (imageRd u.image) u.slotB) s.cfg.vendorKeys
      s.rootCopy)
    ∃ t, exec (.plateProgramDone nvmOk) s = .next t ∧ t.nv.upd = none ∧ t.fieldOf .pltUpdStat 1 0 = 3 ∧
      t.fieldOf .pltUpdStat 15 8 =
        (if nvmOk = false then E_TIMEOUT.toNat else if cause = 0 then E_OK.toNat else if cause = 4 then E_RANGE.toNat
         else if cause = 5 ∨ cause = 6 then E_AUTH.toNat else E_VERSION.toNat) ∧
      (nvmOk = true → cause = 0 → memGetAll 0xFF t.nv.nvm.bytes base u.image.length = u.image) ∧
      (nvmOk = false ∨ cause ≠ 0 → ∀ a, base ≤ a → a < base + 256 → memGet 0xFF t.nv.nvm.bytes a = 0xFF) ∧
      (∀ a, a < base ∨ base + (u.image.length + 0xFFF) / 0x1000 * 0x1000 ≤ a →
        memGet 0xFF t.nv.nvm.bytes a = memGet 0xFF s.nv.nvm.bytes a) ∧
      s.keeps [.pltUpdStat] t ∧
      t = { s with
        regs := t.regs, freeCtr := t.freeCtr
        nv := { s.nv with upd := none, nvm := { s.nv.nvm with bytes := t.nv.nvm.bytes } } })

/-! ## Ridge (spec/06) -/

/-- R111, R120 to R123, R116, R117: a word whose fields before NXT ask for nothing ends as its NXT says, and a WAIT waits;
a word that asks for the external regulator puts its request on the bus with the token, and waits while the token is out
or FRC is not qualified (spec/02 R34, R313); phase 6 ends once the request is off the bus and settled; a delay ends when
its count has run out, and not before; a WAIT ends with its condition or by its timeout. -/
def Obligations.RidgeWordsEndAsNxtSays : Prop :=
  (∀ s : State, s.up = true → s.braced = false → s.ridge.ctx.phase = .boundary → s.power.target = none →
    quietWord s.ridgeWordAt →
    (rdgNxt s.ridgeWordAt ≠ 6 → ∃ t, exec .ridgeWord s = .next t ∧ s.wordBegun.followsNxt false t) ∧
    (rdgNxt s.ridgeWordAt = 6 → exec .ridgeWord s = .next { s.wordBegun with ridge := { s.wordBegun.ridge with
      ctx := { s.wordBegun.ridge.ctx with phase := .waiting none } } })) ∧
  (∀ (s : State) (c : Instr), s.up = true → s.braced = false → rdgEvt s.ridgeWordAt = 0 → rdgDom s.ridgeWordAt = 0 →
    rdgPadh s.ridgeWordAt = 0 → rdgClkg s.ridgeWordAt = 0 → rdgVreq s.ridgeWordAt = true →
    rdgVcode s.ridgeWordAt ≤ 0x6E → s.bitOf .supAvsCfg 16 = true → s.vinOk = true → s.domOn dOSCF = true →
    (c = .ridgeWord ∧ s.ridge.ctx.phase = .boundary ∨ c = .ridgeTokenAcquired ∧ s.ridge.ctx.phase = .token) →
    let begun : Ridge := if c = .ridgeWord then { s.wordBegun.ridge with vreqFail := false } else s.ridge
    (s.bitOf .supStat 9 = false → s.supply.avs = none → s.bitOf .clkStat 3 = true →
      ∃ t, exec c s = .next t ∧ t.reg .supStat = s.reg .supStat ||| 0x200 ∧
        t.ridge = { begun with ctx := { begun.ctx with phase := .vreq } } ∧
        t.supply = { s.supply with
          avs := some { cmd := .writeCommit, rail := BitVec.ofNat 4 (s.fieldOf .supAvsCfg 3 0)
                        code := BitVec.ofNat 8 (rdgVcode s.ridgeWordAt), attempt := 0, origin := .ridge
                        polling := false, ending := false } } ∧
        s.keeps [.supStat] t ∧ t = { s with regs := t.regs, ridge := t.ridge, supply := t.supply }) ∧
    ((s.bitOf .supStat 9 = true ∧ s.supply.avs ≠ none) ∨ s.bitOf .clkStat 3 = false → c = .ridgeWord →
      exec c s = .next { s with ridge := { begun with ctx := { begun.ctx with phase := .token } } })) ∧
  (∀ s : State, s.up = true → s.braced = false → s.power.target = none → rdgNxt s.ridgeWordAt ≠ 6 →
    rdgTmr s.ridgeWordAt = 0 → rdgCnt s.ridgeWordAt = 0 → s.supply.avs = none →
    s.ridge.vreqPend = true ∨ s.vcoreDone = true → s.ridge.ctx.phase = .vreq →
    ∃ t, exec .ridgeVreqDone s = .next t ∧ s.followsNxt false t) ∧
  (∀ (s : State) (n : Nat), s.up = true → s.braced = false → s.power.target = none → s.ridge.ctx.phase = .delay n →
    (n = 0 → ∃ t, exec .ridgeTmrDelayExpiry s = .next t ∧ s.followsNxt false t) ∧
    (n ≠ 0 → exec .ridgeTmrDelayExpiry s = .next s)) ∧
  (∀ (s : State) (o : Option Nat), s.up = true → s.braced = false → s.power.target = none →
    rdgNxt s.ridgeWordAt = 6 → s.ridge.ctx.phase = .waiting o →
    (s.ridgeCond (rdgCond s.ridgeWordAt) = true →
      exec .ridgeWaitCondition s = .next (s.ridgeAt s.ridgeInc s.ridge.ctx.stack)) ∧
    (s.ridgeCond (rdgCond s.ridgeWordAt) = false → exec .ridgeWaitCondition s = .next s) ∧
    (o = some 0 → exec .ridgeWaitTimeout s =
      .next (s.ridgeAt (BitVec.ofNat 9 (rdgTarget s.ridgeWordAt)) s.ridge.ctx.stack)) ∧
    (o ≠ some 0 → exec .ridgeWaitTimeout s = .next s)) ∧
  (∀ (s : State) (g : Gable), s.ridge.ctx.routine = .service g 0x06 → s.ridge.ctx.phase = .native → s.up = true →
    s.braced = false → s.supply.avsSetWait = none → s.supply.avs = none → s.vcoreDone = true →
    ∃ t, exec .ridgeVreqDone s = .next t ∧ s.answers g E_OK t ∧
      s.onlyRegs (fun r => r = .rdgResult g) { t with ridge := s.ridge })

/-- R113 to R119, spec/04 R72: a word's CNT field operates its counter, TMR delays, PADH holds groups and releases those
whose driving domains are ON, CLKG switches its gates or is dropped whole where a gate that it disables has a busy
enabled gate below it, and CLK_GATE_REFUSED shows the lowest such gate and its lowest busy child, DOM begins its
switches or is refused, and EVT performs its action; each shows its refusal for the next word. -/
def Obligations.RidgeFieldsActInTheirPhases : Prop :=
  ∀ s : State, s.up = true → s.braced = false → s.ridge.ctx.phase = .boundary → s.power.target = none →
    rdgNxt s.ridgeWordAt = 0 →
    let w := s.ridgeWordAt
    let goes := fun (r : Refs) => { s.wordBegun.ridge with
      refsNext := r, ctx := { s.wordBegun.ridge.ctx with addr := s.ridgeInc, phase := .boundary } }
    (rdgEvt w = 0 → rdgDom w = 0 → rdgPadh w = 0 → rdgClkg w = 0 → rdgVreq w = false →
      (rdgTmr w = 0 → ∀ k : Fin 16,
        (rdgCnt w = k.val + 1 → ∃ t, exec .ridgeWord s = .next t ∧ s.keeps [.rdgEcnt k] t ∧
          (t.reg (.rdgEcnt k)).toNat = min ((s.reg (.rdgEcnt k)).toNat + 1) 0xFFFFFFFF ∧
          t = { s with regs := t.regs, ridge := goes Refs.none }) ∧
        (rdgCnt w = k.val + 17 → ∃ t, exec .ridgeWord s = .next t ∧ s.keeps [.rdgEcnt k] t ∧ t.reg (.rdgEcnt k) = 0 ∧
          t = { s with regs := t.regs, ridge := goes Refs.none })) ∧
      (rdgTmr w = 0 → rdgCnt w = 33 → exec .ridgeWord s = .next { s with
        ridge := goes Refs.none
        res := { s.res with snap := vset s.res.snap 0 { valid := true, cnt := s.res.cnt } } }) ∧
      (rdgTmr w ≠ 0 → rdgCnt w = 0 → exec .ridgeWord s = .next { s with
        ridge := { s.wordBegun.ridge with ctx := { s.wordBegun.ridge.ctx with phase := .delay (rdgTmr w) } } })) ∧
    (rdgEvt w = 0 → rdgDom w = 0 → rdgClkg w = 0 → rdgVreq w = false → rdgCnt w = 0 → rdgTmr w = 0 →
      ∃ t, exec .ridgeWord s = .next t ∧ s.keeps [.pwrPadStat] t ∧
        (∀ p : PadGroup,
          (rdgPadh w / 4 ^ p.val % 4 = 1 → t.held p = true ∧
            (s.held p = false → t.power.heldOut[p.val] = s.groupOut p ∧ t.power.heldOe[p.val] = s.groupOe p)) ∧
          (rdgPadh w / 4 ^ p.val % 4 = 2 → t.held p = (s.held p && !s.driversOn p)) ∧
          (rdgPadh w / 4 ^ p.val % 4 = 0 → t.held p = s.held p)) ∧
        t.ridge = goes { Refs.none with
          pad := decide (∃ p : PadGroup, rdgPadh w / 4 ^ p.val % 4 = 2 ∧ s.driversOn p = false) } ∧
        t = { s with
          regs := t.regs, ridge := t.ridge
          power := { s.power with heldOut := t.power.heldOut, heldOe := t.power.heldOe } }) ∧
    (rdgEvt w = 0 → rdgDom w = 0 → rdgPadh w = 0 → rdgClkg w ≠ 0 → rdgVreq w = false → rdgCnt w = 0 → rdgTmr w = 0 →
      ((∀ p c, ¬ s.blocks (clkgGates w 2) p c) → ∃ t, exec .ridgeWord s = .next t ∧
        (∀ k, t.bitOf .clkGate k = ((s.bitOf .clkGate k || decide (k ∈ clkgGates w 1)) && !decide (k ∈ clkgGates w 2))) ∧
        s.keeps [.clkGate] t ∧ t = { s with regs := t.regs, ridge := goes Refs.none }) ∧
      (∀ p c, s.blocksFirst (clkgGates w 2) p c → ∃ t, exec .ridgeWord s = .next t ∧
        t.bitOf .clkGateRefused 0 = true ∧ t.fieldOf .clkGateRefused 7 4 = c ∧ t.fieldOf .clkGateRefused 11 8 = p ∧
        t.fieldOf .clkGateRefused 15 12 = 8 ∧ t.reg .clkEvt = s.reg .clkEvt ||| 0x200 ∧ t.ridge = goes { Refs.none with gate := true } ∧ s.told 0 30 t ∧
        s.tells [.clkGateRefused, .clkEvt] t ∧
        t = { s with regs := t.regs, ridge := t.ridge, power := Power.requests s.power t.power })) ∧
    (rdgEvt w = 0 → rdgDom w ≠ 0 → rdgPadh w = 0 → rdgClkg w = 0 → rdgVreq w = false → rdgCnt w = 0 → rdgTmr w = 0 →
      domEntry (rdgDom w) dOSCF = none → s.power.switching = [] →
      (s.depsOk (s.afterField (rdgDom w)) = true → s.switchesFor (rdgDom w) ≠ [] → exec .ridgeWord s = .next { s with
        power := { s.power with switching := s.switchesFor (rdgDom w) }
        ridge := { s.wordBegun.ridge with ctx := { s.wordBegun.ridge.ctx with phase := .domains } } }) ∧
      (s.depsOk (s.afterField (rdgDom w)) = false → ∃ t, exec .ridgeWord s = .next t ∧
        t.reg .rdgEvt = s.reg .rdgEvt ||| 2 ∧ s.keeps [.rdgEvt] t ∧
        t = { s with regs := t.regs, ridge := goes { Refs.none with dom := true } })) ∧
    (rdgDom w = 0 → rdgPadh w = 0 → rdgClkg w = 0 → rdgVreq w = false → rdgCnt w = 0 → rdgTmr w = 0 →
      s.power.switching = [] →
      (rdgEvt w = 1 ∨ rdgEvt w = 2 → exec .ridgeWord s = .next { s with
        core := { s.core with halted := decide (rdgEvt w = 1) }
        ridge := { goes Refs.none with lastAct := E_OK, actErr := false } }) ∧
      (0x20 ≤ rdgEvt w → ∃ t, exec .ridgeWord s = .next t ∧ s.toldAll (rdgEvt w) t ∧ s.tells [] t ∧
        t = { s with
          regs := t.regs, power := Power.requests s.power t.power
          ridge := { goes Refs.none with lastAct := E_OK, actErr := false } }))

/-- R124, R126, R128 to R131, R91, R94: DISPATCH takes a pending commit first, then DUSK, then a change of the global
state, then a domain wake, then the oldest call, which runs from its service's entry; a transition ends in its state, that
to OFF with every domain OFF and VCORE internal (spec/02 R30); a
commit waits, is checked, and takes effect, is rejected, or is aborted at its timeout. -/
def Obligations.DispatchTakesCommitsAndWorkInOrder : Prop :=
  (∀ s : State, s.up = true → s.braced = false → s.storm = false → s.ridge.stormOut = false →
    s.ridge.ctx.phase = .atDispatch → s.rdgCommitState ≠ 2 →
    let enters := fun (a : Nat) (r : Routine) =>
      { s.ridge.ctx with addr := BitVec.ofNat 9 a, stack := [], routine := r, phase := .boundary }
    (s.ridge.duskTrig = true → exec .dispatch s =
      .next { s with ridge := { s.ridge with duskTrig := false, ctx := enters 6 (.trigger 6) } }) ∧
    (s.ridge.duskTrig = false → s.domainScheme = false → s.effective ≠ s.power.gstate → s.power.levelDue = 0 →
      ∃ t, exec .dispatch s = .next t ∧ t.power.gstate = .trans ∧ t.power.target = some s.effective ∧
        t.power.wakeSeen = false ∧
        t.ridge = { s.ridge with
          ctx := enters (8 + s.effective.depth) (.trigger (BitVec.ofNat 9 (8 + s.effective.depth))) } ∧
        t.power.dom = s.power.dom ∧ s.keeps [.pwrWakeMasked] t ∧
        (s.effective = .run → t = { s with ridge := t.ridge, power := t.power }) ∧
        (s.effective = .sleep ∨ s.effective = .deep → s.power.gstate = .run ∨ s.power.gstate = .idle →
          ∀ b : Fin 16, t.power.preBanks[b.val] = s.settled[8 + b.val])) ∧
    (s.ridge.duskTrig = false → s.domainScheme = true → s.ridge.domWake = true → exec .dispatch s = .next { s with
      power := { s.power with wakeSeen := false }
      ridge := { s.ridge with domWake := false, ctx := enters 0xD (.trigger 0xD) } }) ∧
    (s.ridge.duskTrig = false → (if s.domainScheme then s.ridge.domWake = false else s.effective = s.power.gstate) →
      ((∀ h : Gable, (s.ridge.slots[h.val]).waiting = none) → exec .dispatch s = .next s) ∧
      (∀ (c : Instr) (g : Gable) (age : Nat) (n : Byte), s.ridge.slots[g.val] = .pending age n →
        (∀ (h : Gable) (age' : Nat) (m : Byte), s.ridge.slots[h.val] = .pending age' m →
          age < age' ∨ (age = age' ∧ g ≤ h)) →
        c = .dispatch ∨ (c = .customerService g ∧ 0x40 ≤ n.toNat) →
        exec c s = .next { s with ridge := { s.ridge with
          slots := vset s.ridge.slots g (.running n)
          ctx := enters (if n.toNat < 0x40 then rdgTarget (s.ridge.vendor.word s.ridge.ctx.origin.toNat) + n.toNat
            else 0x180 + s.ridge.live.entryByte (n.toNat - 0x40) % 128) (.service g n) } }))) ∧
  (∀ (s : State) (g : GState) (e : BitVec 9), s.up = true → s.braced = false → s.ridge.ctx.phase = .boundary →
    s.power.target = some g → s.ridge.ctx.routine = .trigger e → (entryState e.toNat).isSome = true →
    quietWord s.ridgeWordAt → rdgNxt s.ridgeWordAt = 7 →
    (g = .off → ∃ t, exec .ridgeWord s = .next t ∧ t.life = .off ∧ t.power.dom = Vector.replicate 24 .off ∧
      t.power.gstate = .off ∧ t.power.target = none ∧ t.bitOf .supStat 7 = false ∧ t.core.sb = [] ∧
      t.core.running = none ∧ t.nv = s.nv ∧ t.gutter = s.gutter) ∧
    (g ≠ .off → (∀ (h : Gable) (p : Port), (s.session h p).elim true (fun x => x.pending.isNone) = true) →
      ∃ t, exec .ridgeWord s = .next t ∧
        t.power = { s.power with
          gstate := g, target := none, slept := s.power.slept && decide (g ≠ .run) && decide (g ≠ .idle) } ∧
        t.ridge.ctx = s.ridge.ctx.idle)) ∧
  (∀ s : State, s.up = true → s.braced = false → s.storm = false → s.ridge.ctx.phase = .atDispatch →
    s.rdgCommitState = 2 → s.ridge.suspend = none → s.nextWork = none →
    ∃ t, exec .dispatch s = .next t ∧ t.ridge = { s.ridge with live := s.ridge.staging, staging := s.ridge.live } ∧
      t.reg .rdgCustId = rdgDigest s.ridge.staging ∧ t.reg .rdgSvcCust = s.ridge.staging.custMask ∧
      t.rdgCommitState = 3 ∧ t.reg .rdgEvt = s.reg .rdgEvt ||| 4 ∧
      s.keeps [.rdgCustId, .rdgSvcCust, .rdgCommit, .rdgEvt] t ∧ t = { s with regs := t.regs, ridge := t.ridge }) ∧
  (∀ (s : State) (v : Word), (s.deviceAccess 0).admits 0 .rdgCommit (v ||| 1) →
    ∃ t, exec (.ridgeCommit v) s = .next t ∧ s.accessedOnly 0 (fun r => r = .rdgCommit) t ∧
      t.fieldOf .rdgCommit 31 24 = bitsOf v 31 24 ∧
      t.rdgCommitState = (if s.rdgCommitState = 1 ∨ s.rdgCommitState = 2 then s.rdgCommitState else 1)) ∧
  (∀ s : State, s.rdgCommitState = 1 →
    (rdgFirstBad s.ridge.staging 384 128 = none → ∃ t, exec .ridgeCommitChecked s = .next t ∧ t.rdgCommitState = 2 ∧
      s.keeps [.rdgCommit] t ∧ t = { s with regs := t.regs, ridge := { s.ridge with commitAt := s.now } }) ∧
    (∀ a c, rdgFirstBad s.ridge.staging 384 128 = some (a, c) → ∃ t, exec .ridgeCommitChecked s = .next t ∧
      t.rdgCommitState = 4 ∧ t.reg .rdgCommitStat = BitVec.ofNat 32 (a + 0x200 * c) ∧
      t.reg .rdgEvt = s.reg .rdgEvt ||| 8 ∧
      s.onlyRegs (fun r => r = .rdgCommit ∨ r = .rdgCommitStat ∨ r = .rdgEvt) t)) ∧
  (∀ s : State, s.rdgCommitState = 2 → s.ridge.commitAt + 1000 * s.fieldOf .rdgCommit 31 24 ≤ s.now →
    ∃ t, exec .ridgeCommitTimeout s = .next t ∧ t.rdgCommitState = 5 ∧
    t.reg .rdgEvt = s.reg .rdgEvt ||| 0x10 ∧ s.onlyRegs (fun r => r = .rdgCommit ∨ r = .rdgEvt) t)

/-! ## Scheduling and restarts (spec/11) -/

/-- R204, R207 to R210, R213: the switcher runs the boosted gable received first; without one a gable of the highest
urgency class among those with REMAIN; without one of them a gable that may use slack; the ILB is discarded at a switch
and buffered stores stay. Within a class the one whose turn it is runs, and a tie goes to the lower number (the order of
turns is the model's choice, log 57). A frame, once its 1,000 ticks have passed, gives each gable its budget less its
overrun; a gable without REMAIN, and one whose quantum has run out, are switched at the boundary. -/
def Obligations.TheSwitcherFollowsBoostsBudgetsAndUrgency : Prop :=
  (∀ (s : State) (g : Gable), s.runnable g = true → s.boostRuns g = true →
    (∀ h : Gable, s.runnable h = true → s.boostRuns h = true → h = g ∨
      ((s.gab g).boost).elim 0 (fun b => b.order) < ((s.gab h).boost).elim 0 (fun b => b.order)) →
    s.pickGable = some g) ∧
  (∀ s : State, (∀ h : Gable, s.runnable h = true → s.boostRuns h = false) → (∀ h : Gable, (s.descOf h).urg < 4) →
    ((∃ g : Gable, s.runnable g = true ∧ (s.gab g).remain ≠ 0) →
      ∃ g, s.pickGable = some g ∧ s.runnable g = true ∧ (s.gab g).remain ≠ 0 ∧
        ∀ h : Gable, s.runnable h = true → (s.gab h).remain ≠ 0 → (s.descOf h).urg ≤ (s.descOf g).urg ∧
          ((s.descOf h).urg = (s.descOf g).urg → (s.gab h).before (s.gab g) = false ∧
            ((s.gab g).before (s.gab h) = false → g ≤ h))) ∧
    ((∀ g : Gable, s.runnable g = true → (s.gab g).remain = 0) →
      ((∃ g : Gable, s.runnable g = true ∧ (s.descOf g).slackOk = true) →
        ∃ g, s.pickGable = some g ∧ s.runnable g = true ∧ (s.descOf g).slackOk = true ∧
          ∀ h : Gable, s.runnable h = true → (s.descOf h).slackOk = true → (s.descOf h).urg ≤ (s.descOf g).urg) ∧
      ((∀ g : Gable, s.runnable g = true → (s.descOf g).slackOk = false) → s.pickGable = none))) ∧
  (∀ s : State, s.coreRuns = true →
    (s.pickGable = none → s.core.running ≠ none → exec .gableSwitch s =
      .next { s with core := { s.core with running := none, ilb := [] } }) ∧
    (∀ g, s.pickGable = some g → s.core.running ≠ some g → s.thatch.tell[g.val] = false →
      ∃ t, exec .gableSwitch s = .next t ∧ t.core.running = some g ∧ t.core.ilb = [] ∧ t.core.sb = s.core.sb ∧
        t.ctxOf g = { s.ctxOf g with wfe := false } ∧ (∀ h, h ≠ g → t.ctxOf h = s.ctxOf h) ∧
        (s.boostRuns g = false → (s.gab g).turn = 0 → (t.gab g).turn = s.cfg.quantum) ∧
        (∀ h : Gable, t.gab h = { s.gab h with turn := (t.gab h).turn, spent := (t.gab h).spent }) ∧
        (∀ h : Gable, h ≠ g → (t.gab h).turn = (s.gab h).turn) ∧
        t = { s with core := { s.core with running := some g, ilb := [], ctx := t.core.ctx }, gabs := t.gabs })) ∧
  (∀ s : State, (s.frame.tick < 1000 → exec .frameStart s = .next s) ∧
    (1000 ≤ s.frame.tick → ∃ t, exec .frameStart s = .next t ∧
      (∀ g : Gable, t.gab g = { s.gab g with
        used := 0, released := 0, overrun := 0, slack := false, remain := (s.descOf g).budget - (s.gab g).overrun }) ∧
      t = { s with
        gabs := t.gabs
        frame := { s.frame with tick := 0, num := s.frame.num + 1, rsvLeft := s.cfg.linkRsv } })) ∧
  (∀ (s : State) (g : Gable) (c : Instr), s.core.running = some g →
    (c = .budgetExhausted g ∧ (s.gab g).remain = 0) ∨ (c = .quantumExpiry ∧ (s.gab g).turn = 0) →
    ∃ t, exec c s = .next t ∧ exec .gableSwitch s = .next t ∧
      ∀ h : Gable, t.gab h = { s.gab h with turn := (t.gab h).turn, spent := (t.gab h).spent }) ∧
  (∀ (s : State) (g : Gable), s.core.running = some g →
    ((s.gab g).remain ≠ 0 → exec (.budgetExhausted g) s = .next s) ∧
      ((s.gab g).turn ≠ 0 → exec .quantumExpiry s = .next s))

/-- R213, R217 to R219, R152: a boost that has run BOOST_MAX ends and counts in EXPIRED, and none before. A restart, by the
gable or DELAY ms after its double fault, withdraws or orphans
the gable's call, commits its stores, flushes its lines, holds its pads, halts its engines, closes its sessions, clears
its events, counts in RESTARTS, and starts it at its entry vector with its present REMAIN; only an AUTO restart counts
toward LIMIT. -/
def Obligations.BoostsExpireAndGablesRestart : Prop :=
  (∀ (s : State) (g : Gable) (b : Boost), (s.gab g).boost = some b → b.ran < (s.descOf g).boostMax →
    exec (.boostExpiry g) s = .next s) ∧
  (∀ (s : State) (g : Gable) (b : Boost), (s.gab g).boost = some b → (s.descOf g).boostMax ≤ b.ran →
    s.thatch.tell = Vector.replicate 8 false →
    (∀ p : Port, (s.session g p).elim true (fun x => x.pending.isNone) = true) →
    ∃ t, exec (.boostExpiry g) s = .next t ∧ (t.gab g).boost = none ∧
      t.fieldOf (.gabBoostStat g) 31 16 = min (s.fieldOf (.gabBoostStat g) 31 16 + 1) 0xFFFF ∧
      t.fieldOf (.gabBoostStat g) 15 0 = s.fieldOf (.gabBoostStat g) 15 0 ∧ s.keeps [.gabBoostStat g] t ∧
      (∀ h : Gable, h ≠ g → (t.gab h).boost = (s.gab h).boost) ∧
      t = { s with regs := t.regs, gabs := t.gabs, core := t.core }) ∧
  (∀ (s : State) (g : Gable) (v : Word) (self : Bool),
    (self = true → (s.deviceAccess g).admits g (.gabCtl g) (v ||| 1)) →
    (self = false → (s.gab g).restartPend = true ∧ (s.gab g).stopAt + 1000 * (s.descOf g).delay ≤ s.now) →
    ∃ t, exec (if self then .gableSelfRestart g v else .gableRestart g) s = .next t ∧
      t.ctxOf g = { Ctx.reset with pc := (s.descOf g).entry } ∧ (∀ h, h ≠ g → t.ctxOf h = s.ctxOf h) ∧
      (t.gab g).stopped = false ∧ (t.gab g).restartPend = false ∧ (t.gab g).boost = none ∧
      (t.gab g).remain = (s.gab g).remain ∧
      (t.gab g).autoCount = (s.gab g).autoCount + (if self then 0 else 1) ∧
      t.power.greq[g.val] = .run ∧ t.reg (.rdgResult g) = 0 ∧
      (∀ age n, s.ridge.slots[g.val] = .pending age n → t.ridge.slots[g.val] = .free) ∧
      (∀ n, s.ridge.slots[g.val] = .running n → t.ridge.slots[g.val] = .running n ∧ t.ridge.discard[g.val] = true) ∧
      (∀ e ∈ t.core.sb, e.gable ≠ g) ∧
      (∀ i : Fin 48, (t.cache.lines[i.val]).valid = true → (t.cache.lines[i.val]).gable ≠ g) ∧
      (∀ p : PadGroup, s.cfg.groupOwner p = g → t.held p = true) ∧
      (∀ n : EngineNo, s.cfg.engineOwner n = some g → (t.engine n).st = .halted) ∧
      (∀ p : Port, t.session g p = none) ∧
      t.reg (.gabEvtPendLo g) = 0 ∧ t.reg (.gabEvtPendHi g) = 0 ∧
      t.reg (.gabEvtEnLo g) = s.cfg.resetWord (.gabEvtEnLo g) ∧ t.reg (.gabEvtEnHi g) = s.cfg.resetWord (.gabEvtEnHi g) ∧
      t.reg (.gabTrapBase g) = s.cfg.resetWord (.gabTrapBase g) ∧ t.reg (.lcGctl g) = s.cfg.resetWord (.lcGctl g) ∧
      (∀ k, t.reg (.gabPerf g k) = 0) ∧
      t.fieldOf (.gabFault g) 30 24 = min (s.fieldOf (.gabFault g) 30 24 + 1) 127 ∧ t.bitOf (.gabFault g) 16 = true ∧
      t.fieldOf (.gabFault g) 15 0 = s.fieldOf (.gabFault g) 15 0 ∧
      t.power.dom = s.power.dom ∧ t.nv = s.nv ∧ t.supply = s.supply ∧ t.gutter = s.gutter)

/-! ## Banks and the line cache (spec/09, spec/10) -/

/-- R172, R168, R171, R183, R180: a bank that is not under test grants its waiter of highest rank, the losers count toward
their promotion, and its engines take turns; the scrubber reads one word of each bank that is ON; a corrected word is
written back; BNK_BIST.GO takes an unowned bank that is ON and zeroes it, accesses to it wait, and its end shows the
result (the zeroes stand from the start of the test, log 26); and a circular window takes a range within one bank. -/
def Obligations.BanksGrantScrubCorrectAndTest : Prop :=
  (∀ (s : State) (b : BankNo), s.banks.bist = some b →
    exec (.bankGrant b) s = .next s ∧
      (s.core.sb.head?.elim false (fun e => decide (bankOf e.addr = b)) = true → exec .storeCommit s = .next s)) ∧
  (∀ (s : State) (b : BankNo) (w : Waiter), s.banks.bist ≠ some b →
    grantOf s.banks.rr[b.val] (s.bankWaiters b) = some w →
    w ∈ s.bankWaiters b ∧
    (∀ v ∈ s.bankWaiters b, Waiter.rank s.banks.rr[b.val] w ≤ Waiter.rank s.banks.rr[b.val] v) ∧
    (∀ n, w.req = .dma n → ∃ t, exec (.bankGrant b) s = .next t ∧ t.banks.rr = vset s.banks.rr b n) ∧
    (w.req = .cache ∨ w.req = .core →
      ∃ t, exec (.bankGrant b) s = .next t ∧
        t.banks.arb = vset s.banks.arb b (((s.bankWaiters b).erase w).map (fun v =>
          { v with lost := v.lost + 1, promoted := v.promoted || decide (16 ≤ v.lost + 1) })) ∧
        (t.reg .bnkPromoCnt).toNat = min ((s.reg .bnkPromoCnt).toNat +
          (((s.bankWaiters b).erase w).filter (fun v => !v.promoted && decide (16 ≤ v.lost + 1))).length) 0xFFFFFFFF ∧
        (w.req = .core → t.core.sb = s.core.sb.tail) ∧
        (∀ tr, w.req = .cache → s.cache.transfers.find? (fun x => x.started && inBank b (32 * x.line)) = some tr →
          t.cache.transfers = (s.cache.without tr).transfers ∧ t.core.sb = s.core.sb) ∧
        (∀ r, Reg.isCount r = false → r ≠ .bnkPromoCnt → t.reg r = s.reg r) ∧
        t = { s with
          regs := t.regs, banks := t.banks, cache := t.cache, core := { s.core with sb := t.core.sb } })) ∧
  (∀ s : State, s.up = true → s.bitOf .bnkScrub 0 = true →
    ∃ t, exec .scrubRead s = .next t ∧
      (∀ n : BankNo, t.banks.scrub[n.val] =
        if s.bankOn n = true ∧ s.banks.bist ≠ some n then (s.banks.scrub[n.val] + 1) % 0x4000 else s.banks.scrub[n.val]) ∧
      (∀ a, t.banks.byte a = s.banks.byte a) ∧ (∀ w, t.banks.eccAt w = s.banks.eccAt w) ∧
      (∀ n : BankNo, s.bankOn n = true → s.banks.bist ≠ some n →
        s.banks.eccAt (0x4000 * n.val + s.banks.scrub[n.val]) = some .single →
        (0x4000 * n.val + s.banks.scrub[n.val]) ∈ t.banks.wb) ∧
      (∀ r, Reg.isCount r = false → t.reg r = s.reg r) ∧ t = { s with regs := t.regs, banks := t.banks }) ∧
  (∀ (s : State) (b : BankNo) (w : Nat), s.banks.wb.find? (fun x => inBank b (8 * x)) = some w →
    s.bankOn b = true → Memory.wf s.banks.mem = true →
    ∃ t, exec (.eccWriteback b) s = .next t ∧ t.banks.eccAt w = none ∧ w ∉ t.banks.wb ∧
      (∀ a, t.banks.byte a = s.banks.byte a) ∧ (∀ v, v ≠ w → t.banks.eccAt v = s.banks.eccAt v) ∧
      t = { s with banks := t.banks }) ∧
  (∀ (s : State) (v : Word), (s.deviceAccess 0).admits 0 .bnkBist (v ||| 0x10) →
    let b : BankNo := ⟨bitsOf v 3 0 % 16, by omega⟩
    let u := s.deviceAccess 0
    let fails := fun (e : Byte) => ∃ t, exec (.bankBist v) s = .next t ∧
      s.accessedOnly 0 (fun r => r = .gabFault 0 ∨ r = .gabFaultAddr 0) t ∧ bitsOf (t.reg (.gabFault 0)) 7 0 = e.toNat
    (s.banks.bist ≠ none → fails E_BUSY) ∧
    (s.banks.bist = none → s.cfg.bankOwner b ≠ none ∨ s.cfg.thtBanks.getLsbD b.val = true → fails E_NOT_OWNER) ∧
    (s.banks.bist = none → s.cfg.bankOwner b = none → s.cfg.thtBanks.getLsbD b.val = false →
      (s.bankOn b = false → fails E_RANGE) ∧
      (s.bankOn b = true → ∃ t, exec (.bankBist v) s = .next t ∧ t.banks.bist = some b ∧ t.bitOf .bnkBist 5 = true ∧
        t.fieldOf .bnkBist 3 0 = b.val ∧ (∀ a, bankOf a = b → t.banks.byte a = 0) ∧
        (∀ a, bankOf a = b → t.banks.eccAt (wordOf a) = none) ∧
        (∀ a, bankOf a ≠ b → t.banks.byte a = u.banks.byte a) ∧ u.keeps [.bnkBist] t ∧
        t = { u with regs := t.regs, banks := t.banks }))) ∧
  (∀ (s : State) (b : BankNo) (pass : Bool), s.banks.bist = some b →
    (∀ (g : Gable) (p : Port), (s.session g p).elim true (fun x => x.pending.isNone) = true) →
    ∃ t, exec (.bistDone pass) s = .next t ∧ t.bitOf .bnkBist 5 = false ∧
      t.bitOf .bnkBist 6 = pass ∧ t.bitOf .bnkBist 7 = true ∧ t.fieldOf .bnkBist 4 0 = s.fieldOf .bnkBist 4 0 ∧
      s.keeps [.bnkBist] t ∧ t = { s with regs := t.regs, banks := { s.banks with bist := none } }) ∧
  (∀ (s : State) (g : Gable) (n : Fin 8) (v : Word), (s.deviceAccess g).admits g (.bnkCwin n) v →
    let base := 8 * bitsOf v 17 0
    let len := 8 * bitsOf v 31 18
    ((len = 0 ∨ bankOf base = bankOf (base + len - 1)) → base + len ≤ 0x200000 →
      ∃ t, exec (.cwinWrite g n v) s = .next t ∧ t.reg (.bnkCwin n) = v ∧ s.accessedOnly g (fun r => r = .bnkCwin n) t) ∧
    (0x200000 < base + len ∨ (len ≠ 0 ∧ bankOf base ≠ bankOf (base + len - 1)) →
      ∃ t, exec (.cwinWrite g n v) s = .next t ∧ s.accessedOnly g (fun r => r = .gabFault g ∨ r = .gabFaultAddr g) t ∧
        bitsOf (t.reg (.gabFault g)) 7 0 = E_RANGE.toNat))

/-- R195, R191, R201: a prefetch in transfer that completes brings its line in, clean and unreferenced, for its gable, and
changes no byte that a program sees; its engine takes up one that waits, and without a transfer nothing comes in. LC_OP,
after the core's older stores, cleans, invalidates or does both to the writer's own line, leaves a line of another gable
alone, and records E_WINDOW outside the writer's windows. -/
def Obligations.LinesAreFilledAndOperatedOn : Prop :=
  (∀ s : State, s.cache.transfers.find? (fun x => x.started) = none → exec .lineFill s = .next s) ∧
  (∀ (s : State) (tr : Transfer), s.cache.transfers.find? (fun x => x.started) = some tr →
    (s.cache.holder tr.line ≠ none → exec .lineFill s = .next { s with cache := s.cache.without tr }) ∧
    (s.cache.holder tr.line = none → s.cfg.linesOf tr.gable ≠ [] →
      ∃ t, exec .lineFill s = .next t ∧ t.cache.transfers = (s.cache.without tr).transfers ∧
        (∃ i : Fin 48, i ∈ s.cfg.linesOf tr.gable ∧ (t.cache.lines[i.val]).valid = true ∧
          (t.cache.lines[i.val]).tag = tr.line ∧ (t.cache.lines[i.val]).gable = tr.gable ∧
          (t.cache.lines[i.val]).dirty = false ∧ (t.cache.lines[i.val]).ref = false ∧
          (t.cache.lines[i.val]).pf = true ∧
          ∀ o, o < 32 → BitVec.ofNat 8 ((t.cache.lines[i.val]).data.toNat / 256 ^ o) = s.banks.byte (32 * tr.line + o)) ∧
        (∀ r, Reg.isCount r = false → t.reg r = s.reg r) ∧
        t = { s with regs := t.regs, cache := t.cache, banks := t.banks })) ∧
  (∀ (s : State) (g : Gable) (addr : Word) (op : Fin 3),
    let c : Instr := match op with
      | 0 => .lcClean g addr
      | 1 => .lcInvalidate g addr
      | 2 => .lcCleanInvalidate g addr
    let l := addr.toNat / 32
    let inWindow := s.cfg.may g .r (32 * l) || s.cfg.may g .w (32 * l) || s.cfg.may g .x (32 * l)
    let u := s.deviceAccess g
    u.admits g (.lcOp g) (lcOpWord addr (op.val + 1)) →
    (inWindow = false → ∃ t, exec c s = .next t ∧ s.accessedOnly g (fun r => r = .gabFault g ∨ r = .gabFaultAddr g) t ∧
      bitsOf (t.reg (.gabFault g)) 7 0 = E_WINDOW.toNat) ∧
    (inWindow = true → (∀ i, u.cache.holder l = some i → (u.cache.lines[i.val]).gable ≠ g) → exec c s = .next u) ∧
    (∀ i, inWindow = true → u.cache.holder l = some i → (u.cache.lines[i.val]).gable = g →
      ∃ t, exec c s = .next t ∧
        t.cache = { u.cache with lines := vmod u.cache.lines i (fun x =>
          if op = 0 then { x with dirty := false } else Line.empty) } ∧
        (op = 1 ∨ (u.cache.lines[i.val]).dirty = false → t.banks = u.banks) ∧
        (op ≠ 1 → (u.cache.lines[i.val]).dirty = true → Memory.wf u.banks.mem = true →
          (∀ o, o < 32 → t.banks.byte (32 * l + o) =
            BitVec.ofNat 8 ((u.cache.lines[i.val]).data.toNat / 256 ^ o)) ∧
          (∀ k : Fin 4, (u.cache.lines[i.val]).bad.getLsbD k.val = true →
            t.banks.eccAt (4 * l + k.val) = some .uncorrectable) ∧
          (∀ a, a / 32 ≠ l → t.banks.byte a = u.banks.byte a)) ∧
        t = { u with cache := t.cache, banks := t.banks }))

/-! ## Thatch (spec/12) -/

/-- R222, R223, R225: ALLOC answers E_BUSY, E_RANGE and E_QUOTA in that order, takes the first candidate's head that is
there under quota, with its header, its charge and its handle, and otherwise queues the caller or answers E_EMPTY. R226,
R227: CANCEL ends a wait without an event and a timeout with line 26; a returned buffer goes to its waiter; ACK clears
DONE. -/
def Obligations.AllocationsWaitsAndReturns : Prop :=
  (∀ (s u : State) (g : Gable) (arg v : Word), s.thtAsks g arg (thtOpWord 1 v) u → u.thtAny = true →
    let h := holderOf g
    let cands := u.candidates h arg.toNat
    let fails := fun (e : Byte) => ∃ t, exec (.alloc h arg v) s = .next t ∧
      t.reg (.thtResult g) = BitVec.ofNat 32 e.toNat ∧ u.onlyRegs (fun r => r = .thtResult g) t
    ((u.thatch.waits[h.val]).isSome = true → fails E_BUSY) ∧
    (u.thatch.waits[h.val] = none → arg = 0 ∨ cands = [] → fails E_RANGE) ∧
    (u.thatch.waits[h.val] = none → arg ≠ 0 → cands ≠ [] → (∀ p ∈ cands, u.quotaOf h p ≤ u.chargeOf h p) →
      fails E_QUOTA) ∧
    (u.thatch.waits[h.val] = none → arg ≠ 0 → (∃ p ∈ cands, u.chargeOf h p < u.quotaOf h p) →
      (∀ p ∈ cands, u.chargeOf h p < u.quotaOf h p → u.thatch.head[p.val] = none) →
      (v.getLsbD 3 = false → fails E_EMPTY) ∧
      (v.getLsbD 3 = true → ∃ t, exec (.alloc h arg v) s = .next t ∧ t.reg (.thtResult g) = 0x100 ∧
        t.reg (.thtWait g) = 1 ∧ u.keeps [.thtResult g, .thtWait g] t ∧
        t.thatch.waits[h.val] = some {
          age := u.thatch.waitSeq, bytes := arg.toNat
          left := if bitsOf v 15 8 = 0 then 1000 * u.fieldOf .thtCfg 15 8 else 100 * bitsOf v 15 8 } ∧
        t = { u with regs := t.regs, thatch := { u.thatch with
          waits := t.thatch.waits, waitSeq := u.thatch.waitSeq + 1 } })) ∧
    (∀ p a, u.thatch.waits[h.val] = none → arg ≠ 0 →
      cands.find? (fun q => u.room h q && (u.thatch.head[q.val]).isSome) = some p → u.thatch.head[p.val] = some a →
      a % 8 = 0 → u.cache.holder (a / 32) = none → Memory.wf u.banks.mem = true →
      ∃ t, exec (.alloc h arg v) s = .next t ∧ t.reg (.thtResult g) = BitVec.ofNat 32 (0x1000000 * p.val) ∧
        t.reg (.thtHandle g) = BitVec.ofNat 32 a ∧ t.headerIs a (if u.poolOwned p then 0 else 1) p h.val 0xA5 ∧
        t.chargeOf h p = u.chargeOf h p + 1 ∧ (∀ k q, (k, q) ≠ (h, p) → t.chargeOf k q = u.chargeOf k q) ∧
        t.thatch.head[p.val] = (if u.bytesAt a 4 = 0xFFFFFFFF then none else some (u.bytesAt a 4)) ∧
        (∀ q, q ≠ p → t.thatch.head[q.val] = u.thatch.head[q.val]) ∧ t.thatch.waits = u.thatch.waits ∧
        u.onlyHeader a [.thtResult g, .thtHandle g] t)) ∧
  (∀ (s : State) (g : Gable), let u := s.deviceAccess g
    u.admits g (.thtOp g) (thtOpWord 5 0) → u.thtAny = true →
    (u.thatch.waits[(holderOf g).val] = none → exec (.cancel (holderOf g)) s = .next u) ∧
    ((u.thatch.waits[(holderOf g).val]).isSome = true → ∃ t, exec (.cancel (holderOf g)) s = .next t ∧
      t.reg (.thtWait g) = BitVec.ofNat 32 (2 + 0x100 * E_EMPTY.toNat) ∧ u.keeps [.thtWait g] t ∧
      t = { u with regs := t.regs, thatch := { u.thatch with waits := vset u.thatch.waits (holderOf g) none } })) ∧
  (∀ (s : State) (g : Gable) (w : ThtWait), s.domOn dPOOL = true → s.thatch.waits[(holderOf g).val] = some w →
    (w.left ≠ 0 → exec (.thatchWaitTimeout (holderOf g)) s = .next s) ∧
    (w.left = 0 → ∃ t, exec (.thatchWaitTimeout (holderOf g)) s = .next t ∧
      t.reg (.thtWait g) = BitVec.ofNat 32 (2 + 0x100 * E_TIMEOUT.toNat) ∧ s.told g 26 t ∧ s.tells [.thtWait g] t ∧
      t = { s with
        regs := t.regs, power := Power.requests s.power t.power
        thatch := { s.thatch with waits := vset s.thatch.waits (holderOf g) none } })) ∧
  (∀ (s : State) (g : Gable), (s.deviceAccess g).admits g (.thtWait g) (bitMask 31) →
    ∃ t, exec (.waitAck g) s = .next t ∧ s.accessedOnly g (fun r => r = .thtWait g) t ∧
      t.reg (.thtWait g) = if s.fieldOf (.thtWait g) 1 0 = 2 then 0 else s.reg (.thtWait g)) ∧
  (∀ (s u : State) (g x : Gable) (a : Nat) (w : ThtWait) (p : Fin 4) (hd : Header),
    s.thtAsks g (BitVec.ofNat 32 a) (thtOpWord 2 0) u → a < 2 ^ 32 → a % 8 = 0 → u.cache.holder (a / 32) = none →
    Memory.wf u.banks.mem = true → (∀ n, u.thatch.head[p.val] = some n → n < 0xFFFFFFFF) →
    u.checkHandle (holderOf g) a .free = (none, p, hd, (u.readHeader a).2) →
    u.poolOwned p = true ∨ hd.low % 256 ≤ 1 → hd.holder < 9 → hd.holder ≠ x.val →
    u.thatch.waits[x.val] = some w → (∀ y : Holder, y ≠ holderOf x → u.thatch.waits[y.val] = none) →
    p ∈ u.candidates (holderOf x) w.bytes → u.chargeOf (holderOf x) p < u.quotaOf (holderOf x) p →
    ∃ t, exec (.free (holderOf g) (BitVec.ofNat 32 a)) s = .next t ∧ t.reg (.thtResult g) = BitVec.ofNat 32 (0x1000000 * p.val) ∧
      t.reg (.thtWait x) = BitVec.ofNat 32 (2 + 0x10000 * p.val) ∧ t.reg (.thtWaitHandle x) = BitVec.ofNat 32 a ∧
      u.told x 26 t ∧ t.thatch.waits = Vector.replicate 9 none ∧ t.thatch.head = u.thatch.head ∧
      t.headerIs a (if u.poolOwned p then 0 else 1) p x.val 0xA5 ∧
      t.chargeOf (holderOf x) p = u.chargeOf (holderOf x) p + 1 ∧
      t.chargeOf ⟨hd.holder % 9, by omega⟩ p = u.chargeOf ⟨hd.holder % 9, by omega⟩ p - 1)

/-- R224, R225, R226, R229, R231: FREE, RETAIN, TRANSFER and a THT_SEL write make the checks of R224 in order; a failure
is counted in THT_MISUSE and changes nothing; a success changes the header and the charges. The aperture reaches the
selected buffer's payload, raises ALIGN for an access that is not naturally aligned and DLOST while POOL cannot be reached
(an access given as a row raises it where its gable holds the core, log 1), and a snapshot shows each pool's counts. -/
def Obligations.BuffersAreFreedSharedAndReached : Prop :=
  (∀ (s : State) (h : Holder) (a : Nat) (op : BufOp), let hd := (s.readHeader a).1
    (s.checkHandle h a op).1 =
      match s.poolOf a with
      | none => some E_RANGE
      | some p =>
        if (a - s.poolBase p) % s.poolSize p ≠ 0 then some E_ALIGN
        else if s.quotaOf h p = 0 then some E_NOT_OWNER
        else if hd.bad = true ∨ hd.guard ≠ 0x5A1F ∨ hd.pool ≠ p.val ∨ hd.high ≠ 0 then some E_RANGE
        else if (op = .retain ∧ s.poolOwned p = true) ∨ (∃ t, op = .transfer t ∧ s.poolOwned p = false) then some E_RANGE
        else if hd.st ≠ 0xA5 then some E_FREE_TWICE
        else if s.poolOwned p = true ∧ hd.holder ≠ h.val then some E_NOT_OWNER
        else if op = .retain ∧ hd.low % 256 = 255 then some E_RANGE
        else if ∃ t, op = .transfer t ∧ t ≠ h ∧ s.quotaOf t p ≤ s.chargeOf t p then some E_QUOTA else none) ∧
  (∀ (s u : State) (g : Gable) (a : Nat) (op : Fin 3) (tgt : Gable), a < 2 ^ 32 →
    let h := holderOf g
    let arg := BitVec.ofNat 32 a
    let v : Word := BitVec.ofNat 32 (16 * tgt.val)
    let c : Instr := match op with
      | 0 => .free h arg
      | 1 => .retain h arg
      | 2 => .transfer h arg v
    let b : BufOp := match op with
      | 0 => .free
      | 1 => .retain
      | 2 => .transfer (holderOf tgt)
    s.thtAsks g arg (thtOpWord (op.val + 2) (if op = 2 then v else 0)) u → a % 8 = 0 → u.cache.holder (a / 32) = none →
    Memory.wf u.banks.mem = true →
    (∀ e, (u.checkHandle h a b).1 = some e → (u.descOf g).strict = false → ∃ t, exec c s = .next t ∧
      t.reg (.thtResult g) = BitVec.ofNat 32 e.toNat ∧
      (t.reg (.thtMisuse g)).toNat = min ((u.reg (.thtMisuse g)).toNat + (if e = E_QUOTA then 0 else 1)) 0xFFFFFFFF ∧
      t.thatch.head = u.thatch.head ∧ t.thatch.charge = u.thatch.charge ∧ t.thatch.waits = u.thatch.waits ∧
      (∀ x, t.banks.byte x = u.banks.byte x) ∧ u.onlyHeader a [.thtResult g, .thtMisuse g] t) ∧
    (∀ (p : Fin 4) (hd : Header), u.checkHandle h a b = (none, p, hd, (u.readHeader a).2) →
      u.thatch.waits = Vector.replicate 9 none → hd.holder < 9 →
      (op = 0 → u.poolOwned p = true ∨ hd.low % 256 ≤ 1 → ∃ t, exec c s = .next t ∧
        t.reg (.thtResult g) = BitVec.ofNat 32 (0x1000000 * p.val) ∧ t.thatch.head[p.val] = some a ∧
        t.headerIs a ((u.thatch.head[p.val]).getD 0xFFFFFFFF) p 0xF 0xF0 ∧
        t.chargeOf ⟨hd.holder % 9, by omega⟩ p = u.chargeOf ⟨hd.holder % 9, by omega⟩ p - 1 ∧
        u.onlyHeader a [.thtResult g] t) ∧
      (op = 0 → u.poolOwned p = false → 1 < hd.low % 256 → ∃ t, exec c s = .next t ∧
        t.reg (.thtResult g) = BitVec.ofNat 32 (0x10000 * (hd.low % 256 - 1) + 0x1000000 * p.val) ∧
        t.headerIs a (hd.low % 256 - 1) p hd.holder 0xA5 ∧ t.thatch = u.thatch ∧
        u.onlyHeader a [.thtResult g] t) ∧
      (op = 1 → ∃ t, exec c s = .next t ∧
        t.reg (.thtResult g) = BitVec.ofNat 32 (0x10000 * (hd.low % 256 + 1) + 0x1000000 * p.val) ∧
        t.headerIs a (hd.low % 256 + 1) p hd.holder 0xA5 ∧ t.thatch = u.thatch ∧
        u.onlyHeader a [.thtResult g] t) ∧
      (op = 2 → tgt = g → ∃ t, exec c s = .next t ∧ t.reg (.thtResult g) = BitVec.ofNat 32 (0x1000000 * p.val) ∧
        t.thatch = u.thatch ∧ (∀ x, t.banks.byte x = u.banks.byte x) ∧
        u.onlyHeader a [.thtResult g] t) ∧
      (op = 2 → tgt ≠ g → ∃ t, exec c s = .next t ∧ t.reg (.thtResult g) = BitVec.ofNat 32 (0x1000000 * p.val) ∧
        t.headerIs a 0 p tgt.val 0xA5 ∧ t.chargeOf h p = u.chargeOf h p - 1 ∧
        t.chargeOf (holderOf tgt) p = u.chargeOf (holderOf tgt) p + 1 ∧ t.thatch.head = u.thatch.head ∧
        u.onlyHeader a [.thtResult g] t))) ∧
  (∀ (s : State) (g : Gable) (v : Word), let u := s.deviceAccess g
    u.admits g (.thtSel g) v → u.cache.holder (v.toNat / 32) = none →
    ((u.checkHandle (holderOf g) v.toNat .select).1 = none →
      ∃ t, exec (.thtSelWrite g v) s = .next t ∧ t.reg (.thtSel g) = v ∧ t.thatch = u.thatch ∧
        (∀ x, t.banks.byte x = u.banks.byte x) ∧ u.onlyHeader v.toNat [.thtSel g] t) ∧
    (∀ e, (u.checkHandle (holderOf g) v.toNat .select).1 = some e → (u.descOf g).strict = false →
      ∃ t, exec (.thtSelWrite g v) s = .next t ∧ t.reg (.thtSel g) = u.reg (.thtSel g) ∧
        (t.reg (.thtMisuse g)).toNat = min ((u.reg (.thtMisuse g)).toNat + 1) 0xFFFFFFFF ∧
        (∀ x, t.banks.byte x = u.banks.byte x) ∧ u.onlyHeader v.toNat [.thtMisuse g] t)) ∧
  (∀ (s : State) (g : Gable) (off : BitVec 12) (size : Size) (v : Word) (p : Fin 4),
    let u := s.deviceAccess g
    let a := (u.reg (.thtSel g)).toNat
    let n := sizeBytes size
    u.up = true → u.reachable .pool = true → off.toNat % n = 0 → a % 8 = 0 → Memory.wf u.banks.mem = true →
    u.cache.holder (a / 32) = none → u.cache.holder ((a + 8 + off.toNat) / 32) = none →
    (u.checkHandle (holderOf g) a .select).1 = none → u.poolOf a = some p →
    (off.toNat + n ≤ u.poolPayload p →
      (u.banks.eccAt (wordOf (a + 8 + off.toNat)) ≠ some .uncorrectable →
        ∃ t, exec (.apertureAccess g off size .load) s = .next t ∧
        t.rdata = BitVec.ofNat 32 (u.bytesAt (a + 8 + off.toNat) n) ∧
        (∀ r, Reg.isCount r = false → t.reg r = u.reg r) ∧ (∀ x, t.banks.byte x = u.banks.byte x) ∧
        t = { u with regs := t.regs, banks := t.banks, rdata := t.rdata }) ∧
      (∃ t, exec (.apertureAccess g off size (.store v)) s = .next t ∧
        t.bytesAt (a + 8 + off.toNat) n = v.toNat % 256 ^ n ∧
        (∀ x, x < a + 8 + off.toNat ∨ a + 8 + off.toNat + n ≤ x → t.banks.byte x = u.banks.byte x) ∧
        (∀ r, Reg.isCount r = false → t.reg r = u.reg r) ∧ t = { u with regs := t.regs, banks := t.banks })) ∧
    (u.poolPayload p < off.toNat + n →
      ∃ t, exec (.apertureAccess g off size .load) s = .next t ∧ t.rdata = 0 ∧
        bitsOf (t.reg (.gabFault g)) 7 0 = E_RANGE.toNat ∧ (∀ x, t.banks.byte x = u.banks.byte x))) ∧
  (∀ (s : State) (g : Gable) (off : BitVec 12) (size : Size) (acc : Access), s.up = true →
    let n := sizeBytes size
    let c := Instr.apertureAccess g off size acc
    let traps := fun (vec : Nat) (code : Byte) => s.coreRuns = true → s.core.running = some g →
      s.bitOf (.gabTstat g) 0 = false →
      ∃ t, exec c s = .next t ∧ s.drain.entersTrap g vec code 0 (BitVec.ofNat 32 (0x40068000 + off.toNat)) t
    (off.toNat % n ≠ 0 → traps 5 E_ALIGN) ∧
    (off.toNat % n = 0 → s.reachable .pool = false → traps 7 E_DLOST) ∧
    (off.toNat % n ≠ 0 ∨ s.reachable .pool = false → s.core.running ≠ some g → exec c s = .next s)) ∧
  (∀ s : State, let u := s.deviceAccess 0
    u.admits 0 .thtStatCtl 1 →
    ∃ t, exec .thatchSnapshot s = .next t ∧
      (∀ p : Fin 4, t.reg (.thtStat0 p) = (if u.poolValid p then
          BitVec.ofNat 32 (u.poolCount p - u.allocated p + 0x10000 * u.allocated p) else 0) ∧
        t.reg (.thtStat1 p) = BitVec.ofNat 32 (0x10000 * u.waiters p + 0x1000000 * u.thatch.bad[p.val])) ∧
      u.onlyRegs (fun r => ∃ p : Fin 4, r = .thtStat0 p ∨ r = .thtStat1 p) t) ∧
  (∀ (s : State) (a : Nat) (tgt : Gable) (p : Fin 4) (hd : Header), a < 2 ^ 32 → s.up = true → s.domOn dPOOL = true →
    a % 8 = 0 → s.cache.holder (a / 32) = none → Memory.wf s.banks.mem = true → s.poolOwned p = true → hd.holder = 8 →
    (s.checkHandle 8 a .free = (none, p, hd, (s.readHeader a).2) → s.thatch.waits = Vector.replicate 9 none →
      ∃ t, exec (.free 8 (BitVec.ofNat 32 a)) s = .next t ∧ t.thatch.head[p.val] = some a ∧
        t.headerIs a ((s.thatch.head[p.val]).getD 0xFFFFFFFF) p 0xF 0xF0 ∧ t.chargeOf 8 p = s.chargeOf 8 p - 1 ∧
        s.onlyHeader a [] t) ∧
    (s.checkHandle 8 a (.transfer (holderOf tgt)) = (none, p, hd, (s.readHeader a).2) →
      s.thatch.waits = Vector.replicate 9 none →
      ∃ t, exec (.transfer 8 (BitVec.ofNat 32 a) (BitVec.ofNat 32 (16 * tgt.val))) s = .next t ∧
        t.headerIs a 0 p tgt.val 0xA5 ∧ t.chargeOf 8 p = s.chargeOf 8 p - 1 ∧
        t.chargeOf (holderOf tgt) p = s.chargeOf (holderOf tgt) p + 1 ∧ s.onlyHeader a [] t)) ∧
  (∀ s : State, s.up = true → s.domOn dPOOL = true →
    exec (.cancel 8) s = .next { s with thatch := { s.thatch with waits := vset s.thatch.waits 8 none } })

/-! ## Burin (spec/13) -/

/-- R237 to R241, R243: a word drives its pins, holds for its delay or waits for its condition, samples, and goes on as
NXT says; a SYNC word parks the engine, holds it for a commit or at the permit gate, or lets it go on; a pull waits for
the TX FIFO and a push for the RX FIFO, with the pins as they were before the word; shifts, X, CRC and events act as the
word's fields say; a park that is not met in time takes the engine where it stands. -/
def Obligations.BurinWordsRunInTheirPhases : Prop :=
  (∀ (s : State) (n : EngineNo) (pins : Byte), s.engineUp n → s.assistUnasked → (s.engine n).phase = .start →
    (s.engine n).st = .running → burPlain (s.burWordOf n) →
    let w := s.burWordOf n
    (burNxt w ≠ 8 → burNxt w ≠ 6 → burDelay w = 0 →
      ∃ t, exec (.burinWord n pins) s = .next t ∧ s.burFollows n false t ∧ s.burPins n w (t.engine n) ∧
        (t.engine n).sampled = pins &&& s.mappedSlots n ∧
        (burNxt w ≠ 4 → burNxt w ≠ 5 → s.onlyEngine n t ∧ (burNxt w ≠ 7 → (s.engine n).sameData (t.engine n)))) ∧
    (burNxt w ≠ 8 → burNxt w ≠ 6 → burDelay w ≠ 0 →
      ∃ t, exec (.burinWord n pins) s = .next t ∧ s.burPins n w (t.engine n) ∧ s.onlyEngine n t ∧
        (t.engine n).phase = .hold (burDelay w) ∧ (t.engine n).pc = (s.engine n).pc ∧ (t.engine n).st = .running ∧
        (s.engine n).sameData (t.engine n)) ∧
    (burNxt w = 6 → ∃ t, exec (.burinWord n pins) s = .next t ∧ s.burPins n w (t.engine n) ∧ s.onlyEngine n t ∧
        (t.engine n).st = .waitWord ∧ (t.engine n).pc = (s.engine n).pc ∧
        (t.engine n).phase = .wait (if burDelay w = 0 then none else some (burDelay w)) ∧
        (s.engine n).sameData (t.engine n)) ∧
    (burNxt w = 8 → ∃ t, exec (.burinWord n pins) s = .next t ∧ s.onlyEngine n t ∧ (t.engine n).synced = true ∧
      (if (s.engine n).parkReq then (t.engine n).st = .parked ∧ (t.engine n).parkReq = false ∧ (t.engine n).pc = (s.engine n).pc
       else if s.burCommitState = 2 ∧ 512 ≤ (s.engine n).pc.toNat then
        (t.engine n).st = .commitHold ∧ (t.engine n).pc = (s.engine n).pc
       else if s.bitOf (.burCfg n) 27 = true ∧ s.bitOf .gutStat 1 = false then
        (t.engine n).st = .permitGate ∧ (t.engine n).pc = (s.engine n).pc
       else burDelay w = 0 → s.burFollows n false t ∧ s.burPins n w (t.engine n)))) ∧
  (∀ (s : State) (n : EngineNo) (pins : Byte) (d : Nat), s.engineUp n → s.assistUnasked → (s.engine n).phase = .hold d →
    (s.engine n).st = .running → burPlain (s.burWordOf n) → burNxt (s.burWordOf n) ≠ 4 → burNxt (s.burWordOf n) ≠ 5 →
    ∃ t, exec (.burinDelayExpiry n pins) s = .next t ∧ s.burFollows n false t ∧ s.onlyEngine n t ∧
      (t.engine n).sampled = pins &&& s.mappedSlots n ∧ (t.engine n).pinOut = (s.engine n).pinOut) ∧
  (∀ (s : State) (n : EngineNo) (pins : Byte), s.engineUp n → s.assistUnasked → (s.engine n).st = .waitWord →
    burPlain (s.burWordOf n) → burNxt (s.burWordOf n) = 6 →
    (∃ t, exec (.burinWaitCondition n pins) s = .next t ∧ s.onlyEngine n t ∧
      (t.engine n).sampled = pins &&& s.mappedSlots n ∧ (s.engine n).sameData (t.engine n) ∧
      (t.burCondition n (s.burWordOf n) = true → s.burFollows n false t) ∧
      (t.burCondition n (s.burWordOf n) = false → t.engine n = { s.engine n with sampled := (t.engine n).sampled })) ∧
    (burDelay (s.burWordOf n) ≠ 0 → ∃ t, exec (.burinWaitTimeout n pins) s = .next t ∧ s.burFollows n true t ∧
      s.onlyEngine n t) ∧
    (burDelay (s.burWordOf n) = 0 → exec (.burinWaitTimeout n pins) s = .next s)) ∧
  (∀ (s : State) (n : EngineNo) (pins : Byte), s.engineUp n → s.assistUnasked → (s.engine n).phase = .start → (s.engine n).st = .running →
    burNxt (s.burWordOf n) = 0 → burDelay (s.burWordOf n) = 0 →
    let w := s.burWordOf n
    let e := s.engine n
    let inc := BitVec.ofNat 10 (e.pc.toNat + 1)
    (burTxOp w = 1 ∨ burTxOp w = 2 → e.txf = [] → ∃ t, exec (.burinWord n pins) s = .next t ∧ s.onlyEngine n t ∧
      (t.engine n).st = .fifoWait ∧ (t.engine n).phase = .pull ∧ (t.engine n).pc = e.pc) ∧
    (burSmode w = 0 → burShift w = 0 → burFifop w = 4 → burCrcop w % 4 = 0 → burEvt w = 0 →
      (e.rxf.length < 16 → ∃ t, exec (.burinWord n pins) s = .next t ∧ s.onlyEngine n t ∧ (t.engine n).pc = inc ∧
        (t.engine n).rxf = e.rxf ++ [if s.bitOf (.burCfg n) 16 then e.shifter >>> (32 - s.burIbits n)
          else e.shifter &&& BitVec.ofNat 32 (2 ^ s.burIbits n - 1)] ∧ (t.engine n).bitsIn = 0) ∧
      (16 ≤ e.rxf.length → ∃ t, exec (.burinWord n pins) s = .next t ∧ s.onlyEngine n t ∧
        (t.engine n).st = .fifoWait ∧ (t.engine n).phase = .push false ∧ (t.engine n).rxf = e.rxf ∧
        (t.engine n).pinOut = e.pinOut ∧ (t.engine n).pinOe = e.pinOe ∧ s.burPins n w (t.engine n).swapPins)) ∧
    (burSmode w = 1 → burShift w ≤ e.bitsOut.toNat → burFifop w = 0 → burCrcop w % 4 = 0 → burEvt w = 0 →
      s.bitOf (.burCfg n) 16 = false → ∃ t, exec (.burinWord n pins) s = .next t ∧ s.onlyEngine n t ∧
        (t.engine n).pc = inc ∧ (t.engine n).shifter = e.shifter <<< burShift w ∧
        (t.engine n).bitsOut.toNat = e.bitsOut.toNat - burShift w) ∧
    (∀ j : Fin 8, burSmode w = 2 → burShift w = 1 → burSample w = 2 ^ j.val → burFifop w = 0 → burCrcop w % 4 = 0 →
      burEvt w = 0 → s.bitOf (.burCfg n) 16 = false → ∃ t, exec (.burinWord n pins) s = .next t ∧ s.onlyEngine n t ∧
        (t.engine n).pc = inc ∧
        (t.engine n).shifter = (e.shifter <<< 1) ||| (if pins.getLsbD j.val && s.slotMapped n j.val then 1 else 0) ∧
        (t.engine n).bitsIn.toNat = (if e.bitsIn.toNat < 32 then e.bitsIn.toNat + 1 else 32)) ∧
    (burSmode w = 0 → burShift w = 0 → burCrcop w % 4 = 1 → burEvt w = 0 →
      (burFifop w = 16 → ∃ t, exec (.burinWord n pins) s = .next t ∧ s.onlyEngine n t ∧ (t.engine n).pc = inc ∧
        (t.engine n).x = (if e.x = 0 then 0 else e.x - 1) ∧
        (t.engine n).crc = BitVec.ofNat 32 ((s.reg (.burCrcInit n)).toNat % 2 ^ s.crcWidth n)) ∧
      (burFifop w = 32 → ∃ t, exec (.burinWord n pins) s = .next t ∧ s.onlyEngine n t ∧ (t.engine n).pc = inc ∧
        (t.engine n).x = BitVec.ofNat 16 (burCmpv w))) ∧
    (∀ g, burSmode w = 0 → burShift w = 0 → burFifop w = 0 → burCrcop w % 4 = 0 → 1 ≤ burEvt w → burEvt w < 32 →
      s.cfg.engineOwner n = some g → ∃ t, exec (.burinWord n pins) s = .next t ∧ (t.engine n).pc = inc ∧
        t.bitOf (.burFlag n) (burEvt w) = true ∧ s.told g (22 + n.val) t ∧ s.tells [.burFlag n] t)) ∧
  (∀ (s : State) (n : EngineNo) (pins : Byte), s.engineUp n → s.assistUnasked → (s.engine n).st = .fifoWait →
    burNxt (s.burWordOf n) = 0 → burDelay (s.burWordOf n) = 0 → burSmode (s.burWordOf n) = 0 →
    burShift (s.burWordOf n) = 0 → burCrcop (s.burWordOf n) % 4 = 0 → burEvt (s.burWordOf n) = 0 →
    let e := s.engine n
    let inc := BitVec.ofNat 10 (e.pc.toNat + 1)
    (∀ v rest, e.phase = .pull → e.txf = v :: rest →
      (burFifop (s.burWordOf n) = 1 → ∃ t, exec (.burinFifoWaitEnd n pins) s = .next t ∧ s.onlyEngine n t ∧
        (t.engine n).pc = inc ∧ (t.engine n).st = .running ∧ (t.engine n).txf = rest ∧
        (t.engine n).bitsOut = BitVec.ofNat 6 (s.burObits n) ∧
        (t.engine n).shifter = (if s.bitOf (.burCfg n) 16 then v else v <<< (32 - s.burObits n))) ∧
      (burFifop (s.burWordOf n) = 2 → ∃ t, exec (.burinFifoWaitEnd n pins) s = .next t ∧ s.onlyEngine n t ∧
        (t.engine n).pc = inc ∧ (t.engine n).txf = rest ∧ (t.engine n).x = v.setWidth 16)) ∧
    (e.phase = .push false → e.autoPushed = true → burFifop (s.burWordOf n) = 8 → e.rxf.length < 16 →
      ∃ t, exec (.burinFifoWaitEnd n pins) s = .next t ∧ s.onlyEngine n t ∧ (t.engine n).pc = inc ∧
        (t.engine n).rxf = e.rxf ++ [e.crc] ∧ (t.engine n).bitsIn = e.bitsIn ∧
        (t.engine n).pinOut = e.keptOut ∧ (t.engine n).pinOe = e.keptOe)) ∧
  (∀ (s : State) (n : EngineNo), ∃ t, exec (.burinParkTimeout n) s = .next t ∧ s.onlyEngine n t ∧
    t.engine n = (if (s.engine n).parkReq then
      { s.engine n with before := (s.engine n).st, st := .parked, parkReq := false } else s.engine n))

/-- R244 to R247: a START makes its checks in order and runs the engine from its word; HALT stops it; flushes empty the
FIFOs of a halted engine and are refused else; SWF_SET and SWF_CLR set and clear its flag. A commit is checked, exchanges
the banks when every engine in the customer region yields (an engine that waits there for its permit holds for it), is
rejected, or is aborted at its timeout, all while BUR is ON. -/
def Obligations.BurinEnginesStartHaltAndTakeCommits : Prop :=
  (∀ (s : State) (g : Gable) (n : EngineNo) (v : Word), let u := s.deviceAccess g
    u.admits g (.burCtl n) (v ||| 1) → bitsOf v 5 1 = 0 →
    let addr := bitsOf v 25 16
    let fails := fun (e : Byte) => ∃ t, exec (.burinStart g n v) s = .next t ∧
      s.accessedOnly g (fun r => r = .gabFault g ∨ r = .gabFaultAddr g) t ∧ bitsOf (t.reg (.gabFault g)) 7 0 = e.toNat
    ((s.engine n).st ≠ .halted → fails E_BUSY) ∧
    ((s.engine n).st = .halted → addr < 512 → addr ∉ [0, 128, 192, 320, 448] → fails E_RANGE) ∧
    ((s.engine n).st = .halted → 512 ≤ addr → s.burCommitState = 1 ∨ s.burCommitState = 2 → fails E_LOCKED) ∧
    ((s.engine n).st = .halted → (addr < 512 ∧ addr ∈ [0, 128, 192, 320, 448]) ∨
        (512 ≤ addr ∧ s.burCommitState ≠ 1 ∧ s.burCommitState ≠ 2) →
      ∃ t, exec (.burinStart g n v) s = .next t ∧ u.onlyEngine n t ∧
        t.engine n = { s.engine n with
          st := .running, phase := .start, pc := BitVec.ofNat 10 addr, stack := [], bitsOut := 0, bitsIn := 0
          parkReq := false })) ∧
  (∀ (s : State) (g : Gable) (n : EngineNo), let u := s.deviceAccess g
    (u.admits g (.burCtl n) 2 → ∃ t, exec (.burinHalt g n) s = .next t ∧ u.onlyEngine n t ∧
      t.engine n = { s.engine n with st := .halted, phase := .start, parkReq := false }) ∧
    (u.admits g (.burCtl n) 4 → (s.engine n).st = .halted → ∃ t, exec (.flushTx g n) s = .next t ∧ u.onlyEngine n t ∧
      t.engine n = { s.engine n with txf := [] }) ∧
    (u.admits g (.burCtl n) 8 → (s.engine n).st = .halted → ∃ t, exec (.flushRx g n) s = .next t ∧ u.onlyEngine n t ∧
      t.engine n = { s.engine n with rxf := [] }) ∧
    (∀ c, (c = .flushTx g n ∧ u.admits g (.burCtl n) 4) ∨ (c = .flushRx g n ∧ u.admits g (.burCtl n) 8) →
      (s.engine n).st ≠ .halted → ∃ t, exec c s = .next t ∧
        s.accessedOnly g (fun r => r = .gabFault g ∨ r = .gabFaultAddr g) t ∧
        bitsOf (t.reg (.gabFault g)) 7 0 = E_BUSY.toNat) ∧
    (u.admits g (.burCtl n) 16 → ∃ t, exec (.swfSet g n) s = .next t ∧ u.onlyEngine n t ∧
      t.engine n = { s.engine n with swf := true }) ∧
    (u.admits g (.burCtl n) 32 → ∃ t, exec (.swfClr g n) s = .next t ∧ u.onlyEngine n t ∧
      t.engine n = { s.engine n with swf := false })) ∧
  (∀ (s : State) (v : Word), (s.deviceAccess 0).admits 0 .burCommit (v ||| 1) →
    ∃ t, exec (.burinCommit v) s = .next t ∧ s.accessedOnly 0 (fun r => r = .burCommit) t ∧
      t.fieldOf .burCommit 31 24 = bitsOf v 31 24 ∧
      t.burCommitState = (if s.burCommitState = 1 ∨ s.burCommitState = 2 then s.burCommitState else 1)) ∧
  (∀ s : State, s.domOn dBUR = false → exec .burinCommitChecked s = .next s ∧ exec .burinCommitExchange s = .next s ∧
    exec .burinCommitTimeout s = .next s) ∧
  (∀ s : State, s.domOn dBUR = true → s.burCommitState = 1 →
    (burFirstBad s.burin.staging 512 512 = none → ∃ t, exec .burinCommitChecked s = .next t ∧ t.burCommitState = 2 ∧
      (∀ n : EngineNo, t.engine n = (if (s.engine n).st = .permitGate ∧ 512 ≤ (s.engine n).pc.toNat then
        { s.engine n with st := .commitHold } else s.engine n)) ∧ s.keeps [.burCommit] t ∧
      t = { s with regs := t.regs, burin := { s.burin with commitAt := s.now, eng := t.burin.eng } }) ∧
    (∀ a c, burFirstBad s.burin.staging 512 512 = some (a, c) → ∃ t, exec .burinCommitChecked s = .next t ∧
      t.burCommitState = 4 ∧ t.reg .burCommitStat = BitVec.ofNat 32 (a + 0x400 * c) ∧
      t.reg .burEvt = s.reg .burEvt ||| 2 ∧
      s.onlyRegs (fun r => r = .burCommit ∨ r = .burCommitStat ∨ r = .burEvt) t)) ∧
  (∀ s : State, s.domOn dBUR = true → s.burCommitState = 2 →
    let released := fun (t : State) => ∀ n : EngineNo, t.engine n =
      (if (s.engine n).st = .commitHold then { s.engine n with st := .running } else s.engine n)
    ((∀ n : EngineNo, (s.engine n).st = .halted ∨ (s.engine n).pc.toNat < 512 ∨ (s.engine n).st = .commitHold ∨
        ((s.engine n).st = .parked ∧ (s.engine n).phase = .start ∧ burNxt (s.burWordOf n) = 8)) →
      ∃ t, exec .burinCommitExchange s = .next t ∧ t.burin.live = s.burin.staging ∧ t.burin.staging = s.burin.live ∧
        t.burin.vendor = s.burin.vendor ∧ t.reg .burCustId = burDigest s.burin.staging ∧ t.burCommitState = 3 ∧
        t.reg .burEvt = s.reg .burEvt ||| 1 ∧ released t ∧ s.keeps [.burCustId, .burCommit, .burEvt] t ∧
        t = { s with regs := t.regs, burin := t.burin }) ∧
    ((∃ n : EngineNo, (s.engine n).st ≠ .halted ∧ 512 ≤ (s.engine n).pc.toNat ∧ (s.engine n).st ≠ .commitHold ∧
        (s.engine n).st ≠ .parked) → exec .burinCommitExchange s = .next s) ∧
    (s.now < s.burin.commitAt + 1000 * s.fieldOf .burCommit 31 24 → exec .burinCommitTimeout s = .next s) ∧
    (s.burin.commitAt + 1000 * s.fieldOf .burCommit 31 24 ≤ s.now →
      ∃ t, exec .burinCommitTimeout s = .next t ∧ t.burCommitState = 5 ∧ t.reg .burEvt = s.reg .burEvt ||| 4 ∧
      t.burin.live = s.burin.live ∧ t.burin.staging = s.burin.staging ∧ released t ∧ s.keeps [.burCommit, .burEvt] t ∧
      t = { s with regs := t.regs, burin := t.burin }))

/-- R249, R250: a firmware write reaches the TX FIFO, or sets TX_OVF at a full one; a read takes the oldest RX word, or
sets RX_UNF at an empty one; both are refused with E_BUSY while a channel has the FIFO. A DMA access moves one word and
its channel on, and ends it on count, and waits for a bank under test (R183); a channel ends with ERR and the lowest code
that its address meets (spec/00 R13). -/
def Obligations.BurinFifosAndDma : Prop :=
  (∀ (s : State) (g : Gable) (n : EngineNo) (v : Word), let u := s.deviceAccess g
    u.admits g (.burTxf n) v →
    (s.bitOf (.burDmaCtl n) 0 = true → ∃ t, exec (.burTxfWrite g n v) s = .next t ∧
      u.onlyRegs (fun r => r = .gabFault g ∨ r = .gabFaultAddr g) t ∧ bitsOf (t.reg (.gabFault g)) 7 0 = E_BUSY.toNat) ∧
    (s.bitOf (.burDmaCtl n) 0 = false →
      (16 ≤ (s.engine n).txf.length → ∃ t, exec (.burTxfWrite g n v) s = .next t ∧
        u.onlyRegs (fun r => r = .burFifo n) t ∧ t.reg (.burFifo n) = s.reg (.burFifo n) ||| 0x10000) ∧
      ((s.engine n).txf.length < 16 → ∃ t, exec (.burTxfWrite g n v) s = .next t ∧ u.onlyEngine n t ∧
        t.engine n = { s.engine n with txf := (s.engine n).txf ++ [v] }))) ∧
  (∀ (s : State) (g : Gable) (n : EngineNo), let u := s.deviceAccess g
    s.up = true → s.reachable .bur = true → s.cfg.engineOwner n = some g →
    (s.bitOf (.burDmaCtl n) 1 = true → ∃ t, exec (.burRxfRead g n) s = .next t ∧ t.rdata = 0 ∧
      u.onlyRegs (fun r => r = .gabFault g ∨ r = .gabFaultAddr g) { t with rdata := u.rdata } ∧
      bitsOf (t.reg (.gabFault g)) 7 0 = E_BUSY.toNat) ∧
    (s.bitOf (.burDmaCtl n) 1 = false →
      ((s.engine n).rxf = [] → ∃ t, exec (.burRxfRead g n) s = .next t ∧ t.rdata = 0 ∧
        u.onlyRegs (fun r => r = .burFifo n) { t with rdata := u.rdata } ∧
        t.reg (.burFifo n) = s.reg (.burFifo n) ||| 0x20000) ∧
      (∀ w rest, (s.engine n).rxf = w :: rest → ∃ t, exec (.burRxfRead g n) s = .next t ∧ t.rdata = w ∧
        u.onlyEngine n { t with rdata := u.rdata } ∧ t.engine n = { s.engine n with rxf := rest }))) ∧
  (∀ (s : State) (n : EngineNo) (g : Gable) (a b : Nat) (kind : StoreKind) (isAlias : Bool) (ring : Option (Fin 8)),
    s.domOn dBUR = true → s.gateRuns 2 = true → s.cfg.engineOwner n = some g →
    s.place g a = .bank b kind isAlias ring → a % 4 = 0 → s.pathOn b isAlias = true →
    (s.banks.bist = some (bankOf b) →
      (a = (s.reg (.burDmaTxa n)).toNat → s.cfg.may g .r b = true → exec (.burinDmaAccess n .tx) s = .next s) ∧
      (a = (s.reg (.burDmaRxa n)).toNat → s.cfg.may g .w b = true → exec (.burinDmaAccess n .rx) s = .next s)) ∧
    (s.banks.bist ≠ some (bankOf b) →
    (∀ bs u, a = (s.reg (.burDmaTxa n)).toNat → s.bitOf (.burDmaCtl n) 0 = true → (s.engine n).txf.length < 16 →
      1 < (s.reg (.burDmaTxc n)).toNat → (s.reg (.burDmaTxc n)).toNat < 65536 → s.cfg.may g .r b = true →
      isAlias = false → s.cacheRead (.dma n) g b 4 ring = (bs, false, u) →
      ∃ t, exec (.burinDmaAccess n .tx) s = .next t ∧
        (t.engine n) = { s.engine n with txf := (s.engine n).txf ++ [BitVec.ofNat 32 (leNat bs)] } ∧
        t.reg (.burDmaTxa n) = s.reg (.burDmaTxa n) + 4 ∧ t.reg (.burDmaTxc n) = s.reg (.burDmaTxc n) - 1 ∧
        u.keeps [.burDmaTxa n, .burDmaTxc n] t ∧ t = { u with regs := t.regs, burin := t.burin }) ∧
    (∀ w rest, a = (s.reg (.burDmaRxa n)).toNat → s.bitOf (.burDmaCtl n) 1 = true → (s.engine n).rxf = w :: rest →
      s.reg (.burDmaRxc n) = 1 → s.cfg.may g .w b = true → isAlias = false →
      let u := s.setEngine n (fun e => { e with rxf := rest })
      ∃ t, exec (.burinDmaAccess n .rx) s = .next t ∧ (t.engine n).rxf = rest ∧
        t.reg (.burDmaRxa n) = s.reg (.burDmaRxa n) + 4 ∧ t.reg (.burDmaRxc n) = 0 ∧
        t.bitOf (.burDmaCtl n) 1 = false ∧ t.bitOf (.burDmaStat n) 2 = true ∧ s.told g (22 + n.val) t ∧
        t.banks = (u.cacheWrite (.dma n) g b (leBytes 4 w.toNat) ring).banks ∧
        t.cache = (u.cacheWrite (.dma n) g b (leBytes 4 w.toNat) ring).cache))) ∧
  (∀ (s : State) (n : EngineNo) (dir : DmaDir) (g : Gable), s.dmaOn n dir = true → s.cfg.engineOwner n = some g →
    (s.fieldOf (dmaCountReg n dir) 15 0 = 0 → ∃ t, exec (.burinDmaEnd n dir) s = .next t ∧
      t.bitOf (.burDmaCtl n) (dmaBit dir) = false ∧ t.bitOf (.burDmaStat n) (2 * dmaBit dir) = true ∧
      s.told g (22 + n.val) t ∧ s.tells [.burDmaCtl n, .burDmaStat n] t ∧
      t = { s with regs := t.regs, power := Power.requests s.power t.power }) ∧
    (∀ e, s.fieldOf (dmaCountReg n dir) 15 0 ≠ 0 →
      (((s.reg (dmaAddrReg n dir)).toNat % 4 ≠ 0 ∧ e = E_ALIGN) ∨
        ((s.reg (dmaAddrReg n dir)).toNat % 4 = 0 ∧ (∃ off, s.place g (s.reg (dmaAddrReg n dir)).toNat = .register off) ∧
          e = E_WINDOW) ∨
        ((s.reg (dmaAddrReg n dir)).toNat % 4 = 0 ∧ ∃ b kind isAlias ring,
          s.place g (s.reg (dmaAddrReg n dir)).toNat = .bank b kind isAlias ring ∧
          ((s.pathOn b isAlias = false ∧ e = E_DLOST) ∨
            (s.pathOn b isAlias = true ∧ s.cfg.may g (match dir with | .tx => .r | .rx => .w) b = false ∧
              e = E_WINDOW)))) →
      ∃ t, exec (.burinDmaEnd n dir) s = .next t ∧ t.bitOf (.burDmaCtl n) (dmaBit dir) = false ∧
        t.bitOf (.burDmaStat n) (2 * dmaBit dir + 1) = true ∧ t.fieldOf (.burDmaStat n) 15 8 = e.toNat ∧
        s.told g (22 + n.val) t ∧ s.tells [.burDmaCtl n, .burDmaStat n] t ∧
        t = { s with regs := t.regs, power := Power.requests s.power t.power }))

/-! ## Purlin link (spec/14) -/

/-- R254 to R257, R259 to R261, R264, R105: eight TS1, eight TS2 and two start-of-frame sets train a port, whose roles and
rate are resolved from the TS2; LINKPLL's lock, a retrain, a lost link and line activity start training; sleep stops a
port; a superframe starts with its SOF and carries control frames, a due CREDIT and the frames that credits allow; a
CREDIT moves the credits; and errors are counted. -/
def Obligations.PortsTrainSleepAndSendSuperframes : Prop :=
  (∀ (s : State) (p : Port) (rate role : BitVec 2) (tkt : BitVec 16), s.trains p = true →
    ((s.port p).ts1 < 7 → ∃ t, exec (.ts1 p rate role tkt) s = .next t ∧ s.onlyPort p t ∧
      t.port p = { s.port p with ts1 := (s.port p).ts1 + 1, peerRole := role }) ∧
    ((s.port p).ts1 = 7 → ∃ t, exec (.ts1 p rate role tkt) s = .next t ∧ s.onlyPort p t ∧
      t.port p = PortState.transmit { s.port p with ts1 := 8, peerRole := role, ts2 := 0 }
        (List.replicate 8 (.ts2 (s.ownRate p) (s.ownRole p) (s.port p).ticket p)) 0) ∧
    (∀ own, (s.port p).ts1 < 8 → ∃ t, exec (.ts2 p rate role tkt own) s = .next t ∧ s.onlyPort p t ∧
      t.port p = { s.port p with ts1 := 0 })) ∧
  (∀ (s : State) (p : Port) (rate role : BitVec 2) (tkt own : BitVec 16), s.trains p = true → (s.port p).ts1 = 8 →
    role ≠ 3 →
    let c : Instr := .ts2 p rate role tkt own
    let mine := roleRank (s.ownRole p)
    let low := if rate < s.ownRate p then rate else s.ownRate p
    let head := !s.bare && (decide (roleRank role < mine) || (decide (mine = roleRank role) && decide (tkt < (s.port p).ticket)))
    ((s.port p).ts2 ≠ 7 → (s.port p).ts2 < 16 → ∃ t, exec c s = .next t ∧ s.onlyPort p t ∧
      t.port p = { s.port p with ts2 := (s.port p).ts2 + 1 }) ∧
    ((s.port p).ts2 = 7 → mine = roleRank role → (s.port p).ticket = tkt → ∃ t, exec c s = .next t ∧ s.onlyPort p t ∧
      t.port p = PortState.transmit { s.port p with ts2 := 0, ticket := own }
        (List.replicate 8 (.ts2 (s.ownRate p) (s.ownRole p) own p)) 0) ∧
    ((s.port p).ts2 = 7 → ¬ (mine = roleRank role ∧ (s.port p).ticket = tkt) →
      (low = 0 → ∃ t, exec c s = .next t ∧ s.onlyPort p t ∧
        t.port p = { s.port p with
          ts2 := 16, head := head, rate := 0, peerRole := role, wire := [], line := [] }) ∧
      (low ≠ 0 → ∃ t, exec c s = .next t ∧ t.pllLocked = false ∧
        s.onlyPort p { t with regs := s.regs } ∧ s.keeps [.clkStat] t ∧
        t.port p = PortState.transmit { s.port p with ts2 := 8, head := head, rate := low, peerRole := role }
          (List.replicate 8 (.ts2 (s.ownRate p) (s.ownRole p) (s.port p).ticket p)) 0))) ∧
  (∀ s : State, (∃ p : Port, s.portOn p = true ∧ s.pllRef p = true) → ∃ t, exec .linkpllLock s = .next t ∧
    t.pllLocked = true ∧ s.keeps [.clkStat] t ∧
    (∀ p : Port, (s.port p).link = .down → s.portOn p = true → s.trainsAnew p t) ∧
    (∀ p : Port, (s.port p).link ≠ .down → t.port p = s.port p)) ∧
  (∀ (s : State) (p : Port), let u := s.deviceAccess 0
    u.admits 0 (.purPctl p) 1 → s.portOn p = true → ∃ t, exec (.retrain p) s = .next t ∧
      u.trainsAnew p t ∧ u.onlyPort p { t with freeCtr := u.freeCtr }) ∧
  (∀ (s : State) (p : Port), s.portOn p = true → (s.port p).framing = true → 2 ≤ (s.port p).sofs →
    ∃ t, exec (.linkTrained p) s = .next t ∧ (t.port p).link = .trained ∧ t.bitOf (.purPevt p) 0 = true ∧
      (t.port p).cumOut = 0 ∧ (t.port p).epochOut = 1 ∧ (t.port p).cumIn = 0 ∧ (t.port p).sentIn = 0 ∧
      (t.port p).swap = (s.port p).swap ∧ (t.port p).head = (s.port p).head ∧ t.purlin.sess = s.purlin.sess) ∧
  (∀ (s : State) (p : Port), s.domOn dLINK = true → (s.port p).link = .trained → ∃ t, exec (.lossOfLink p) s = .next t ∧
    (t.port p).link = (if s.portOn p then .training else .down) ∧ (t.port p).ctl = [] ∧ (t.port p).data = [] ∧
    (∀ g : Gable, t.session g p = none ∧ (s.session g p ≠ none → s.told g 28 t)) ∧
    (∀ (g : Gable) (q : Port), q ≠ p → t.session g q = s.session g q ∧ t.port q = s.port q) ∧
    t.bitOf (.purPevt p) 1 = true ∧ t.fieldOf (.purPerr p) 31 24 = min (s.fieldOf (.purPerr p) 31 24 + 1) 255 ∧
    s.tells [.purPevt p, .purPerr p] t) ∧
  (∀ (s : State) (p : Port), s.portOn p = true → (s.port p).link = .trained →
    ((s.port p).ctl = [] → (s.port p).data = [] → ∃ t, exec (.slp p) s = .next t ∧
      t.port p = PortState.transmit { s.port p with link := .asleep } [.slp, .slp, .slp, .slp] 0 ∧
      t.reg (.purPevt p) = s.reg (.purPevt p) ||| 0x10 ∧
      s.keeps [.purPevt p] t ∧ s.onlyPort p { t with regs := s.regs }) ∧
    ((s.port p).ctl ≠ [] ∨ (s.port p).data ≠ [] → ∃ t, exec (.slp p) s = .next t ∧
      (s.setPort p PortState.goToSleep).trainsAnew p t ∧
      t.reg (.purPevt p) = s.reg (.purPevt p) ||| 0x30 ∧ s.keeps [.purPevt p] t)) ∧
  (∀ (s : State) (p : Port), s.sleepDue = true → (s.port p).link = .trained → s.portPending p = false →
    (s.port p).ctl = [] → (s.port p).data = [] → ∃ t, exec (.linkSleep p) s = .next t ∧ s.onlyPort p t ∧
      t.port p = PortState.transmit { s.port p with link := .asleep } [.slp, .slp, .slp, .slp] 0) ∧
  (∀ (s : State) (p : Port), (s.port p).link = .asleep → s.up = true → s.bitOf (.purPcfg p) 0 = true →
    s.power.dom[dLINK.val] ≠ .off →
    ∃ t, exec (.lineActivity p) s = .next t ∧ t.power.holdAt = some s.now ∧ t.bitOf .pwrWakePend (16 + p.val) = true ∧
      (s.portOn p = true → s.trainsAnew p t ∧ t.reg (.purPevt p) = s.reg (.purPevt p) ||| 0x20) ∧
      (s.domOn dLINK = false → t.port p = { s.port p with act := true } ∧ t.reg (.purPevt p) = s.reg (.purPevt p)) ∧
      s.keeps [.pwrWakePend, .purPevt p] t) ∧
  (∀ (s : State) (p : Port), s.portOn p = true → (s.port p).link = .trained → (s.port p).swap = .linked →
    (s.port p).regrant = false → (s.port p).ctl = [] →
    let sfn := if (s.port p).head then (s.port p).sfn + 1 else (s.port p).sfn
    let sof := TxFrame.sof (s.port p).head sfn
    ((s.port p).fresh = 0 → (s.port p).sinceCred < 63 → (s.port p).data = [] →
      ∃ t, exec (.superframe p) s = .next t ∧ s.onlyPort p t ∧
        t.port p = PortState.transmit { s.port p with sfn := sfn, sinceCred := (s.port p).sinceCred + 1 } [sof]
          (s.port p).capacity) ∧
    ((s.port p).fresh ≠ 0 ∨ 63 ≤ (s.port p).sinceCred → (s.port p).data = [] →
      ∃ t, exec (.superframe p) s = .next t ∧ s.onlyPort p t ∧
        let cum := (s.port p).cumOut + BitVec.ofNat 16 (s.port p).fresh
        t.port p = PortState.transmit { s.port p with sfn := sfn, cumOut := cum, fresh := 0, sinceCred := 0 }
          [sof, .credit (s.port p).epochOut cum] (s.port p).capacity) ∧
    (∀ fr rest, (s.port p).fresh = 0 → (s.port p).sinceCred < 63 → (s.port p).data = fr :: rest → fr.chars.length ≤ 700 →
      ((s.port p).cumIn = (s.port p).sentIn → ∃ t, exec (.superframe p) s = .next t ∧ s.onlyPort p t ∧
        (t.port p).wire = [sof] ∧ (t.port p).data = fr :: rest) ∧
      ((s.port p).cumIn = (s.port p).sentIn + 1 → ∃ t, exec (.superframe p) s = .next t ∧ s.onlyPort p t ∧
        (t.port p).wire = [sof, fr] ∧ (t.port p).data = rest ∧ (t.port p).sentIn = (s.port p).cumIn))) ∧
  (∀ (s : State) (p : Port), s.portOn p = true → (s.port p).framing = true →
    ((s.port p).head = true ∨ (s.port p).sofs ≠ 0 → ∃ t, exec (.superframe p) s = .next t ∧ s.onlyPort p t ∧
      (t.port p).wire = [.sof (s.port p).head (t.port p).sfn] ∧
      (t.port p).sfn = (if (s.port p).head then (s.port p).sfn + 1 else (s.port p).sfn) ∧ (t.port p).ctl = (s.port p).ctl ∧
      (t.port p).data = (s.port p).data) ∧
    ((s.port p).head = false → (s.port p).sofs = 0 → exec (.superframe p) s = .next s)) ∧
  (∀ (q : PortState) (fs : List TxFrame) (fill : Nat), let cs := fs.flatMap TxFrame.chars
    q.transmit fs fill = { q with
        wire := fs, line := (encodeChars q.plus (cs ++ idleFill (fill - cs.length))).1
        plus := (encodeChars q.plus (cs ++ idleFill (fill - cs.length))).2 } ∧
      (q.transmit fs fill).line.length = max cs.length fill) ∧
  (∀ (s : State) (p : Port) (sfn : Byte), s.portOn p = true →
    ((s.port p).framing = true →
      ((s.port p).head = false → ∃ t, exec (.sofH p sfn) s = .next t ∧ s.onlyPort p t ∧
        t.port p = { s.port p with sofs := min ((s.port p).sofs + 1) 2, sfn := sfn }) ∧
      ((s.port p).head = true → ∃ t, exec (.sofT p sfn) s = .next t ∧ s.onlyPort p t ∧
        t.port p = { s.port p with sofs := min ((s.port p).sofs + 1) 2 })) ∧
    ((s.port p).link = .trained → (s.port p).head = false → ∃ t, exec (.sofH p sfn) s = .next t ∧ s.onlyPort p t ∧
      t.port p = { s.port p with sfn := sfn })) ∧
  (∀ (s : State) (p : Port) (epoch : Byte) (cum : BitVec 16), s.portOn p = true → (s.port p).link = .trained →
    (epoch = (s.port p).epochIn → ∃ t, exec (.credit p epoch cum) s = .next t ∧ s.onlyPort p t ∧
      t.port p = { s.port p with cumIn := cum }) ∧
    (epoch ≠ (s.port p).epochIn → (s.port p).swap ≠ .reissue → ∃ t, exec (.credit p epoch cum) s = .next t ∧
      s.onlyPort p t ∧ t.port p = { s.port p with epochIn := epoch, cumIn := cum, sentIn := 0 }) ∧
    (epoch ≠ (s.port p).epochIn → (s.port p).swap = .reissue → ∃ t, exec (.credit p epoch cum) s = .next t ∧
      s.onlyPort p t ∧ t.port p = { s.port p with
        epochIn := epoch, cumIn := cum, sentIn := 0, swap := .linked, reissued := false
        regrant := (s.port p).regrant || !(s.port p).head })) ∧
  (∀ (s : State) (f : Frame), s.receives f.port = true →
    (f.discard = some .fcs → ∃ t, exec (.discardedFrame f.port f.body) s = .next t ∧ s.onlyRegs (fun r => r = .purPerr f.port) t ∧
      t.fieldOf (.purPerr f.port) 15 8 = min (s.fieldOf (.purPerr f.port) 15 8 + 1) 255) ∧
    (f.discard = some .other → ∃ t, exec (.discardedFrame f.port f.body) s = .next t ∧ s.onlyPort f.port { t with regs := s.regs } ∧
      s.keeps [.purPerr f.port] t ∧ t.fieldOf (.purPerr f.port) 23 16 = min (s.fieldOf (.purPerr f.port) 23 16 + 1) 255 ∧
      (if f.violation = false ∧ f.fcsOk = true ∧ control f.opc = false ∧
          s.portHeld f.port < (s.port f.port).empty.length
        then s.bufferEmptied f.port t else t.port f.port = s.port f.port)) ∧
    (f.discard = none → (control f.opc && (s.port f.port).ctlFull) = false →
      exec (.discardedFrame f.port f.body) s = .next s) ∧
    (f.discard = none → (control f.opc && (s.port f.port).ctlFull) = true →
      ∃ t, exec (.discardedFrame f.port f.body) s = .next t ∧
      s.onlyRegs (fun r => r = .purPerr f.port) t ∧
      t.fieldOf (.purPerr f.port) 23 16 = min (s.fieldOf (.purPerr f.port) 23 16 + 1) 255)) ∧
  (∀ (s : State) (p : Port) (plus : Bool) (group : BitVec 10), s.portOn p = true →
    (violates plus group = true → ∃ t, exec (.characterViolation ⟨p, plus, group⟩) s = .next t ∧
      s.onlyPort p { t with regs := s.regs } ∧ s.keeps [.purPerr p] t ∧
      t.fieldOf (.purPerr p) 7 0 = min (s.fieldOf (.purPerr p) 7 0 + 1) 255 ∧
      t.port p = (if (s.port p).link = .training ∧ (s.port p).ts1 < 8 then { s.port p with ts1 := 0 } else s.port p)) ∧
    (violates plus group = false → exec (.characterViolation ⟨p, plus, group⟩) s = .next s))

/-- R263, R264: a swap is asked for from LINKED; a peer's request is acknowledged from LINKED, by a lower own ticket, and
from BACKOFF, ignored by a higher one, and backed off from at equal tickets; the acknowledgement freezes the head, whose
tail becomes head with SFN + 1; each end reissues; and eight superframes without an answer end the request. -/
def Obligations.RolesSwapByTicket : Prop :=
  (∀ (s : State) (p : Port) (tkt : BitVec 16), let u := s.deviceAccess 0
    s.up = true → s.reachable .link = true → s.swaps p = true →
    ((s.port p).swap = .linked → ∃ t, exec (.swap p tkt) s = .next t ∧ u.onlyPort p t ∧
      t.port p = { s.port p with
        swap := .reqSent, swapTicket := tkt, swapFor := 0, ctl := (s.port p).ctl ++ [.swapReq tkt] }) ∧
    ((s.port p).swap ≠ .linked → exec (.swap p tkt) s = .next u)) ∧
  (∀ (s : State) (p : Port) (tkt : BitVec 16) (backoff : Nat), s.swaps p = true →
    let c : Instr := .swapReq p tkt backoff
    let others := (s.port p).ctl.filter (fun f => match f with | .swapReq _ => false | _ => true)
    ((s.port p).swap = .linked ∨ (s.port p).swap = .backoff ∨ ((s.port p).swap = .reqSent ∧ (s.port p).swapTicket < tkt) →
      ∃ t, exec c s = .next t ∧ s.onlyPort p t ∧
        t.port p = { s.port p with swap := .acked, swapFor := 0, ctl := others ++ [.swapAck tkt] }) ∧
    ((s.port p).swap = .reqSent → tkt < (s.port p).swapTicket → exec c s = .next s) ∧
    ((s.port p).swap = .reqSent → tkt = (s.port p).swapTicket → ∃ t, exec c s = .next t ∧ s.onlyPort p t ∧
      t.port p = { s.port p with swap := .backoff, swapFor := backoff % 8 + 1, ctl := others }) ∧
    ((s.port p).swap = .acked ∨ (s.port p).swap = .swapping ∨ (s.port p).swap = .reissue → exec c s = .next s)) ∧
  (∀ (s : State) (p : Port) (tkt : BitVec 16), s.swaps p = true → (s.port p).swap = .reqSent →
    ((s.port p).swapTicket = tkt → ∃ t, exec (.swapAck p tkt) s = .next t ∧ s.onlyPort p t ∧
      t.port p = { s.port p with swap := .swapping }) ∧
    ((s.port p).swapTicket ≠ tkt → exec (.swapAck p tkt) s = .next s)) ∧
  (∀ (s : State) (p : Port), (s.port p).swap = .reqSent → (s.port p).swapFor < 8 → exec (.swapTimeout p) s = .next s) ∧
  (∀ (s : State) (p : Port), (s.port p).swap = .reqSent → 8 ≤ (s.port p).swapFor → ∃ t, exec (.swapTimeout p) s = .next t ∧
    t.port p = { s.port p with swap := .linked, swapFor := 0 } ∧ t.reg (.purPevt p) = s.reg (.purPevt p) ||| 8 ∧
    s.keeps [.purPevt p] t ∧ s.onlyPort p { t with regs := s.regs }) ∧
  (∀ (s : State) (p : Port) (tkt : BitVec 16), s.portOn p = true → (s.port p).swap = .backoff →
    ((s.port p).swapFor = 0 → ∃ t, exec (.backoffEnd p tkt) s = .next t ∧ s.onlyPort p t ∧
      t.port p = { s.port p with
        swap := .reqSent, swapTicket := tkt, swapFor := 0, ctl := (s.port p).ctl ++ [.swapReq tkt] }) ∧
    ((s.port p).swapFor ≠ 0 → exec (.backoffEnd p tkt) s = .next s)) ∧
  (∀ (s : State) (p : Port), s.portOn p = true → (s.port p).link = .trained → (s.port p).swap = .swapping →
    ((s.port p).head = true → exec (.superframe p) s = .next s ∧
      ∀ sfn : Byte, ∃ t, exec (.sofH p sfn) s = .next t ∧ s.onlyPort p t ∧
        t.port p = { s.port p with head := false, sfn := sfn, swap := .reissue }) ∧
    ((s.port p).head = false → (s.port p).regrant = false → (s.port p).ctl = [] → ∃ t, exec (.superframe p) s = .next t ∧
      s.onlyPort p t ∧ (t.port p).head = true ∧ (t.port p).swap = .reissue ∧ (t.port p).sfn = (s.port p).sfn + 1 ∧
      (t.port p).wire = [.sof true ((s.port p).sfn + 1)])) ∧
  (∀ (s : State) (p : Port) (sfn : Byte), s.portOn p = true → (s.port p).link = .trained → (s.port p).head = true →
    (s.port p).swap = .reissue → (s.port p).sfn = sfn → (s.port p).reissued = false →
      ∃ t, exec (.sofT p sfn) s = .next t ∧
      t.port p = { s.port p with regrant := true, reissued := true } ∧ t.reg (.purPevt p) = s.reg (.purPevt p) ||| 4 ∧
      s.keeps [.purPevt p] t ∧ s.onlyPort p { t with regs := s.regs })

/-! ## Sessions and their commands (spec/14, spec/15 R287) -/

/-- R36, R265 to R267, R269: a PING is echoed with the flags of a brace and of BARE; step 1 of OPEN is refused by its
checks in order or keeps the nonces and answers with NW; step 2 proves the key, opens a session with line 28, or fails and
counts toward a lockout; a lockout expires; and idle sessions close. -/
def Obligations.SessionsOpenByProofOfTheKey : Prop :=
  (∀ (s : State) (f : Frame), s.meetsCtl opcPing f →
    (f.data.length = 8 → ∃ t, exec (.ping f) s = .next t ∧ (s.cmdWake f.port).onlyPort f.port t ∧
      t.port f.port = { s.port f.port with ctl := (s.port f.port).ctl ++
        [.ping (f.data ++ [(if s.refusing then 1 else 0) + (if s.bare then 2 else 0)])] }) ∧
    (f.data.length ≠ 8 → ∃ t, exec (.ping f) s = .next t ∧
      s.onlyRegs (fun r => r = .purPerr f.port) t ∧
      t.fieldOf (.purPerr f.port) 23 16 = min (s.fieldOf (.purPerr f.port) 23 16 + 1) 255)) ∧
  (∀ (s : State) (f : Frame) (noise : List Byte), s.meetsCtl opcOpen f →
    (f.flags = 0 ∧ f.data.length ≠ 17) ∨ (f.flags = 1 ∧ f.data.length ≠ 16) →
    ∃ t, exec (.openSession f noise) s = .next t ∧ s.onlyRegs (fun r => r = .purPerr f.port) t ∧
      t.fieldOf (.purPerr f.port) 23 16 = min (s.fieldOf (.purPerr f.port) 23 16 + 1) 255) ∧
  (∀ (s : State) (f : Frame) (noise : List Byte), s.meetsCtl opcOpen f →
    (f.flags = 0 ∧ f.data.length = 17) ∨ (f.flags = 1 ∧ f.data.length = 16) → s.refusing = true →
    ∃ t, exec (.openSession f noise) s = .next t ∧ s.onlyPort f.port t ∧ s.openAnswered f E_BUSY [] t) ∧
  (∀ (s : State) (f : Frame) (noise : List Byte), s.meetsCtl opcOpen f → f.flags = 0 →
    f.data.length = 17 → s.refusing = false →
    let u := s.cmdWake f.port
    let g := f.sess
    let method := f.data.headD 0
    let c : Instr := .openSession f noise
    (2 ≤ method.toNat → ∃ t, exec c s = .next t ∧ u.onlyPort f.port t ∧ s.openAnswered f E_RSVD [] t) ∧
    (method.toNat < 2 → s.openKey g method.toNat = none →
      ∃ t, exec c s = .next t ∧ u.onlyPort f.port t ∧ s.openAnswered f E_AUTH [] t) ∧
    (∀ k salt, method.toNat < 2 → s.openKey g method.toNat = some (k, salt) →
      (s.lockedOut g = true → ∃ t, exec c s = .next t ∧ u.onlyPort f.port t ∧ s.openAnswered f E_LOCKED [] t) ∧
      (s.lockedOut g = false → (s.gab g).stopped = true → g ≠ 0 →
        ∃ t, exec c s = .next t ∧ u.onlyPort f.port t ∧ s.openAnswered f E_BUSY [] t) ∧
      (s.lockedOut g = false → (s.gab g).stopped = false ∨ g = 0 → noise.length = 16 → ∃ t, exec c s = .next t ∧
        s.openAnswered f E_OK (noise ++ salt) t ∧
        t = { u with purlin := { u.purlin with ports := t.purlin.ports, opens := t.purlin.opens } } ∧
        (t.purlin.opens[g.val])[f.port.val] =
          some { method := method, nc := f.data.drop 1, nw := noise, at_ := s.now } ∧
        ∀ (h : Gable) (q : Port), (h, q) ≠ (g, f.port) →
          (t.purlin.opens[h.val])[q.val] = (s.purlin.opens[h.val])[q.val]))) ∧
  (∀ (s : State) (f : Frame) (noise : List Byte), s.meetsCtl opcOpen f → f.flags = 1 →
    f.data.length = 16 → s.refusing = false →
    let u := s.cmdWake f.port
    let g := f.sess
    let c : Instr := .openSession f noise
    let step := (s.purlin.opens[g.val])[f.port.val]
    (s.openKey g 0 = none → s.openKey g 1 = none →
      ∃ t, exec c s = .next t ∧ u.onlyPort f.port t ∧ s.openAnswered f E_AUTH [] t) ∧
    ((s.openKey g 0).isSome = true ∨ (s.openKey g 1).isSome = true →
      (s.lockedOut g = true → ∃ t, exec c s = .next t ∧ u.onlyPort f.port t ∧ s.openAnswered f E_LOCKED [] t) ∧
      (s.lockedOut g = false → (s.gab g).stopped = true → g ≠ 0 →
        ∃ t, exec c s = .next t ∧ u.onlyPort f.port t ∧ s.openAnswered f E_BUSY [] t) ∧
      (s.lockedOut g = false → (s.gab g).stopped = false ∨ g = 0 →
        ((step = none ∨ ∃ o, step = some o ∧ 1000 < s.now - o.at_) → ∃ t, exec c s = .next t ∧
          s.openAnswered f E_TIMEOUT [] t ∧ (t.purlin.opens[g.val])[f.port.val] = none ∧
          t = { u with purlin := { u.purlin with ports := t.purlin.ports, opens := t.purlin.opens } }) ∧
        (∀ o k salt, step = some o → s.now - o.at_ ≤ 1000 → s.openKey g o.method.toNat = some (k, salt) →
          let ctx := openCtx f.port g o.method
          (f.data ≠ (hmac k (1 :: ctx ++ o.nw ++ o.nc)).take 16 → ∃ t, exec c s = .next t ∧
            s.openAnswered f E_AUTH [] t ∧
            t = { u with purlin := { u.purlin with
              ports := t.purlin.ports, opens := t.purlin.opens, lock := t.purlin.lock } } ∧
            (t.lockOf g).fails = min ((s.lockOf g).fails + 1) 15 ∧
            ((s.lockOf g).fails < 3 → (t.lockOf g).since = none) ∧
            ((s.lockOf g).fails = 3 → (t.lockOf g).since = some s.now ∧ (t.lockOf g).level = 0) ∧
            (4 ≤ (s.lockOf g).fails →
              (t.lockOf g).since = some s.now ∧ (t.lockOf g).level = min ((s.lockOf g).level + 1) 8) ∧
            ∀ h : Gable, h ≠ g → t.lockOf h = s.lockOf h) ∧
          (f.data = (hmac k (1 :: ctx ++ o.nw ++ o.nc)).take 16 → ∃ t, exec c s = .next t ∧
            (let v := if (s.session g f.port).elim false Session.holdsFrame then s.bufferBack f.port else s
             v.openAnswered f E_OK ((hmac k (2 :: ctx ++ o.nc ++ o.nw)).take 16) t) ∧
            t.session g f.port = some
              { ks := hmac k (3 :: ctx ++ o.nc ++ o.nw), lastSeq := 0, cached := none, pending := none, badTags := 0
                winPtr := 0, usedAt := s.now, recovery := s.bare } ∧
            (∀ (h : Gable) (q : Port), (h, q) ≠ (g, f.port) → t.session h q = s.session h q) ∧
            t.lockOf g = { fails := 0, level := 0, since := none } ∧ s.told g 28 t ∧ u.tells [] t ∧
            t = { u with regs := t.regs, purlin := t.purlin, power := Power.requests u.power t.power }))))) ∧
  (∀ (s : State) (g : Gable) (at_ : Nat), (s.lockOf g).since = some at_ → s.now < at_ + 1000000 * 2 ^ (s.lockOf g).level →
    exec (.lockoutExpiry g) s = .next s) ∧
  (∀ (s : State) (g : Gable) (at_ : Nat), (s.lockOf g).since = some at_ → at_ + 1000000 * 2 ^ (s.lockOf g).level ≤ s.now →
    ∃ t, exec (.lockoutExpiry g) s = .next t ∧
    t = { s with purlin := { s.purlin with lock := t.purlin.lock } } ∧ t.lockOf g = { s.lockOf g with since := none } ∧
    ∀ h : Gable, h ≠ g → t.lockOf h = s.lockOf h) ∧
  (∀ (s : State) (g : Gable) (p : Port) (x : Session), s.fieldOf .purCfg 7 0 ≠ 0 → s.session g p = some x →
    (s.now < x.usedAt + 1000000 * s.fieldOf .purCfg 7 0 → exec (.sessionIdleTimeout g p) s = .next s) ∧
    (x.usedAt + 1000000 * s.fieldOf .purCfg 7 0 ≤ s.now →
      ∃ t, exec (.sessionIdleTimeout g p) s = .next t ∧ t.session g p = none ∧ s.told g 28 t ∧ s.tells [] t ∧
        (∀ (h : Gable) (q : Port), (h, q) ≠ (g, p) → t.session h q = s.session h q) ∧
        (∀ q : Port, q ≠ p → t.port q = s.port q) ∧
        (if x.holdsFrame then s.bufferEmptied p t else t.port p = s.port p) ∧
        t = { s with
          regs := t.regs, purlin := { s.purlin with ports := t.purlin.ports, sess := t.purlin.sess }
          power := Power.requests s.power t.power })) ∧
  (∀ (s : State) (g : Gable) (p : Port), s.fieldOf .purCfg 7 0 = 0 → exec (.sessionIdleTimeout g p) s = .next s)

/-- R259, R268 to R270: a sequenced command without a session is discarded; a wrong TAG counts and the sixteenth closes;
a repeated SEQ gets the cached response, or BUSY while its command is pending; a wrong SEQ counts as a replay; a command
behind a pending one gets BUSY; during a brace it is answered with E_BUSY; during a transition it waits, and so does a
message without POOL (log 54) and a window command at a bank under test (R183); and BUSY goes out at a pending command's
deadline. A command that arrives while the warden does not run wakes it (R105). -/
def Obligations.SequencedCommandsPassTheirChecksInOrder : Prop :=
  (∀ (s : State) (opc : BitVec 4) (f : Frame), opc ∈ seqOpcodes → s.receives f.port = true → f.discard ≠ none →
    exec (seqCommand opc f) s = exec (.discardedFrame f.port f.body) s) ∧
  (∀ (s : State) (opc : BitVec 4) (f : Frame), opc ∈ seqOpcodes → s.meets opc f →
    ((s.port f.port).empty.length ≤ s.portHeld f.port → ∃ t, exec (seqCommand opc f) s = .next t ∧
      s.onlyRegs (fun r => r = .purPerr f.port) t ∧
      t.fieldOf (.purPerr f.port) 23 16 = min (s.fieldOf (.purPerr f.port) 23 16 + 1) 255) ∧
    (s.portHeld f.port < (s.port f.port).empty.length → s.session f.sess f.port = none →
      ∃ t, exec (seqCommand opc f) s = .next t ∧ s.onlyPort f.port { t with regs := s.regs } ∧
        s.bufferEmptied f.port t ∧ s.keeps [.purPerr f.port] t ∧
        t.fieldOf (.purPerr f.port) 23 16 = min (s.fieldOf (.purPerr f.port) 23 16 + 1) 255)) ∧
  (∀ (s : State) (opc : BitVec 4) (f : Frame) (x : Session), opc ∈ seqOpcodes → s.holdsFrame opc f →
    s.session f.sess f.port = some x → f.tag ≠ frameTag x.ks false (frameBody false opc f.flags f.sess 0 f.seq f.data) →
    ∃ t, exec (seqCommand opc f) s = .next t ∧
      (x.badTags < 15 ∨ x.holdsFrame = false → s.bufferEmptied f.port t) ∧
      (15 ≤ x.badTags → x.holdsFrame = true → (s.bufferBack f.port).bufferEmptied f.port t) ∧
      t.fieldOf (.purPsec f.port) 15 0 = min (s.fieldOf (.purPsec f.port) 15 0 + 1) 65535 ∧ s.tells [.purPsec f.port] t ∧
      (x.badTags < 15 → t.session f.sess f.port = some { x with badTags := x.badTags + 1 }) ∧
      (15 ≤ x.badTags → t.session f.sess f.port = none ∧ s.told f.sess 28 t) ∧
      t = { s with regs := t.regs, purlin := t.purlin, power := Power.requests s.power t.power }) ∧
  (∀ (s : State) (opc : BitVec 4) (f : Frame) (x : Session), opc ∈ seqOpcodes → s.hears opc f x →
    let c := seqCommand opc f
    let u := s.cmdWake f.port
    let fresh := (s.port f.port).fresh + 1
    (∀ r, f.seq = x.lastSeq → x.pending = none → x.cached = some r → ∃ t, exec c s = .next t ∧ u.onlyPort f.port t ∧
      t.port f.port = { s.port f.port with data := (s.port f.port).data ++ [r], fresh := fresh }) ∧
    (∀ w, f.seq = x.lastSeq → x.pending = some w → ∃ t, exec c s = .next t ∧ u.onlyPort f.port t ∧
      t.port f.port = { s.port f.port with
        ctl := (s.port f.port).ctl ++
          [x.response opcBusy 0 f.sess E_BUSY w.seq [BitVec.ofNat 8 (s.retryOf w.at_)]]
        fresh := fresh }) ∧
    (f.seq ≠ x.lastSeq → f.seq ≠ x.lastSeq + 1 → ∃ t, exec c s = .next t ∧ s.bufferEmptied f.port t ∧
      s.onlyPort f.port { t with regs := s.regs } ∧ s.keeps [.purPsec f.port] t ∧
      t.fieldOf (.purPsec f.port) 31 16 = min (s.fieldOf (.purPsec f.port) 31 16 + 1) 65535) ∧
    (f.seq = x.lastSeq + 1 → x.pending ≠ none → ∃ t, exec c s = .next t ∧ u.onlyPort f.port t ∧
      t.port f.port = { s.port f.port with
        ctl := (s.port f.port).ctl ++
          [x.response opcBusy 0 f.sess E_BUSY f.seq [BitVec.ofNat 8 (s.retryOf s.now)]]
        fresh := fresh }) ∧
    (f.seq = x.lastSeq + 1 → x.pending = none → s.refusing = true →
      ∃ t, exec c s = .next t ∧ ((s.heard f x).bufferBack f.port).replied opc f x 0 E_BUSY [] t)) ∧
  (∀ (s : State) (opc : BitVec 4) (f : Frame) (x : Session), opc ∈ seqOpcodes → s.hears opc f x →
    f.seq = x.lastSeq + 1 → x.pending = none → s.refusing = false → s.up = true →
    s.power.gstate = .trans ∨ (opc = opcMsgSend ∧ s.domOn dPOOL = false) ∨ s.windowWaits opc f = true →
    exec (seqCommand opc f) s = .next ((s.woken f x).putSession f.sess f.port (some { x with
      lastSeq := f.seq, cached := none, usedAt := s.now
      pending := some {
        opc := opc, seq := f.seq, reply := false, at_ := s.now, order := s.purlin.received + 1, frame := some f } }))) ∧
  (∀ (s : State) (g : Gable) (p : Port) (x : Session) (c : PendingCmd), s.session g p = some x → x.pending = some c →
    (s.port p).link = .trained → ∃ t, exec (.busyDeadline g p) s = .next t ∧ s.onlyPort p t ∧
      t.port p = { s.port p with
        ctl := (s.port p).ctl ++ [x.response opcBusy 0 g E_BUSY c.seq [BitVec.ofNat 8 (s.retryOf c.at_)]] })

/-- R272, R274, R287: CLOSE ends its session after the response; READ_REG and WRITE_REG check length and alignment, reach
registers with the gable's rights and answer the code of a word that fails; the window commands move the pointer over an
access to memory or are refused, with E_DLOST before E_WINDOW (spec/00 R13), and what is refused with E_WINDOW stands in
GAB_FAULT (R7); and in a recovery session PLT_RCV_CTL erases a sector or starts a cold start (a wrong KEY answers E_RSVD,
log 33), and a window write programs erased sectors alone. -/
def Obligations.SessionsReachRegistersAndMemory : Prop :=
  (∀ (s : State) (f : Frame) (x : Session), s.performs opcClose f x → let u := s.woken f x
    ∃ t, exec (.close f) s = .next t ∧ t.session f.sess f.port = none ∧ s.told f.sess 28 t ∧ u.tells [] t ∧
    (∀ (g : Gable) (p : Port), (g, p) ≠ (f.sess, f.port) → t.session g p = s.session g p) ∧
    (t.port f.port).data = (s.port f.port).data ++ [x.response opcClose 0 f.sess E_OK f.seq []] ∧
    t = { u with regs := t.regs, purlin := t.purlin, power := Power.requests u.power t.power }) ∧
  (∀ (s : State) (f : Frame) (x : Session), s.performs opcReadReg f x → s.bare = false →
    let u := s.taken f x
    let a := beNat (f.data.take 4)
    let count := (f.data.getD 4 0).toNat
    (f.data.length ≠ 5 ∨ count = 0 ∨ 16 < count →
      ∃ t, exec (.readReg f) s = .next t ∧ u.replied opcReadReg f x 0 E_RANGE [] t) ∧
    (f.data.length = 5 → 1 ≤ count → count ≤ 16 → a % 4 ≠ 0 →
      ∃ t, exec (.readReg f) s = .next t ∧ u.replied opcReadReg f x 0 E_ALIGN [] t) ∧
    (∀ r ∈ ([.supStat, .supEvt, .supCfg, .gutStat, .clkStat, .clkEvt] : List Reg), f.data.length = 5 → count = 1 →
      a = r.addr → ∃ t, exec (.readReg f) s = .next t ∧
        u.replied opcReadReg f x 0 E_OK (beBytes 4 (u.shown r).toNat) t) ∧
    (f.data.length = 5 → count = 1 → a % 4 = 0 → a < 0x40000000 → ∃ t, exec (.readReg f) s = .next t ∧
      (u.recordFault f.sess E_WINDOW (BitVec.ofNat 32 a)).replied opcReadReg f x 0 E_WINDOW (beBytes 4 0) t)) ∧
  (∀ (s : State) (f : Frame) (x : Session), s.performs opcWriteReg f x → s.bare = false →
    let u := s.taken f x
    let g := f.sess
    let a := beNat (f.data.take 4)
    let count := (f.data.getD 4 0).toNat
    let v : Word := BitVec.ofNat 32 (beNat (f.data.drop 5))
    (f.data.length ≠ 5 + 4 * count ∨ count = 0 ∨ 16 < count →
      ∃ t, exec (.writeReg f) s = .next t ∧ u.replied opcWriteReg f x 0 E_RANGE [0] t) ∧
    (f.data.length = 5 + 4 * count → 1 ≤ count → count ≤ 16 → a % 4 ≠ 0 →
      ∃ t, exec (.writeReg f) s = .next t ∧ u.replied opcWriteReg f x 0 E_ALIGN [0] t) ∧
    (∀ r : Reg, f.data.length = 9 → count = 1 → a % 4 = 0 → 0x40000000 ≤ a → a < 0x400C0000 → inAperture a = false →
      Reg.atAddr? g a = some r → u.reachable r.domain = true →
      (u.writeRefused g r v = true → ∃ t, exec (.writeReg f) s = .next t ∧
        (u.recordFault g E_WINDOW (BitVec.ofNat 32 r.addr)).replied opcWriteReg f x 0 E_WINDOW [0] t) ∧
      (u.writeRefused g r v = false → v &&& ~~~ (r.definedMask) = 0 → r.reservedEncoding v = true →
        ∃ t, exec (.writeReg f) s = .next t ∧
          (u.recordFault g E_RSVD (BitVec.ofNat 32 r.addr)).replied opcWriteReg f x 0 E_RSVD [0] t) ∧
      (r = .clkSsc → u.writeRefused g r v = false → v &&& ~~~ (r.definedMask) = 0 → r.reservedEncoding v = false →
        ∃ t, exec (.writeReg f) s = .next t ∧ (u.mergeWrite .clkSsc v).replied opcWriteReg f x 0 E_OK [1] t))) ∧
  (∀ (s : State) (f : Frame) (x : Session) (bs : List Byte) (a : Nat), winStart f x = (a, bs) →
    s.performs opcWinWrite f x → s.bare = true → 1 ≤ bs.length → bs.length ≤ 256 → burstSize a bs.length = bs.length →
    let u := s.taken f x
    (0x200000 < a + bs.length → ∃ t, exec (.winWrite f) s = .next t ∧
      (u.setWinPtr f a).replied opcWinWrite f x 0 E_WINDOW [0, 0] t) ∧
    (a + bs.length ≤ 0x200000 → s.nv.mayProgram a bs.length = false → ∃ t, exec (.winWrite f) s = .next t ∧
      (u.setWinPtr f a).replied opcWinWrite f x 0 E_RANGE [0, 0] t) ∧
    (a + bs.length ≤ 0x200000 → s.nv.mayProgram a bs.length = true → ∃ t, exec (.winWrite f) s = .next t ∧
      ((u.setNv (fun n => n.program a bs)).setWinPtr f (a + bs.length)).replied opcWinWrite f x 0 E_OK
        (beBytes 2 bs.length) t)) ∧
  (∀ (s : State) (f : Frame) (x : Session) (rest : List Byte) (a : Nat), winStart f x = (a, rest) →
    s.performs opcWinRead f x → s.bare = false →
    let u := s.taken f x
    let n := beNat rest
    (rest.length ≠ 2 ∨ n = 0 ∨ 256 < n →
      ∃ t, exec (.winRead f) s = .next t ∧ u.replied opcWinRead f x 0 E_RANGE [0, 0] t) ∧
    (∀ b ring, rest.length = 2 → 1 ≤ n → n ≤ 256 → s.place f.sess a = .bank b .plain false ring →
      (s.pathOn b false = false →
        ∃ t, exec (.winRead f) s = .next t ∧ (u.setWinPtr f a).replied opcWinRead f x 0 E_DLOST [0, 0] t) ∧
      (s.pathOn b false = true → s.cfg.may f.sess .r b = false → ∃ t, exec (.winRead f) s = .next t ∧
        ((u.recordFault f.sess E_WINDOW (BitVec.ofNat 32 a)).setWinPtr f a).replied opcWinRead f x 0 E_WINDOW [0, 0] t) ∧
      (s.cfg.may f.sess .r b = true → s.pathOn b false = true → burstSize a n = n →
        let w := u.cacheRead .window f.sess b n ring
        w.2.1 = false → w.1.length = n →
        ∃ t, exec (.winRead f) s = .next t ∧
          (w.2.2.setWinPtr f (a + n)).replied opcWinRead f x 0 E_OK (w.1 ++ beBytes 2 n) t))) ∧
  (∀ (s : State) (f : Frame) (x : Session) (bs : List Byte) (a : Nat), winStart f x = (a, bs) →
    s.performs opcWinWrite f x → s.bare = false →
    let u := s.taken f x
    (bs = [] ∨ 256 < bs.length →
      ∃ t, exec (.winWrite f) s = .next t ∧ u.replied opcWinWrite f x 0 E_RANGE [0, 0] t) ∧
    (∀ b ring, bs ≠ [] → bs.length ≤ 256 → s.place f.sess a = .bank b .plain false ring →
      (s.pathOn b false = false →
        ∃ t, exec (.winWrite f) s = .next t ∧ (u.setWinPtr f a).replied opcWinWrite f x 0 E_DLOST [0, 0] t) ∧
      (s.pathOn b false = true → s.cfg.may f.sess .w b = false → ∃ t, exec (.winWrite f) s = .next t ∧
        ((u.recordFault f.sess E_WINDOW (BitVec.ofNat 32 a)).setWinPtr f a).replied opcWinWrite f x 0 E_WINDOW [0, 0] t) ∧
      (s.cfg.may f.sess .w b = true → s.pathOn b false = true → burstSize a bs.length = bs.length →
        ∃ t, exec (.winWrite f) s = .next t ∧
          ((u.cacheWrite .window f.sess b bs ring).setWinPtr f (a + bs.length)).replied opcWinWrite f x 0 E_OK
            (beBytes 2 bs.length) t))) ∧
  (∀ (s : State) (f : Frame) (x : Session), s.performs opcWriteReg f x → s.bare = true → (f.data.getD 4 0).toNat = 1 →
    let u := s.taken f x
    let v : Word := BitVec.ofNat 32 (beNat (f.data.drop 5))
    (rcvFrame f 0 = true → keyOf v ≠ 0xC7 →
      ∃ t, exec (.recoveryErase f) s = .next t ∧ u.replied opcWriteReg f x 0 E_RSVD [0] t) ∧
    (rcvFrame f 0 = true → keyOf v = 0xC7 → v.getLsbD 1 = false → ∃ t, exec (.recoveryErase f) s = .next t ∧
      (u.setNv (fun n => { n with
        nvm := nvmErase n.nvm (0x1000 * bitsOf v 24 16) 0x1000
        erased := if n.erased.contains (bitsOf v 24 16) then n.erased else n.erased ++ [bitsOf v 24 16] })).replied
        opcWriteReg f x 0 E_OK [1] t) ∧
    (rcvFrame f 1 = true → keyOf v = 0xC7 → v.getLsbD 0 = false → ∃ t, exec (.recoveryReboot f) s = .next t ∧
      ∃ cause, t.life = .waiting cause ∧
        ({ u with life := t.life, freeCtr := t.freeCtr } : State).replied opcWriteReg f x 0 E_OK [1] t))

/-- R271, R273: MSG_SEND is refused by its length and by a full queue, with its buffer free again, or hands its buffer to
the gable, queues the handle and pends line 27; then it is answered, or waits for the reply; the reply is refused without
a pending command, while POOL is not ON (log 54) and by the buffer's checks, or goes out as the response; without one
E_TIMEOUT does 960 us after receipt; and a read of the message queue removes the oldest handle. -/
def Obligations.MessagesAreDeliveredAndAnswered : Prop :=
  (∀ (s : State) (f : Frame) (x : Session), s.performs opcMsgSend f x → s.bare = false →
    let g := f.sess
    let p := f.port
    (f.data = [] ∨ 480 < f.data.length →
      ∃ t, exec (.msgSend f) s = .next t ∧ (s.taken f x).replied opcMsgSend f x 0 E_RANGE [] t) ∧
    (f.data ≠ [] → f.data.length ≤ 480 → 8 ≤ (s.purlin.msgq[g.val]).length →
      ∃ t, exec (.msgSend f) s = .next t ∧ (s.taken f x).replied opcMsgSend f x 0 E_BUSY [] t) ∧
    (∀ a rest, f.data ≠ [] → f.data.length ≤ 480 → (s.purlin.msgq[g.val]).length < 8 → (s.port p).empty = a :: rest →
      let w := ((s.woken f x).putBytes (a + 8) (msgPayload f)).bufOp 8 a (.transfer (holderOf g))
      (w.1 ≠ E_OK → ∃ t, exec (.msgSend f) s = .next t ∧
        (w.2.2.2.bufferBack p).replied opcMsgSend f x 0 w.1 [] t) ∧
      (w.1 = E_OK → f.seq ≠ 0xFFFFFFFF → ∃ t, exec (.msgSend f) s = .next t ∧
        t.purlin.msgq[g.val] = s.purlin.msgq[g.val] ++ [a] ∧ (s.cfg.routed g 27 = true → t.linePending g 27 = true) ∧
        (f.flags = 0 → (t.port p).data = (s.port p).data ++ [x.response opcMsgSend 0 g E_OK f.seq []] ∧
          ∃ y, t.session g p = some y ∧ y.pending = none ∧ y.lastSeq = f.seq) ∧
        (f.flags = 1 → (t.port p).data = (s.port p).data ∧
          ∃ y, t.session g p = some y ∧ y.lastSeq = f.seq ∧
            y.pending = some {
              opc := opcMsgSend, seq := f.seq, reply := true, at_ := s.now, order := s.purlin.received + 1
              frame := none })))) ∧
  (∀ (s : State) (g : Gable) (p : Port) (x : Session) (c : PendingCmd), s.session g p = some x → x.pending = some c →
    c.reply = true → s.now < c.at_ + 960 → exec (.replyTimeout g p) s = .next s) ∧
  (∀ (s : State) (g : Gable) (p : Port) (x : Session) (c : PendingCmd), s.session g p = some x → x.pending = some c →
    c.reply = true → c.seq ≠ 0xFFFFFFFF → (s.port p).link = .trained → c.at_ + 960 ≤ s.now →
    ∃ t, exec (.replyTimeout g p) s = .next t ∧
      let r := x.response c.opc 0 g E_TIMEOUT c.seq []
      t.port p = { s.port p with data := (s.port p).data ++ [r] } ∧
      t.session g p = some { x with cached := some r, pending := none } ∧
      (∀ (h : Gable) (q : Port), (h, q) ≠ (g, p) → t.session h q = s.session h q) ∧
      (∀ q : Port, q ≠ p → t.port q = s.port q) ∧
      t = { s with purlin := { s.purlin with ports := t.purlin.ports, sess := t.purlin.sess } }) ∧
  (∀ (s : State) (g : Gable) (v : Word), let u := s.deviceAccess g
    u.admits g (.purReply g) v → v.getLsbD 0 = true →
    let p : Port := if v.getLsbD 1 then 1 else 0
    let q := u.replyCheck g (s.reg (.purReplyH g)).toNat
    (s.replyPending g p = none → ∃ t, exec (.purReply g v) s = .next t ∧ s.accessedOnly g (fun r => r = .purReply g) t ∧
      t.fieldOf (.purReply g) 15 8 = E_RANGE.toNat) ∧
    (s.replyPending g p ≠ none → s.domOn dPOOL = false → ∃ t, exec (.purReply g v) s = .next t ∧
      s.accessedOnly g (fun r => r = .purReply g) t ∧ t.fieldOf (.purReply g) 15 8 = E_DLOST.toNat) ∧
    (∀ c code, s.domOn dPOOL = true → s.replyPending g p = some c → q.1 = some code → ∃ t, exec (.purReply g v) s = .next t ∧
      t.fieldOf (.purReply g) 15 8 = code.toNat ∧ t.purlin = q.2.2.purlin) ∧
    (∀ c x, s.domOn dPOOL = true → s.replyPending g p = some c → s.session g p = some x → q.1 = none → c.seq ≠ 0xFFFFFFFF →
      (s.port p).link = .trained → ∃ t, exec (.purReply g v) s = .next t ∧
        t.fieldOf (.purReply g) 15 8 = E_OK.toNat ∧
        ∃ bs, (t.port p).data = (s.port p).data ++ [x.response c.opc 0 g E_OK c.seq bs] ∧
          t.session g p =
            some { x with cached := some (x.response c.opc 0 g E_OK c.seq bs), pending := none })) ∧
  (∀ (s : State) (g : Gable), let u := s.deviceAccess g
    s.up = true → s.reachable .link = true →
    (s.purlin.msgq[g.val] = [] → exec (.msgqRead g) s = .next { u with rdata := 0 }) ∧
    (∀ h rest, s.purlin.msgq[g.val] = h :: rest → ∃ t, exec (.msgqRead g) s = .next t ∧
      t.rdata = BitVec.ofNat 32 h ∧ t.purlin.msgq[g.val] = rest ∧
      (∀ o : Gable, o ≠ g → t.purlin.msgq[o.val] = s.purlin.msgq[o.val]) ∧
      (rest ≠ [] → t = { u with rdata := t.rdata, purlin := { u.purlin with msgq := t.purlin.msgq } })))

end
end

