-- ==== Sys2Proof/Laws/Memory.lean ====
section
/-! SUPPORT. Sparse memory: what a read finds after a write, and that every operation on a memory keeps its canonical
form. -/

namespace Sys2Proof.Machine

/-! ## Reading after writing -/

theorem memGet_memPut (d : Byte) (m : Memory) (a : Nat) (b : Byte) (x : Nat) (h : Memory.rising m = true) :
    memGet d (memPut d m a b) x = if x = a then b else memGet d m x := by
  induction m with
  | nil =>
    unfold memPut
    by_cases hb : b = d
    · by_cases hx : x = a <;> simp [hb, hx, memGet]
    · by_cases hx : x = a
      · simp [hb, hx, memGet]
      · simp [hb, hx, memGet, Ne.symm hx]
  | cons c rest ih =>
    obtain ⟨k, v⟩ := c
    have hr : Memory.rising rest = true := by
      cases rest with
      | nil => rfl
      | cons c2 r2 => simp [Memory.rising] at h; exact h.2
    have hlt : ∀ y, y ≤ k → memGet d rest y = d := by
      intro y hy
      clear ih
      induction rest generalizing k v with
      | nil => rfl
      | cons c2 r2 ih2 =>
        obtain ⟨j, w⟩ := c2
        simp [Memory.rising] at h
        have : j ≠ y := by omega
        simp only [memGet, if_neg this]
        refine ih2 j w ?_ ?_ (by omega)
        · exact h.2
        · cases r2 with
          | nil => rfl
          | cons c3 r3 => have h2 := h.2; simp [Memory.rising] at h2; exact h2.2
    unfold memPut
    by_cases h1 : a < k
    · have e : k ≠ a := by omega
      by_cases hb : b = d
      · by_cases hx : x = a
        · subst hx; simp [h1, hb, memGet, e, hlt x (by omega)]
        · simp [h1, hb, hx]
      · by_cases hx : x = a
        · subst hx; simp [h1, hb, memGet]
        · simp [h1, hb, hx, memGet, Ne.symm hx]
    · by_cases h2 : a = k
      · subst h2
        by_cases hb : b = d
        · by_cases hx : x = a
          · subst hx; simp [hb, hlt x (Nat.le_refl _)]
          · simp [hb, hx, memGet, Ne.symm hx]
        · by_cases hx : x = a
          · subst hx; simp [hb, memGet]
          · simp [hb, hx, memGet, Ne.symm hx]
      · simp only [if_neg h1, if_neg h2, memGet]
        by_cases hk : k = x
        · have : x ≠ a := by omega
          simp [hk, this]
        · simp only [if_neg hk]; exact ih hr

/-! ## The canonical form -/

/-- Every address of a memory is above `n`. -/
def Memory.above (n : Nat) (m : Memory) : Prop := ∀ c ∈ m, n < c.1

theorem Memory.rising_cons {k : Nat} {v : Byte} {m : Memory} :
    Memory.rising ((k, v) :: m) = true ↔ Memory.above k m ∧ Memory.rising m = true := by
  induction m generalizing k v with
  | nil => simp [Memory.rising, Memory.above]
  | cons c rest ih =>
    obtain ⟨j, w⟩ := c
    constructor
    · intro h
      simp only [Memory.rising, Bool.and_eq_true, decide_eq_true_eq] at h
      obtain ⟨h1, h2⟩ := h
      refine ⟨?_, h2⟩
      intro c hc
      rcases List.mem_cons.mp hc with rfl | hc
      · exact h1
      · have := (ih.mp h2).1 c hc; omega
    · rintro ⟨h1, h2⟩
      simp only [Memory.rising, Bool.and_eq_true, decide_eq_true_eq]
      exact ⟨h1 (j, w) (List.mem_cons_self ..), h2⟩

theorem memPut_mem (d : Byte) (m : Memory) (a : Nat) (b : Byte) (c : Nat × Byte) (h : c ∈ memPut d m a b) :
    (c = (a, b) ∧ b ≠ d) ∨ c ∈ m := by
  induction m with
  | nil => unfold memPut at h; split at h <;> simp_all
  | cons x rest ih =>
    obtain ⟨k, v⟩ := x
    unfold memPut at h
    split at h
    · split at h
      · exact .inr h
      · rcases List.mem_cons.mp h with rfl | h
        · exact .inl ⟨rfl, ‹_›⟩
        · exact .inr h
    · split at h
      · split at h
        · exact .inr (List.mem_cons_of_mem _ h)
        · rcases List.mem_cons.mp h with rfl | h
          · exact .inl ⟨rfl, ‹_›⟩
          · exact .inr (List.mem_cons_of_mem _ h)
      · rcases List.mem_cons.mp h with rfl | h
        · exact .inr (List.mem_cons_self ..)
        · rcases ih h with h | h
          · exact .inl h
          · exact .inr (List.mem_cons_of_mem _ h)

theorem memPut_rising (d : Byte) (m : Memory) (a : Nat) (b : Byte) (h : Memory.rising m = true) :
    Memory.rising (memPut d m a b) = true := by
  induction m with
  | nil => unfold memPut; split <;> rfl
  | cons x rest ih =>
    obtain ⟨k, v⟩ := x
    have hc := Memory.rising_cons.mp h
    unfold memPut
    split
    · split
      · exact h
      · rename_i h1 _
        refine Memory.rising_cons.mpr ⟨?_, h⟩
        intro c hm
        rcases List.mem_cons.mp hm with rfl | hm
        · exact h1
        · have := hc.1 c hm; omega
    · split
      · rename_i h2
        subst h2
        split
        · exact hc.2
        · exact Memory.rising_cons.mpr hc
      · rename_i h1 h2
        refine Memory.rising_cons.mpr ⟨?_, ih hc.2⟩
        intro c hm
        rcases memPut_mem d rest a b c hm with ⟨rfl, _⟩ | hm
        · show k < a; omega
        · exact hc.1 c hm

theorem Memory.wfBy_iff (d : Byte) (m : Memory) :
    Memory.wfBy d m = true ↔ Memory.rising m = true ∧ ∀ c ∈ m, c.2 ≠ d := by
  unfold Memory.wfBy; simp

/-- Writing a byte keeps the canonical form. -/
theorem memPut_wfBy (d : Byte) (m : Memory) (a : Nat) (b : Byte) (h : Memory.wfBy d m = true) :
    Memory.wfBy d (memPut d m a b) = true := by
  rw [Memory.wfBy_iff] at *
  refine ⟨memPut_rising d m a b h.1, ?_⟩
  intro c hc
  rcases memPut_mem d m a b c hc with ⟨rfl, hb⟩ | hc
  · exact hb
  · exact h.2 c hc

/-- Writing bytes keeps the canonical form. -/
theorem memPutAll_wfBy (d : Byte) (bs : List Byte) (m : Memory) (a : Nat) (h : Memory.wfBy d m = true) :
    Memory.wfBy d (memPutAll d m a bs) = true := by
  induction bs generalizing m a with
  | nil => exact h
  | cons b bs ih => exact ih _ _ (memPut_wfBy d m a b h)

/-- Dropping bytes keeps the canonical form. -/
theorem filter_wfBy (d : Byte) (m : Memory) (p : Nat × Byte → Bool) (h : Memory.wfBy d m = true) :
    Memory.wfBy d (m.filter p) = true := by
  rw [Memory.wfBy_iff] at *
  refine ⟨?_, fun c hc => h.2 c ((List.mem_filter.mp hc).1)⟩
  obtain ⟨h, -⟩ := h
  induction m with
  | nil => rfl
  | cons x rest ih =>
    obtain ⟨k, v⟩ := x
    have hc := Memory.rising_cons.mp h
    rw [List.filter_cons]
    split
    · exact Memory.rising_cons.mpr ⟨fun c hm => hc.1 c ((List.mem_filter.mp hm).1), ih hc.2⟩
    · exact ih hc.2

/-- Two canonical memories that read alike everywhere are equal data. -/
theorem memGet_ext (d : Byte) (m n : Memory) (hm : Memory.wfBy d m = true) (hn : Memory.wfBy d n = true)
    (h : ∀ a, memGet d m a = memGet d n a) : m = n := by
  have below : ∀ (l : Memory) (k : Nat), Memory.above k l → ∀ y, y ≤ k → memGet d l y = d := by
    intro l k hl y hy
    induction l with
    | nil => rfl
    | cons c rest ih =>
      obtain ⟨j, w⟩ := c
      have hj : k < j := hl (j, w) (List.mem_cons_self ..)
      have hne : j ≠ y := by omega
      simp only [memGet, if_neg hne]
      exact ih (fun c hc => hl c (List.mem_cons_of_mem _ hc))
  induction m generalizing n with
  | nil =>
    cases n with
    | nil => rfl
    | cons c rest =>
      obtain ⟨k, v⟩ := c
      have := h k
      rw [Memory.wfBy_iff] at hn
      simp [memGet] at this
      exact absurd this.symm (hn.2 (k, v) (List.mem_cons_self ..))
  | cons c rest ih =>
    obtain ⟨k, v⟩ := c
    rw [Memory.wfBy_iff] at hm hn
    have hmc := Memory.rising_cons.mp hm.1
    have hv : v ≠ d := hm.2 (k, v) (List.mem_cons_self ..)
    cases n with
    | nil => have := h k; simp [memGet] at this; exact absurd this hv
    | cons c2 rest2 =>
      obtain ⟨j, w⟩ := c2
      have hnc := Memory.rising_cons.mp hn.1
      have hw : w ≠ d := hn.2 (j, w) (List.mem_cons_self ..)
      have hkj : k = j := by
        rcases Nat.lt_trichotomy k j with hlt | heq | hgt
        · have e := h k
          have hne : j ≠ k := by omega
          simp [memGet, hne] at e
          rw [below rest2 j hnc.1 k (by omega)] at e
          exact absurd e hv
        · exact heq
        · have e := h j
          have hne : k ≠ j := by omega
          simp [memGet, hne] at e
          rw [below rest k hmc.1 j (by omega)] at e
          exact absurd e.symm hw
      subst hkj
      have hvw : v = w := by have e := h k; simpa [memGet] using e
      subst hvw
      congr 1
      apply ih
      · rw [Memory.wfBy_iff]; exact ⟨hmc.2, fun c hc => hm.2 c (List.mem_cons_of_mem _ hc)⟩
      · rw [Memory.wfBy_iff]; exact ⟨hnc.2, fun c hc => hn.2 c (List.mem_cons_of_mem _ hc)⟩
      · intro a
        by_cases hak : k = a
        · subst hak; rw [below rest k hmc.1 k (Nat.le_refl _), below rest2 k hnc.1 k (Nat.le_refl _)]
        · have e := h a; simpa [memGet, hak] using e

/-! ## The machine's memories -/

theorem Banks.putWord_wf (b : Banks) (w : Nat) (bytes : List Byte) (e : Option Ecc) (h : Memory.wf b.mem = true) :
    Memory.wf (b.putWord w bytes e).mem = true := memPutAll_wfBy 0 _ _ _ h

theorem State.zeroBank_wf (s : State) (n : BankNo) (h : Memory.wf s.banks.mem = true) :
    Memory.wf (s.zeroBank n).banks.mem = true := filter_wfBy 0 _ _ h

theorem State.undefBank_wf (s : State) (n : BankNo) (h : Memory.wf s.banks.mem = true) :
    Memory.wf (s.undefBank n).banks.mem = true := filter_wfBy 0 _ _ h

theorem State.eccEvent_banks (s : State) (req w : Nat) (ue : Bool) : (s.eccEvent req w ue).banks = s.banks := by
  unfold State.eccEvent; cases ue <;> rfl

theorem State.bankRead_mem (s : State) (req w : Nat) : (s.bankRead req w).2.2.banks.mem = s.banks.mem := by
  unfold State.bankRead
  split
  · rfl
  · simp [State.setBanks, State.eccEvent_banks]
  · simp [State.eccEvent_banks]

theorem State.bankWrite_wf (s : State) (a : Nat) (bytes : List Byte) (h : Memory.wf s.banks.mem = true) :
    Memory.wf (s.bankWrite a bytes).banks.mem = true := by
  unfold State.bankWrite
  simp only
  split
  · exact Banks.putWord_wf _ _ _ _ h
  · split <;> exact Banks.putWord_wf _ _ _ _ h

theorem State.bankAlias_wf (s : State) (req a : Nat) (bytes : List Byte) (k : StoreKind)
    (h : Memory.wf s.banks.mem = true) : Memory.wf (s.bankAlias req a bytes k).banks.mem = true := by
  unfold State.bankAlias
  simp only
  split
  · show Memory.wf (s.eccEvent req (wordOf a) true).banks.mem = true
    rw [State.eccEvent_banks]; exact h
  · refine Banks.putWord_wf _ _ _ _ ?_
    rw [State.eccEvent_banks]; exact h
  · exact Banks.putWord_wf _ _ _ _ h

theorem State.cleanLine_wf (s : State) (i : Fin 48) (h : Memory.wf s.banks.mem = true) :
    Memory.wf (s.cleanLine i).banks.mem = true := by
  unfold State.cleanLine
  simp only
  split
  · show Memory.wf (State.banks (List.foldl _ s _)).mem = true
    generalize List.range 4 = l
    have : ∀ t : State, Memory.wf t.banks.mem = true → Memory.wf (State.banks (List.foldl
        (fun (t : State) k => t.setBanks (fun b => b.putWord (4 * (s.cache.lines[i.val]).tag + k)
          (((lineBytes (s.cache.lines[i.val]).data).drop (8 * k)).take 8)
          (if (s.cache.lines[i.val]).bad.getLsbD k then some .uncorrectable else none))) t l)).mem = true := by
      induction l with
      | nil => intro t ht; exact ht
      | cons k l ih => intro t ht; exact ih _ (Banks.putWord_wf _ _ _ _ ht)
    exact this s h
  · exact h

theorem Nonvolatile.putPage_wf (n : Nonvolatile) (p : Nat) (data : List Byte) (h : Memory.wf n.proof = true) :
    Memory.wf (n.putPage p data).proof = true := memPutAll_wfBy 0 _ _ _ h

theorem nvmErase_wf (n : Nvm) (a count : Nat) (h : Memory.wfBy 0xFF n.bytes = true) :
    Memory.wfBy 0xFF (nvmErase n a count).bytes = true := filter_wfBy _ _ _ h

theorem nvmProgram_wf (n : Nvm) (a : Nat) (bs : List Byte) (h : Memory.wfBy 0xFF n.bytes = true) :
    Memory.wfBy 0xFF (nvmProgram n a bs).bytes = true := memPutAll_wfBy _ _ _ _ h

theorem State.reset_wf : Memory.wf State.reset.banks.mem = true ∧ Memory.wf State.reset.nv.proof = true ∧
    Memory.wfBy 0xFF State.reset.nv.nvm.bytes = true := ⟨rfl, rfl, rfl⟩

end Sys2Proof.Machine
end

