-- ==== Sys2Proof/Laws/Bits.lean ====
section
/-! SUPPORT. Bit fields of words: what a mask, a replaced field and a set or cleared bit read as. -/

namespace Sys2Proof.Machine

theorem getLsbD_maskBits (hi lo k : Nat) (h : lo ≤ hi) :
    (maskBits hi lo).getLsbD k = (decide (lo ≤ k) && decide (k ≤ hi) && decide (k < 32)) := by
  unfold maskBits
  rw [BitVec.getLsbD_ofNat, Nat.testBit_mul_two_pow, Nat.testBit_two_pow_sub_one]
  by_cases h1 : lo ≤ k <;> by_cases h2 : k < 32 <;> simp [h1, h2]
  omega

theorem getLsbD_bitMask (j k : Nat) : (bitMask j).getLsbD k = (decide (k = j) && decide (k < 32)) := by
  unfold bitMask
  rw [BitVec.getLsbD_ofNat, Nat.testBit_two_pow]
  by_cases h : j = k <;> by_cases h2 : k < 32 <;> simp [h, h2, eq_comm]

theorem getLsbD_putBits (w : Word) (hi lo v k : Nat) (h : lo ≤ hi) :
    (putBits w hi lo v).getLsbD k =
      if lo ≤ k ∧ k ≤ hi ∧ k < 32 then v.testBit (k - lo) else w.getLsbD k := by
  unfold putBits
  rw [BitVec.getLsbD_or, BitVec.getLsbD_and, BitVec.getLsbD_and, BitVec.getLsbD_not, getLsbD_maskBits _ _ _ h,
    BitVec.getLsbD_ofNat, Nat.testBit_mul_two_pow]
  by_cases h1 : lo ≤ k <;> by_cases h2 : k ≤ hi <;> by_cases h3 : k < 32 <;> simp [h1, h2, h3]
  all_goals exact BitVec.getLsbD_of_ge w k (by omega)

theorem testBit_bitsOf (w : Word) (hi lo j : Nat) :
    (bitsOf w hi lo).testBit j = (decide (j < hi - lo + 1) && w.getLsbD (lo + j)) := by
  unfold bitsOf
  rw [Nat.testBit_mod_two_pow, Nat.testBit_div_two_pow, BitVec.testBit_toNat, Nat.add_comm lo j]

/-- A replaced field reads as the new value, cut to its width. -/
theorem bitsOf_putBits_same (w : Word) (hi lo v : Nat) (h : lo ≤ hi) (h32 : hi < 32) :
    bitsOf (putBits w hi lo v) hi lo = v % 2 ^ (hi - lo + 1) := by
  apply Nat.eq_of_testBit_eq
  intro j
  rw [testBit_bitsOf, getLsbD_putBits _ _ _ _ _ h, Nat.testBit_mod_two_pow]
  by_cases hj : j < hi - lo + 1
  · rw [if_pos ⟨by omega, by omega, by omega⟩]; simp
  · simp [hj]

/-- A replaced field leaves every field that shares no bit with it. -/
theorem bitsOf_putBits_ne (w : Word) (hi lo v hi' lo' : Nat) (h : lo ≤ hi) (hd : hi < lo' ∨ hi' < lo) (h' : lo' ≤ hi') :
    bitsOf (putBits w hi lo v) hi' lo' = bitsOf w hi' lo' := by
  apply Nat.eq_of_testBit_eq
  intro j
  rw [testBit_bitsOf, testBit_bitsOf, getLsbD_putBits _ _ _ _ _ h]
  by_cases hj : j < hi' - lo' + 1
  · rw [if_neg (by omega)]
  · simp [hj]

theorem bitsOf_lt (w : Word) (hi lo : Nat) : bitsOf w hi lo < 2 ^ (hi - lo + 1) :=
  Nat.mod_lt _ (Nat.two_pow_pos _)

/-- Cleared bits outside a field leave it. -/
theorem bitsOf_and_not (w : Word) (hi lo : Nat) (m : Word) (hl : lo ≤ hi)
    (hm : ∀ k, lo ≤ k → k ≤ hi → m.getLsbD k = false) : bitsOf (w &&& ~~~ m) hi lo = bitsOf w hi lo := by
  apply Nat.eq_of_testBit_eq
  intro j
  rw [testBit_bitsOf, testBit_bitsOf]
  by_cases hj : j < hi - lo + 1
  · simp only [hj, decide_true, Bool.true_and]
    rw [BitVec.getLsbD_and, BitVec.getLsbD_not, hm _ (by omega) (by omega)]
    by_cases h32 : lo + j < 32
    · simp [h32]
    · simp [h32, BitVec.getLsbD_of_ge w _ (Nat.le_of_not_lt h32)]
  · simp [hj]

theorem bitsOf_clear (w : Word) (k hi lo : Nat) (h : hi < k ∨ k < lo) (hl : lo ≤ hi) :
    bitsOf (w &&& ~~~ bitMask k) hi lo = bitsOf w hi lo := by
  apply bitsOf_and_not _ _ _ _ hl
  intro j h1 h2; rw [getLsbD_bitMask]; simp; omega

/-- A set bit outside a field leaves it. -/
theorem bitsOf_or (w : Word) (k hi lo : Nat) (h : hi < k ∨ k < lo) (hl : lo ≤ hi) :
    bitsOf (w ||| bitMask k) hi lo = bitsOf w hi lo := by
  apply Nat.eq_of_testBit_eq
  intro j
  rw [testBit_bitsOf, testBit_bitsOf]
  by_cases hj : j < hi - lo + 1
  · simp only [hj, decide_true, Bool.true_and]
    rw [BitVec.getLsbD_or, getLsbD_bitMask]
    have : ¬ (lo + j = k) := by omega
    simp [this]
  · simp [hj]

theorem getElem_bitMask (j k : Nat) (h : k < 32) : (bitMask j)[k] = decide (k = j) := by
  have := getLsbD_bitMask j k
  rw [BitVec.getLsbD_eq_getElem h] at this
  simpa [h] using this

end Sys2Proof.Machine
end

