-- ==== Sys2Proof/Laws/State.lean ====
section
/-! SUPPORT. One lemma for each field of the state under each update, so that no proof unfolds a record update. -/

namespace Sys2Proof.Machine

/-! ### setReg -/

@[simp] theorem State.setReg_pending (s : State) (r : Reg) (v : Word) : (s.setReg r v).pending = s.pending := rfl
@[simp] theorem State.setReg_now (s : State) (r : Reg) (v : Word) : (s.setReg r v).now = s.now := rfl
@[simp] theorem State.setReg_freeCtr (s : State) (r : Reg) (v : Word) : (s.setReg r v).freeCtr = s.freeCtr := rfl
@[simp] theorem State.setReg_rdata (s : State) (r : Reg) (v : Word) : (s.setReg r v).rdata = s.rdata := rfl
@[simp] theorem State.setReg_life (s : State) (r : Reg) (v : Word) : (s.setReg r v).life = s.life := rfl
@[simp] theorem State.setReg_vinMv (s : State) (r : Reg) (v : Word) : (s.setReg r v).vinMv = s.vinMv := rfl
@[simp] theorem State.setReg_vstMv (s : State) (r : Reg) (v : Word) : (s.setReg r v).vstMv = s.vstMv := rfl
@[simp] theorem State.setReg_vbatMv (s : State) (r : Reg) (v : Word) : (s.setReg r v).vbatMv = s.vbatMv := rfl
@[simp] theorem State.setReg_vsysMv (s : State) (r : Reg) (v : Word) : (s.setReg r v).vsysMv = s.vsysMv := rfl
@[simp] theorem State.setReg_regs (s : State) (r : Reg) (v : Word) : (s.setReg r v).regs = regPut s.regs r v := rfl
@[simp] theorem State.setReg_supply (s : State) (r : Reg) (v : Word) : (s.setReg r v).supply = s.supply := rfl
@[simp] theorem State.setReg_gutter (s : State) (r : Reg) (v : Word) : (s.setReg r v).gutter = s.gutter := rfl
@[simp] theorem State.setReg_clk (s : State) (r : Reg) (v : Word) : (s.setReg r v).clk = s.clk := rfl
@[simp] theorem State.setReg_power (s : State) (r : Reg) (v : Word) : (s.setReg r v).power = s.power := rfl
@[simp] theorem State.setReg_res (s : State) (r : Reg) (v : Word) : (s.setReg r v).res = s.res := rfl
@[simp] theorem State.setReg_ridge (s : State) (r : Reg) (v : Word) : (s.setReg r v).ridge = s.ridge := rfl
@[simp] theorem State.setReg_core (s : State) (r : Reg) (v : Word) : (s.setReg r v).core = s.core := rfl
@[simp] theorem State.setReg_gabs (s : State) (r : Reg) (v : Word) : (s.setReg r v).gabs = s.gabs := rfl
@[simp] theorem State.setReg_frame (s : State) (r : Reg) (v : Word) : (s.setReg r v).frame = s.frame := rfl
@[simp] theorem State.setReg_cache (s : State) (r : Reg) (v : Word) : (s.setReg r v).cache = s.cache := rfl
@[simp] theorem State.setReg_banks (s : State) (r : Reg) (v : Word) : (s.setReg r v).banks = s.banks := rfl
@[simp] theorem State.setReg_thatch (s : State) (r : Reg) (v : Word) : (s.setReg r v).thatch = s.thatch := rfl
@[simp] theorem State.setReg_burin (s : State) (r : Reg) (v : Word) : (s.setReg r v).burin = s.burin := rfl
@[simp] theorem State.setReg_purlin (s : State) (r : Reg) (v : Word) : (s.setReg r v).purlin = s.purlin := rfl
@[simp] theorem State.setReg_nv (s : State) (r : Reg) (v : Word) : (s.setReg r v).nv = s.nv := rfl
@[simp] theorem State.setReg_root (s : State) (r : Reg) (v : Word) : (s.setReg r v).root = s.root := rfl
@[simp] theorem State.setReg_cfg (s : State) (r : Reg) (v : Word) : (s.setReg r v).cfg = s.cfg := rfl

/-! ### setPower -/

@[simp] theorem State.setPower_pending (s : State) (f : Power → Power) : (s.setPower f).pending = s.pending := rfl
@[simp] theorem State.setPower_now (s : State) (f : Power → Power) : (s.setPower f).now = s.now := rfl
@[simp] theorem State.setPower_freeCtr (s : State) (f : Power → Power) : (s.setPower f).freeCtr = s.freeCtr := rfl
@[simp] theorem State.setPower_rdata (s : State) (f : Power → Power) : (s.setPower f).rdata = s.rdata := rfl
@[simp] theorem State.setPower_life (s : State) (f : Power → Power) : (s.setPower f).life = s.life := rfl
@[simp] theorem State.setPower_vinMv (s : State) (f : Power → Power) : (s.setPower f).vinMv = s.vinMv := rfl
@[simp] theorem State.setPower_vstMv (s : State) (f : Power → Power) : (s.setPower f).vstMv = s.vstMv := rfl
@[simp] theorem State.setPower_vbatMv (s : State) (f : Power → Power) : (s.setPower f).vbatMv = s.vbatMv := rfl
@[simp] theorem State.setPower_vsysMv (s : State) (f : Power → Power) : (s.setPower f).vsysMv = s.vsysMv := rfl
@[simp] theorem State.setPower_regs (s : State) (f : Power → Power) : (s.setPower f).regs = s.regs := rfl
@[simp] theorem State.setPower_supply (s : State) (f : Power → Power) : (s.setPower f).supply = s.supply := rfl
@[simp] theorem State.setPower_gutter (s : State) (f : Power → Power) : (s.setPower f).gutter = s.gutter := rfl
@[simp] theorem State.setPower_clk (s : State) (f : Power → Power) : (s.setPower f).clk = s.clk := rfl
@[simp] theorem State.setPower_power (s : State) (f : Power → Power) : (s.setPower f).power = f s.power := rfl
@[simp] theorem State.setPower_res (s : State) (f : Power → Power) : (s.setPower f).res = s.res := rfl
@[simp] theorem State.setPower_ridge (s : State) (f : Power → Power) : (s.setPower f).ridge = s.ridge := rfl
@[simp] theorem State.setPower_core (s : State) (f : Power → Power) : (s.setPower f).core = s.core := rfl
@[simp] theorem State.setPower_gabs (s : State) (f : Power → Power) : (s.setPower f).gabs = s.gabs := rfl
@[simp] theorem State.setPower_frame (s : State) (f : Power → Power) : (s.setPower f).frame = s.frame := rfl
@[simp] theorem State.setPower_cache (s : State) (f : Power → Power) : (s.setPower f).cache = s.cache := rfl
@[simp] theorem State.setPower_banks (s : State) (f : Power → Power) : (s.setPower f).banks = s.banks := rfl
@[simp] theorem State.setPower_thatch (s : State) (f : Power → Power) : (s.setPower f).thatch = s.thatch := rfl
@[simp] theorem State.setPower_burin (s : State) (f : Power → Power) : (s.setPower f).burin = s.burin := rfl
@[simp] theorem State.setPower_purlin (s : State) (f : Power → Power) : (s.setPower f).purlin = s.purlin := rfl
@[simp] theorem State.setPower_nv (s : State) (f : Power → Power) : (s.setPower f).nv = s.nv := rfl
@[simp] theorem State.setPower_root (s : State) (f : Power → Power) : (s.setPower f).root = s.root := rfl
@[simp] theorem State.setPower_cfg (s : State) (f : Power → Power) : (s.setPower f).cfg = s.cfg := rfl

/-! ### setSupply -/

@[simp] theorem State.setSupply_pending (s : State) (f : Supply → Supply) : (s.setSupply f).pending = s.pending := rfl
@[simp] theorem State.setSupply_now (s : State) (f : Supply → Supply) : (s.setSupply f).now = s.now := rfl
@[simp] theorem State.setSupply_freeCtr (s : State) (f : Supply → Supply) : (s.setSupply f).freeCtr = s.freeCtr := rfl
@[simp] theorem State.setSupply_rdata (s : State) (f : Supply → Supply) : (s.setSupply f).rdata = s.rdata := rfl
@[simp] theorem State.setSupply_life (s : State) (f : Supply → Supply) : (s.setSupply f).life = s.life := rfl
@[simp] theorem State.setSupply_vinMv (s : State) (f : Supply → Supply) : (s.setSupply f).vinMv = s.vinMv := rfl
@[simp] theorem State.setSupply_vstMv (s : State) (f : Supply → Supply) : (s.setSupply f).vstMv = s.vstMv := rfl
@[simp] theorem State.setSupply_vbatMv (s : State) (f : Supply → Supply) : (s.setSupply f).vbatMv = s.vbatMv := rfl
@[simp] theorem State.setSupply_vsysMv (s : State) (f : Supply → Supply) : (s.setSupply f).vsysMv = s.vsysMv := rfl
@[simp] theorem State.setSupply_regs (s : State) (f : Supply → Supply) : (s.setSupply f).regs = s.regs := rfl
@[simp] theorem State.setSupply_supply (s : State) (f : Supply → Supply) : (s.setSupply f).supply = f s.supply := rfl
@[simp] theorem State.setSupply_gutter (s : State) (f : Supply → Supply) : (s.setSupply f).gutter = s.gutter := rfl
@[simp] theorem State.setSupply_clk (s : State) (f : Supply → Supply) : (s.setSupply f).clk = s.clk := rfl
@[simp] theorem State.setSupply_power (s : State) (f : Supply → Supply) : (s.setSupply f).power = s.power := rfl
@[simp] theorem State.setSupply_res (s : State) (f : Supply → Supply) : (s.setSupply f).res = s.res := rfl
@[simp] theorem State.setSupply_ridge (s : State) (f : Supply → Supply) : (s.setSupply f).ridge = s.ridge := rfl
@[simp] theorem State.setSupply_core (s : State) (f : Supply → Supply) : (s.setSupply f).core = s.core := rfl
@[simp] theorem State.setSupply_gabs (s : State) (f : Supply → Supply) : (s.setSupply f).gabs = s.gabs := rfl
@[simp] theorem State.setSupply_frame (s : State) (f : Supply → Supply) : (s.setSupply f).frame = s.frame := rfl
@[simp] theorem State.setSupply_cache (s : State) (f : Supply → Supply) : (s.setSupply f).cache = s.cache := rfl
@[simp] theorem State.setSupply_banks (s : State) (f : Supply → Supply) : (s.setSupply f).banks = s.banks := rfl
@[simp] theorem State.setSupply_thatch (s : State) (f : Supply → Supply) : (s.setSupply f).thatch = s.thatch := rfl
@[simp] theorem State.setSupply_burin (s : State) (f : Supply → Supply) : (s.setSupply f).burin = s.burin := rfl
@[simp] theorem State.setSupply_purlin (s : State) (f : Supply → Supply) : (s.setSupply f).purlin = s.purlin := rfl
@[simp] theorem State.setSupply_nv (s : State) (f : Supply → Supply) : (s.setSupply f).nv = s.nv := rfl
@[simp] theorem State.setSupply_root (s : State) (f : Supply → Supply) : (s.setSupply f).root = s.root := rfl
@[simp] theorem State.setSupply_cfg (s : State) (f : Supply → Supply) : (s.setSupply f).cfg = s.cfg := rfl

/-! ### setGutter -/

@[simp] theorem State.setGutter_pending (s : State) (f : Gutter → Gutter) : (s.setGutter f).pending = s.pending := rfl
@[simp] theorem State.setGutter_now (s : State) (f : Gutter → Gutter) : (s.setGutter f).now = s.now := rfl
@[simp] theorem State.setGutter_freeCtr (s : State) (f : Gutter → Gutter) : (s.setGutter f).freeCtr = s.freeCtr := rfl
@[simp] theorem State.setGutter_rdata (s : State) (f : Gutter → Gutter) : (s.setGutter f).rdata = s.rdata := rfl
@[simp] theorem State.setGutter_life (s : State) (f : Gutter → Gutter) : (s.setGutter f).life = s.life := rfl
@[simp] theorem State.setGutter_vinMv (s : State) (f : Gutter → Gutter) : (s.setGutter f).vinMv = s.vinMv := rfl
@[simp] theorem State.setGutter_vstMv (s : State) (f : Gutter → Gutter) : (s.setGutter f).vstMv = s.vstMv := rfl
@[simp] theorem State.setGutter_vbatMv (s : State) (f : Gutter → Gutter) : (s.setGutter f).vbatMv = s.vbatMv := rfl
@[simp] theorem State.setGutter_vsysMv (s : State) (f : Gutter → Gutter) : (s.setGutter f).vsysMv = s.vsysMv := rfl
@[simp] theorem State.setGutter_regs (s : State) (f : Gutter → Gutter) : (s.setGutter f).regs = s.regs := rfl
@[simp] theorem State.setGutter_supply (s : State) (f : Gutter → Gutter) : (s.setGutter f).supply = s.supply := rfl
@[simp] theorem State.setGutter_gutter (s : State) (f : Gutter → Gutter) : (s.setGutter f).gutter = f s.gutter := rfl
@[simp] theorem State.setGutter_clk (s : State) (f : Gutter → Gutter) : (s.setGutter f).clk = s.clk := rfl
@[simp] theorem State.setGutter_power (s : State) (f : Gutter → Gutter) : (s.setGutter f).power = s.power := rfl
@[simp] theorem State.setGutter_res (s : State) (f : Gutter → Gutter) : (s.setGutter f).res = s.res := rfl
@[simp] theorem State.setGutter_ridge (s : State) (f : Gutter → Gutter) : (s.setGutter f).ridge = s.ridge := rfl
@[simp] theorem State.setGutter_core (s : State) (f : Gutter → Gutter) : (s.setGutter f).core = s.core := rfl
@[simp] theorem State.setGutter_gabs (s : State) (f : Gutter → Gutter) : (s.setGutter f).gabs = s.gabs := rfl
@[simp] theorem State.setGutter_frame (s : State) (f : Gutter → Gutter) : (s.setGutter f).frame = s.frame := rfl
@[simp] theorem State.setGutter_cache (s : State) (f : Gutter → Gutter) : (s.setGutter f).cache = s.cache := rfl
@[simp] theorem State.setGutter_banks (s : State) (f : Gutter → Gutter) : (s.setGutter f).banks = s.banks := rfl
@[simp] theorem State.setGutter_thatch (s : State) (f : Gutter → Gutter) : (s.setGutter f).thatch = s.thatch := rfl
@[simp] theorem State.setGutter_burin (s : State) (f : Gutter → Gutter) : (s.setGutter f).burin = s.burin := rfl
@[simp] theorem State.setGutter_purlin (s : State) (f : Gutter → Gutter) : (s.setGutter f).purlin = s.purlin := rfl
@[simp] theorem State.setGutter_nv (s : State) (f : Gutter → Gutter) : (s.setGutter f).nv = s.nv := rfl
@[simp] theorem State.setGutter_root (s : State) (f : Gutter → Gutter) : (s.setGutter f).root = s.root := rfl
@[simp] theorem State.setGutter_cfg (s : State) (f : Gutter → Gutter) : (s.setGutter f).cfg = s.cfg := rfl

/-! ### setClk -/

@[simp] theorem State.setClk_pending (s : State) (f : Clocks → Clocks) : (s.setClk f).pending = s.pending := rfl
@[simp] theorem State.setClk_now (s : State) (f : Clocks → Clocks) : (s.setClk f).now = s.now := rfl
@[simp] theorem State.setClk_freeCtr (s : State) (f : Clocks → Clocks) : (s.setClk f).freeCtr = s.freeCtr := rfl
@[simp] theorem State.setClk_rdata (s : State) (f : Clocks → Clocks) : (s.setClk f).rdata = s.rdata := rfl
@[simp] theorem State.setClk_life (s : State) (f : Clocks → Clocks) : (s.setClk f).life = s.life := rfl
@[simp] theorem State.setClk_vinMv (s : State) (f : Clocks → Clocks) : (s.setClk f).vinMv = s.vinMv := rfl
@[simp] theorem State.setClk_vstMv (s : State) (f : Clocks → Clocks) : (s.setClk f).vstMv = s.vstMv := rfl
@[simp] theorem State.setClk_vbatMv (s : State) (f : Clocks → Clocks) : (s.setClk f).vbatMv = s.vbatMv := rfl
@[simp] theorem State.setClk_vsysMv (s : State) (f : Clocks → Clocks) : (s.setClk f).vsysMv = s.vsysMv := rfl
@[simp] theorem State.setClk_regs (s : State) (f : Clocks → Clocks) : (s.setClk f).regs = s.regs := rfl
@[simp] theorem State.setClk_supply (s : State) (f : Clocks → Clocks) : (s.setClk f).supply = s.supply := rfl
@[simp] theorem State.setClk_gutter (s : State) (f : Clocks → Clocks) : (s.setClk f).gutter = s.gutter := rfl
@[simp] theorem State.setClk_clk (s : State) (f : Clocks → Clocks) : (s.setClk f).clk = f s.clk := rfl
@[simp] theorem State.setClk_power (s : State) (f : Clocks → Clocks) : (s.setClk f).power = s.power := rfl
@[simp] theorem State.setClk_res (s : State) (f : Clocks → Clocks) : (s.setClk f).res = s.res := rfl
@[simp] theorem State.setClk_ridge (s : State) (f : Clocks → Clocks) : (s.setClk f).ridge = s.ridge := rfl
@[simp] theorem State.setClk_core (s : State) (f : Clocks → Clocks) : (s.setClk f).core = s.core := rfl
@[simp] theorem State.setClk_gabs (s : State) (f : Clocks → Clocks) : (s.setClk f).gabs = s.gabs := rfl
@[simp] theorem State.setClk_frame (s : State) (f : Clocks → Clocks) : (s.setClk f).frame = s.frame := rfl
@[simp] theorem State.setClk_cache (s : State) (f : Clocks → Clocks) : (s.setClk f).cache = s.cache := rfl
@[simp] theorem State.setClk_banks (s : State) (f : Clocks → Clocks) : (s.setClk f).banks = s.banks := rfl
@[simp] theorem State.setClk_thatch (s : State) (f : Clocks → Clocks) : (s.setClk f).thatch = s.thatch := rfl
@[simp] theorem State.setClk_burin (s : State) (f : Clocks → Clocks) : (s.setClk f).burin = s.burin := rfl
@[simp] theorem State.setClk_purlin (s : State) (f : Clocks → Clocks) : (s.setClk f).purlin = s.purlin := rfl
@[simp] theorem State.setClk_nv (s : State) (f : Clocks → Clocks) : (s.setClk f).nv = s.nv := rfl
@[simp] theorem State.setClk_root (s : State) (f : Clocks → Clocks) : (s.setClk f).root = s.root := rfl
@[simp] theorem State.setClk_cfg (s : State) (f : Clocks → Clocks) : (s.setClk f).cfg = s.cfg := rfl

/-! ### setRidge -/

@[simp] theorem State.setRidge_pending (s : State) (f : Ridge → Ridge) : (s.setRidge f).pending = s.pending := rfl
@[simp] theorem State.setRidge_now (s : State) (f : Ridge → Ridge) : (s.setRidge f).now = s.now := rfl
@[simp] theorem State.setRidge_freeCtr (s : State) (f : Ridge → Ridge) : (s.setRidge f).freeCtr = s.freeCtr := rfl
@[simp] theorem State.setRidge_rdata (s : State) (f : Ridge → Ridge) : (s.setRidge f).rdata = s.rdata := rfl
@[simp] theorem State.setRidge_life (s : State) (f : Ridge → Ridge) : (s.setRidge f).life = s.life := rfl
@[simp] theorem State.setRidge_vinMv (s : State) (f : Ridge → Ridge) : (s.setRidge f).vinMv = s.vinMv := rfl
@[simp] theorem State.setRidge_vstMv (s : State) (f : Ridge → Ridge) : (s.setRidge f).vstMv = s.vstMv := rfl
@[simp] theorem State.setRidge_vbatMv (s : State) (f : Ridge → Ridge) : (s.setRidge f).vbatMv = s.vbatMv := rfl
@[simp] theorem State.setRidge_vsysMv (s : State) (f : Ridge → Ridge) : (s.setRidge f).vsysMv = s.vsysMv := rfl
@[simp] theorem State.setRidge_regs (s : State) (f : Ridge → Ridge) : (s.setRidge f).regs = s.regs := rfl
@[simp] theorem State.setRidge_supply (s : State) (f : Ridge → Ridge) : (s.setRidge f).supply = s.supply := rfl
@[simp] theorem State.setRidge_gutter (s : State) (f : Ridge → Ridge) : (s.setRidge f).gutter = s.gutter := rfl
@[simp] theorem State.setRidge_clk (s : State) (f : Ridge → Ridge) : (s.setRidge f).clk = s.clk := rfl
@[simp] theorem State.setRidge_power (s : State) (f : Ridge → Ridge) : (s.setRidge f).power = s.power := rfl
@[simp] theorem State.setRidge_res (s : State) (f : Ridge → Ridge) : (s.setRidge f).res = s.res := rfl
@[simp] theorem State.setRidge_ridge (s : State) (f : Ridge → Ridge) : (s.setRidge f).ridge = f s.ridge := rfl
@[simp] theorem State.setRidge_core (s : State) (f : Ridge → Ridge) : (s.setRidge f).core = s.core := rfl
@[simp] theorem State.setRidge_gabs (s : State) (f : Ridge → Ridge) : (s.setRidge f).gabs = s.gabs := rfl
@[simp] theorem State.setRidge_frame (s : State) (f : Ridge → Ridge) : (s.setRidge f).frame = s.frame := rfl
@[simp] theorem State.setRidge_cache (s : State) (f : Ridge → Ridge) : (s.setRidge f).cache = s.cache := rfl
@[simp] theorem State.setRidge_banks (s : State) (f : Ridge → Ridge) : (s.setRidge f).banks = s.banks := rfl
@[simp] theorem State.setRidge_thatch (s : State) (f : Ridge → Ridge) : (s.setRidge f).thatch = s.thatch := rfl
@[simp] theorem State.setRidge_burin (s : State) (f : Ridge → Ridge) : (s.setRidge f).burin = s.burin := rfl
@[simp] theorem State.setRidge_purlin (s : State) (f : Ridge → Ridge) : (s.setRidge f).purlin = s.purlin := rfl
@[simp] theorem State.setRidge_nv (s : State) (f : Ridge → Ridge) : (s.setRidge f).nv = s.nv := rfl
@[simp] theorem State.setRidge_root (s : State) (f : Ridge → Ridge) : (s.setRidge f).root = s.root := rfl
@[simp] theorem State.setRidge_cfg (s : State) (f : Ridge → Ridge) : (s.setRidge f).cfg = s.cfg := rfl

/-! ### setCore -/

@[simp] theorem State.setCore_pending (s : State) (f : Core → Core) : (s.setCore f).pending = s.pending := rfl
@[simp] theorem State.setCore_now (s : State) (f : Core → Core) : (s.setCore f).now = s.now := rfl
@[simp] theorem State.setCore_freeCtr (s : State) (f : Core → Core) : (s.setCore f).freeCtr = s.freeCtr := rfl
@[simp] theorem State.setCore_rdata (s : State) (f : Core → Core) : (s.setCore f).rdata = s.rdata := rfl
@[simp] theorem State.setCore_life (s : State) (f : Core → Core) : (s.setCore f).life = s.life := rfl
@[simp] theorem State.setCore_vinMv (s : State) (f : Core → Core) : (s.setCore f).vinMv = s.vinMv := rfl
@[simp] theorem State.setCore_vstMv (s : State) (f : Core → Core) : (s.setCore f).vstMv = s.vstMv := rfl
@[simp] theorem State.setCore_vbatMv (s : State) (f : Core → Core) : (s.setCore f).vbatMv = s.vbatMv := rfl
@[simp] theorem State.setCore_vsysMv (s : State) (f : Core → Core) : (s.setCore f).vsysMv = s.vsysMv := rfl
@[simp] theorem State.setCore_regs (s : State) (f : Core → Core) : (s.setCore f).regs = s.regs := rfl
@[simp] theorem State.setCore_supply (s : State) (f : Core → Core) : (s.setCore f).supply = s.supply := rfl
@[simp] theorem State.setCore_gutter (s : State) (f : Core → Core) : (s.setCore f).gutter = s.gutter := rfl
@[simp] theorem State.setCore_clk (s : State) (f : Core → Core) : (s.setCore f).clk = s.clk := rfl
@[simp] theorem State.setCore_power (s : State) (f : Core → Core) : (s.setCore f).power = s.power := rfl
@[simp] theorem State.setCore_res (s : State) (f : Core → Core) : (s.setCore f).res = s.res := rfl
@[simp] theorem State.setCore_ridge (s : State) (f : Core → Core) : (s.setCore f).ridge = s.ridge := rfl
@[simp] theorem State.setCore_core (s : State) (f : Core → Core) : (s.setCore f).core = f s.core := rfl
@[simp] theorem State.setCore_gabs (s : State) (f : Core → Core) : (s.setCore f).gabs = s.gabs := rfl
@[simp] theorem State.setCore_frame (s : State) (f : Core → Core) : (s.setCore f).frame = s.frame := rfl
@[simp] theorem State.setCore_cache (s : State) (f : Core → Core) : (s.setCore f).cache = s.cache := rfl
@[simp] theorem State.setCore_banks (s : State) (f : Core → Core) : (s.setCore f).banks = s.banks := rfl
@[simp] theorem State.setCore_thatch (s : State) (f : Core → Core) : (s.setCore f).thatch = s.thatch := rfl
@[simp] theorem State.setCore_burin (s : State) (f : Core → Core) : (s.setCore f).burin = s.burin := rfl
@[simp] theorem State.setCore_purlin (s : State) (f : Core → Core) : (s.setCore f).purlin = s.purlin := rfl
@[simp] theorem State.setCore_nv (s : State) (f : Core → Core) : (s.setCore f).nv = s.nv := rfl
@[simp] theorem State.setCore_root (s : State) (f : Core → Core) : (s.setCore f).root = s.root := rfl
@[simp] theorem State.setCore_cfg (s : State) (f : Core → Core) : (s.setCore f).cfg = s.cfg := rfl

/-! ### setBurin -/

@[simp] theorem State.setBurin_pending (s : State) (f : Burin → Burin) : (s.setBurin f).pending = s.pending := rfl
@[simp] theorem State.setBurin_now (s : State) (f : Burin → Burin) : (s.setBurin f).now = s.now := rfl
@[simp] theorem State.setBurin_freeCtr (s : State) (f : Burin → Burin) : (s.setBurin f).freeCtr = s.freeCtr := rfl
@[simp] theorem State.setBurin_rdata (s : State) (f : Burin → Burin) : (s.setBurin f).rdata = s.rdata := rfl
@[simp] theorem State.setBurin_life (s : State) (f : Burin → Burin) : (s.setBurin f).life = s.life := rfl
@[simp] theorem State.setBurin_vinMv (s : State) (f : Burin → Burin) : (s.setBurin f).vinMv = s.vinMv := rfl
@[simp] theorem State.setBurin_vstMv (s : State) (f : Burin → Burin) : (s.setBurin f).vstMv = s.vstMv := rfl
@[simp] theorem State.setBurin_vbatMv (s : State) (f : Burin → Burin) : (s.setBurin f).vbatMv = s.vbatMv := rfl
@[simp] theorem State.setBurin_vsysMv (s : State) (f : Burin → Burin) : (s.setBurin f).vsysMv = s.vsysMv := rfl
@[simp] theorem State.setBurin_regs (s : State) (f : Burin → Burin) : (s.setBurin f).regs = s.regs := rfl
@[simp] theorem State.setBurin_supply (s : State) (f : Burin → Burin) : (s.setBurin f).supply = s.supply := rfl
@[simp] theorem State.setBurin_gutter (s : State) (f : Burin → Burin) : (s.setBurin f).gutter = s.gutter := rfl
@[simp] theorem State.setBurin_clk (s : State) (f : Burin → Burin) : (s.setBurin f).clk = s.clk := rfl
@[simp] theorem State.setBurin_power (s : State) (f : Burin → Burin) : (s.setBurin f).power = s.power := rfl
@[simp] theorem State.setBurin_res (s : State) (f : Burin → Burin) : (s.setBurin f).res = s.res := rfl
@[simp] theorem State.setBurin_ridge (s : State) (f : Burin → Burin) : (s.setBurin f).ridge = s.ridge := rfl
@[simp] theorem State.setBurin_core (s : State) (f : Burin → Burin) : (s.setBurin f).core = s.core := rfl
@[simp] theorem State.setBurin_gabs (s : State) (f : Burin → Burin) : (s.setBurin f).gabs = s.gabs := rfl
@[simp] theorem State.setBurin_frame (s : State) (f : Burin → Burin) : (s.setBurin f).frame = s.frame := rfl
@[simp] theorem State.setBurin_cache (s : State) (f : Burin → Burin) : (s.setBurin f).cache = s.cache := rfl
@[simp] theorem State.setBurin_banks (s : State) (f : Burin → Burin) : (s.setBurin f).banks = s.banks := rfl
@[simp] theorem State.setBurin_thatch (s : State) (f : Burin → Burin) : (s.setBurin f).thatch = s.thatch := rfl
@[simp] theorem State.setBurin_burin (s : State) (f : Burin → Burin) : (s.setBurin f).burin = f s.burin := rfl
@[simp] theorem State.setBurin_purlin (s : State) (f : Burin → Burin) : (s.setBurin f).purlin = s.purlin := rfl
@[simp] theorem State.setBurin_nv (s : State) (f : Burin → Burin) : (s.setBurin f).nv = s.nv := rfl
@[simp] theorem State.setBurin_root (s : State) (f : Burin → Burin) : (s.setBurin f).root = s.root := rfl
@[simp] theorem State.setBurin_cfg (s : State) (f : Burin → Burin) : (s.setBurin f).cfg = s.cfg := rfl

/-! ### setPurlin -/

@[simp] theorem State.setPurlin_pending (s : State) (f : Purlin → Purlin) : (s.setPurlin f).pending = s.pending := rfl
@[simp] theorem State.setPurlin_now (s : State) (f : Purlin → Purlin) : (s.setPurlin f).now = s.now := rfl
@[simp] theorem State.setPurlin_freeCtr (s : State) (f : Purlin → Purlin) : (s.setPurlin f).freeCtr = s.freeCtr := rfl
@[simp] theorem State.setPurlin_rdata (s : State) (f : Purlin → Purlin) : (s.setPurlin f).rdata = s.rdata := rfl
@[simp] theorem State.setPurlin_life (s : State) (f : Purlin → Purlin) : (s.setPurlin f).life = s.life := rfl
@[simp] theorem State.setPurlin_vinMv (s : State) (f : Purlin → Purlin) : (s.setPurlin f).vinMv = s.vinMv := rfl
@[simp] theorem State.setPurlin_vstMv (s : State) (f : Purlin → Purlin) : (s.setPurlin f).vstMv = s.vstMv := rfl
@[simp] theorem State.setPurlin_vbatMv (s : State) (f : Purlin → Purlin) : (s.setPurlin f).vbatMv = s.vbatMv := rfl
@[simp] theorem State.setPurlin_vsysMv (s : State) (f : Purlin → Purlin) : (s.setPurlin f).vsysMv = s.vsysMv := rfl
@[simp] theorem State.setPurlin_regs (s : State) (f : Purlin → Purlin) : (s.setPurlin f).regs = s.regs := rfl
@[simp] theorem State.setPurlin_supply (s : State) (f : Purlin → Purlin) : (s.setPurlin f).supply = s.supply := rfl
@[simp] theorem State.setPurlin_gutter (s : State) (f : Purlin → Purlin) : (s.setPurlin f).gutter = s.gutter := rfl
@[simp] theorem State.setPurlin_clk (s : State) (f : Purlin → Purlin) : (s.setPurlin f).clk = s.clk := rfl
@[simp] theorem State.setPurlin_power (s : State) (f : Purlin → Purlin) : (s.setPurlin f).power = s.power := rfl
@[simp] theorem State.setPurlin_res (s : State) (f : Purlin → Purlin) : (s.setPurlin f).res = s.res := rfl
@[simp] theorem State.setPurlin_ridge (s : State) (f : Purlin → Purlin) : (s.setPurlin f).ridge = s.ridge := rfl
@[simp] theorem State.setPurlin_core (s : State) (f : Purlin → Purlin) : (s.setPurlin f).core = s.core := rfl
@[simp] theorem State.setPurlin_gabs (s : State) (f : Purlin → Purlin) : (s.setPurlin f).gabs = s.gabs := rfl
@[simp] theorem State.setPurlin_frame (s : State) (f : Purlin → Purlin) : (s.setPurlin f).frame = s.frame := rfl
@[simp] theorem State.setPurlin_cache (s : State) (f : Purlin → Purlin) : (s.setPurlin f).cache = s.cache := rfl
@[simp] theorem State.setPurlin_banks (s : State) (f : Purlin → Purlin) : (s.setPurlin f).banks = s.banks := rfl
@[simp] theorem State.setPurlin_thatch (s : State) (f : Purlin → Purlin) : (s.setPurlin f).thatch = s.thatch := rfl
@[simp] theorem State.setPurlin_burin (s : State) (f : Purlin → Purlin) : (s.setPurlin f).burin = s.burin := rfl
@[simp] theorem State.setPurlin_purlin (s : State) (f : Purlin → Purlin) : (s.setPurlin f).purlin = f s.purlin := rfl
@[simp] theorem State.setPurlin_nv (s : State) (f : Purlin → Purlin) : (s.setPurlin f).nv = s.nv := rfl
@[simp] theorem State.setPurlin_root (s : State) (f : Purlin → Purlin) : (s.setPurlin f).root = s.root := rfl
@[simp] theorem State.setPurlin_cfg (s : State) (f : Purlin → Purlin) : (s.setPurlin f).cfg = s.cfg := rfl

/-! ### setThatch -/

@[simp] theorem State.setThatch_pending (s : State) (f : Thatch → Thatch) : (s.setThatch f).pending = s.pending := rfl
@[simp] theorem State.setThatch_now (s : State) (f : Thatch → Thatch) : (s.setThatch f).now = s.now := rfl
@[simp] theorem State.setThatch_freeCtr (s : State) (f : Thatch → Thatch) : (s.setThatch f).freeCtr = s.freeCtr := rfl
@[simp] theorem State.setThatch_rdata (s : State) (f : Thatch → Thatch) : (s.setThatch f).rdata = s.rdata := rfl
@[simp] theorem State.setThatch_life (s : State) (f : Thatch → Thatch) : (s.setThatch f).life = s.life := rfl
@[simp] theorem State.setThatch_vinMv (s : State) (f : Thatch → Thatch) : (s.setThatch f).vinMv = s.vinMv := rfl
@[simp] theorem State.setThatch_vstMv (s : State) (f : Thatch → Thatch) : (s.setThatch f).vstMv = s.vstMv := rfl
@[simp] theorem State.setThatch_vbatMv (s : State) (f : Thatch → Thatch) : (s.setThatch f).vbatMv = s.vbatMv := rfl
@[simp] theorem State.setThatch_vsysMv (s : State) (f : Thatch → Thatch) : (s.setThatch f).vsysMv = s.vsysMv := rfl
@[simp] theorem State.setThatch_regs (s : State) (f : Thatch → Thatch) : (s.setThatch f).regs = s.regs := rfl
@[simp] theorem State.setThatch_supply (s : State) (f : Thatch → Thatch) : (s.setThatch f).supply = s.supply := rfl
@[simp] theorem State.setThatch_gutter (s : State) (f : Thatch → Thatch) : (s.setThatch f).gutter = s.gutter := rfl
@[simp] theorem State.setThatch_clk (s : State) (f : Thatch → Thatch) : (s.setThatch f).clk = s.clk := rfl
@[simp] theorem State.setThatch_power (s : State) (f : Thatch → Thatch) : (s.setThatch f).power = s.power := rfl
@[simp] theorem State.setThatch_res (s : State) (f : Thatch → Thatch) : (s.setThatch f).res = s.res := rfl
@[simp] theorem State.setThatch_ridge (s : State) (f : Thatch → Thatch) : (s.setThatch f).ridge = s.ridge := rfl
@[simp] theorem State.setThatch_core (s : State) (f : Thatch → Thatch) : (s.setThatch f).core = s.core := rfl
@[simp] theorem State.setThatch_gabs (s : State) (f : Thatch → Thatch) : (s.setThatch f).gabs = s.gabs := rfl
@[simp] theorem State.setThatch_frame (s : State) (f : Thatch → Thatch) : (s.setThatch f).frame = s.frame := rfl
@[simp] theorem State.setThatch_cache (s : State) (f : Thatch → Thatch) : (s.setThatch f).cache = s.cache := rfl
@[simp] theorem State.setThatch_banks (s : State) (f : Thatch → Thatch) : (s.setThatch f).banks = s.banks := rfl
@[simp] theorem State.setThatch_thatch (s : State) (f : Thatch → Thatch) : (s.setThatch f).thatch = f s.thatch := rfl
@[simp] theorem State.setThatch_burin (s : State) (f : Thatch → Thatch) : (s.setThatch f).burin = s.burin := rfl
@[simp] theorem State.setThatch_purlin (s : State) (f : Thatch → Thatch) : (s.setThatch f).purlin = s.purlin := rfl
@[simp] theorem State.setThatch_nv (s : State) (f : Thatch → Thatch) : (s.setThatch f).nv = s.nv := rfl
@[simp] theorem State.setThatch_root (s : State) (f : Thatch → Thatch) : (s.setThatch f).root = s.root := rfl
@[simp] theorem State.setThatch_cfg (s : State) (f : Thatch → Thatch) : (s.setThatch f).cfg = s.cfg := rfl

/-! ### setBanks -/

@[simp] theorem State.setBanks_pending (s : State) (f : Banks → Banks) : (s.setBanks f).pending = s.pending := rfl
@[simp] theorem State.setBanks_now (s : State) (f : Banks → Banks) : (s.setBanks f).now = s.now := rfl
@[simp] theorem State.setBanks_freeCtr (s : State) (f : Banks → Banks) : (s.setBanks f).freeCtr = s.freeCtr := rfl
@[simp] theorem State.setBanks_rdata (s : State) (f : Banks → Banks) : (s.setBanks f).rdata = s.rdata := rfl
@[simp] theorem State.setBanks_life (s : State) (f : Banks → Banks) : (s.setBanks f).life = s.life := rfl
@[simp] theorem State.setBanks_vinMv (s : State) (f : Banks → Banks) : (s.setBanks f).vinMv = s.vinMv := rfl
@[simp] theorem State.setBanks_vstMv (s : State) (f : Banks → Banks) : (s.setBanks f).vstMv = s.vstMv := rfl
@[simp] theorem State.setBanks_vbatMv (s : State) (f : Banks → Banks) : (s.setBanks f).vbatMv = s.vbatMv := rfl
@[simp] theorem State.setBanks_vsysMv (s : State) (f : Banks → Banks) : (s.setBanks f).vsysMv = s.vsysMv := rfl
@[simp] theorem State.setBanks_regs (s : State) (f : Banks → Banks) : (s.setBanks f).regs = s.regs := rfl
@[simp] theorem State.setBanks_supply (s : State) (f : Banks → Banks) : (s.setBanks f).supply = s.supply := rfl
@[simp] theorem State.setBanks_gutter (s : State) (f : Banks → Banks) : (s.setBanks f).gutter = s.gutter := rfl
@[simp] theorem State.setBanks_clk (s : State) (f : Banks → Banks) : (s.setBanks f).clk = s.clk := rfl
@[simp] theorem State.setBanks_power (s : State) (f : Banks → Banks) : (s.setBanks f).power = s.power := rfl
@[simp] theorem State.setBanks_res (s : State) (f : Banks → Banks) : (s.setBanks f).res = s.res := rfl
@[simp] theorem State.setBanks_ridge (s : State) (f : Banks → Banks) : (s.setBanks f).ridge = s.ridge := rfl
@[simp] theorem State.setBanks_core (s : State) (f : Banks → Banks) : (s.setBanks f).core = s.core := rfl
@[simp] theorem State.setBanks_gabs (s : State) (f : Banks → Banks) : (s.setBanks f).gabs = s.gabs := rfl
@[simp] theorem State.setBanks_frame (s : State) (f : Banks → Banks) : (s.setBanks f).frame = s.frame := rfl
@[simp] theorem State.setBanks_cache (s : State) (f : Banks → Banks) : (s.setBanks f).cache = s.cache := rfl
@[simp] theorem State.setBanks_banks (s : State) (f : Banks → Banks) : (s.setBanks f).banks = f s.banks := rfl
@[simp] theorem State.setBanks_thatch (s : State) (f : Banks → Banks) : (s.setBanks f).thatch = s.thatch := rfl
@[simp] theorem State.setBanks_burin (s : State) (f : Banks → Banks) : (s.setBanks f).burin = s.burin := rfl
@[simp] theorem State.setBanks_purlin (s : State) (f : Banks → Banks) : (s.setBanks f).purlin = s.purlin := rfl
@[simp] theorem State.setBanks_nv (s : State) (f : Banks → Banks) : (s.setBanks f).nv = s.nv := rfl
@[simp] theorem State.setBanks_root (s : State) (f : Banks → Banks) : (s.setBanks f).root = s.root := rfl
@[simp] theorem State.setBanks_cfg (s : State) (f : Banks → Banks) : (s.setBanks f).cfg = s.cfg := rfl

/-! ### setNv -/

@[simp] theorem State.setNv_pending (s : State) (f : Nonvolatile → Nonvolatile) : (s.setNv f).pending = s.pending := rfl
@[simp] theorem State.setNv_now (s : State) (f : Nonvolatile → Nonvolatile) : (s.setNv f).now = s.now := rfl
@[simp] theorem State.setNv_freeCtr (s : State) (f : Nonvolatile → Nonvolatile) : (s.setNv f).freeCtr = s.freeCtr := rfl
@[simp] theorem State.setNv_rdata (s : State) (f : Nonvolatile → Nonvolatile) : (s.setNv f).rdata = s.rdata := rfl
@[simp] theorem State.setNv_life (s : State) (f : Nonvolatile → Nonvolatile) : (s.setNv f).life = s.life := rfl
@[simp] theorem State.setNv_vinMv (s : State) (f : Nonvolatile → Nonvolatile) : (s.setNv f).vinMv = s.vinMv := rfl
@[simp] theorem State.setNv_vstMv (s : State) (f : Nonvolatile → Nonvolatile) : (s.setNv f).vstMv = s.vstMv := rfl
@[simp] theorem State.setNv_vbatMv (s : State) (f : Nonvolatile → Nonvolatile) : (s.setNv f).vbatMv = s.vbatMv := rfl
@[simp] theorem State.setNv_vsysMv (s : State) (f : Nonvolatile → Nonvolatile) : (s.setNv f).vsysMv = s.vsysMv := rfl
@[simp] theorem State.setNv_regs (s : State) (f : Nonvolatile → Nonvolatile) : (s.setNv f).regs = s.regs := rfl
@[simp] theorem State.setNv_supply (s : State) (f : Nonvolatile → Nonvolatile) : (s.setNv f).supply = s.supply := rfl
@[simp] theorem State.setNv_gutter (s : State) (f : Nonvolatile → Nonvolatile) : (s.setNv f).gutter = s.gutter := rfl
@[simp] theorem State.setNv_clk (s : State) (f : Nonvolatile → Nonvolatile) : (s.setNv f).clk = s.clk := rfl
@[simp] theorem State.setNv_power (s : State) (f : Nonvolatile → Nonvolatile) : (s.setNv f).power = s.power := rfl
@[simp] theorem State.setNv_res (s : State) (f : Nonvolatile → Nonvolatile) : (s.setNv f).res = s.res := rfl
@[simp] theorem State.setNv_ridge (s : State) (f : Nonvolatile → Nonvolatile) : (s.setNv f).ridge = s.ridge := rfl
@[simp] theorem State.setNv_core (s : State) (f : Nonvolatile → Nonvolatile) : (s.setNv f).core = s.core := rfl
@[simp] theorem State.setNv_gabs (s : State) (f : Nonvolatile → Nonvolatile) : (s.setNv f).gabs = s.gabs := rfl
@[simp] theorem State.setNv_frame (s : State) (f : Nonvolatile → Nonvolatile) : (s.setNv f).frame = s.frame := rfl
@[simp] theorem State.setNv_cache (s : State) (f : Nonvolatile → Nonvolatile) : (s.setNv f).cache = s.cache := rfl
@[simp] theorem State.setNv_banks (s : State) (f : Nonvolatile → Nonvolatile) : (s.setNv f).banks = s.banks := rfl
@[simp] theorem State.setNv_thatch (s : State) (f : Nonvolatile → Nonvolatile) : (s.setNv f).thatch = s.thatch := rfl
@[simp] theorem State.setNv_burin (s : State) (f : Nonvolatile → Nonvolatile) : (s.setNv f).burin = s.burin := rfl
@[simp] theorem State.setNv_purlin (s : State) (f : Nonvolatile → Nonvolatile) : (s.setNv f).purlin = s.purlin := rfl
@[simp] theorem State.setNv_nv (s : State) (f : Nonvolatile → Nonvolatile) : (s.setNv f).nv = f s.nv := rfl
@[simp] theorem State.setNv_root (s : State) (f : Nonvolatile → Nonvolatile) : (s.setNv f).root = s.root := rfl
@[simp] theorem State.setNv_cfg (s : State) (f : Nonvolatile → Nonvolatile) : (s.setNv f).cfg = s.cfg := rfl

/-! ### setFrame -/

@[simp] theorem State.setFrame_pending (s : State) (f : SchedFrame → SchedFrame) : (s.setFrame f).pending = s.pending := rfl
@[simp] theorem State.setFrame_now (s : State) (f : SchedFrame → SchedFrame) : (s.setFrame f).now = s.now := rfl
@[simp] theorem State.setFrame_freeCtr (s : State) (f : SchedFrame → SchedFrame) : (s.setFrame f).freeCtr = s.freeCtr := rfl
@[simp] theorem State.setFrame_rdata (s : State) (f : SchedFrame → SchedFrame) : (s.setFrame f).rdata = s.rdata := rfl
@[simp] theorem State.setFrame_life (s : State) (f : SchedFrame → SchedFrame) : (s.setFrame f).life = s.life := rfl
@[simp] theorem State.setFrame_vinMv (s : State) (f : SchedFrame → SchedFrame) : (s.setFrame f).vinMv = s.vinMv := rfl
@[simp] theorem State.setFrame_vstMv (s : State) (f : SchedFrame → SchedFrame) : (s.setFrame f).vstMv = s.vstMv := rfl
@[simp] theorem State.setFrame_vbatMv (s : State) (f : SchedFrame → SchedFrame) : (s.setFrame f).vbatMv = s.vbatMv := rfl
@[simp] theorem State.setFrame_vsysMv (s : State) (f : SchedFrame → SchedFrame) : (s.setFrame f).vsysMv = s.vsysMv := rfl
@[simp] theorem State.setFrame_regs (s : State) (f : SchedFrame → SchedFrame) : (s.setFrame f).regs = s.regs := rfl
@[simp] theorem State.setFrame_supply (s : State) (f : SchedFrame → SchedFrame) : (s.setFrame f).supply = s.supply := rfl
@[simp] theorem State.setFrame_gutter (s : State) (f : SchedFrame → SchedFrame) : (s.setFrame f).gutter = s.gutter := rfl
@[simp] theorem State.setFrame_clk (s : State) (f : SchedFrame → SchedFrame) : (s.setFrame f).clk = s.clk := rfl
@[simp] theorem State.setFrame_power (s : State) (f : SchedFrame → SchedFrame) : (s.setFrame f).power = s.power := rfl
@[simp] theorem State.setFrame_res (s : State) (f : SchedFrame → SchedFrame) : (s.setFrame f).res = s.res := rfl
@[simp] theorem State.setFrame_ridge (s : State) (f : SchedFrame → SchedFrame) : (s.setFrame f).ridge = s.ridge := rfl
@[simp] theorem State.setFrame_core (s : State) (f : SchedFrame → SchedFrame) : (s.setFrame f).core = s.core := rfl
@[simp] theorem State.setFrame_gabs (s : State) (f : SchedFrame → SchedFrame) : (s.setFrame f).gabs = s.gabs := rfl
@[simp] theorem State.setFrame_frame (s : State) (f : SchedFrame → SchedFrame) : (s.setFrame f).frame = f s.frame := rfl
@[simp] theorem State.setFrame_cache (s : State) (f : SchedFrame → SchedFrame) : (s.setFrame f).cache = s.cache := rfl
@[simp] theorem State.setFrame_banks (s : State) (f : SchedFrame → SchedFrame) : (s.setFrame f).banks = s.banks := rfl
@[simp] theorem State.setFrame_thatch (s : State) (f : SchedFrame → SchedFrame) : (s.setFrame f).thatch = s.thatch := rfl
@[simp] theorem State.setFrame_burin (s : State) (f : SchedFrame → SchedFrame) : (s.setFrame f).burin = s.burin := rfl
@[simp] theorem State.setFrame_purlin (s : State) (f : SchedFrame → SchedFrame) : (s.setFrame f).purlin = s.purlin := rfl
@[simp] theorem State.setFrame_nv (s : State) (f : SchedFrame → SchedFrame) : (s.setFrame f).nv = s.nv := rfl
@[simp] theorem State.setFrame_root (s : State) (f : SchedFrame → SchedFrame) : (s.setFrame f).root = s.root := rfl
@[simp] theorem State.setFrame_cfg (s : State) (f : SchedFrame → SchedFrame) : (s.setFrame f).cfg = s.cfg := rfl

/-! ### setGab -/

@[simp] theorem State.setGab_pending (s : State) (g : Gable) (f : GabState → GabState) : (s.setGab g f).pending = s.pending := rfl
@[simp] theorem State.setGab_now (s : State) (g : Gable) (f : GabState → GabState) : (s.setGab g f).now = s.now := rfl
@[simp] theorem State.setGab_freeCtr (s : State) (g : Gable) (f : GabState → GabState) : (s.setGab g f).freeCtr = s.freeCtr := rfl
@[simp] theorem State.setGab_rdata (s : State) (g : Gable) (f : GabState → GabState) : (s.setGab g f).rdata = s.rdata := rfl
@[simp] theorem State.setGab_life (s : State) (g : Gable) (f : GabState → GabState) : (s.setGab g f).life = s.life := rfl
@[simp] theorem State.setGab_vinMv (s : State) (g : Gable) (f : GabState → GabState) : (s.setGab g f).vinMv = s.vinMv := rfl
@[simp] theorem State.setGab_vstMv (s : State) (g : Gable) (f : GabState → GabState) : (s.setGab g f).vstMv = s.vstMv := rfl
@[simp] theorem State.setGab_vbatMv (s : State) (g : Gable) (f : GabState → GabState) : (s.setGab g f).vbatMv = s.vbatMv := rfl
@[simp] theorem State.setGab_vsysMv (s : State) (g : Gable) (f : GabState → GabState) : (s.setGab g f).vsysMv = s.vsysMv := rfl
@[simp] theorem State.setGab_regs (s : State) (g : Gable) (f : GabState → GabState) : (s.setGab g f).regs = s.regs := rfl
@[simp] theorem State.setGab_supply (s : State) (g : Gable) (f : GabState → GabState) : (s.setGab g f).supply = s.supply := rfl
@[simp] theorem State.setGab_gutter (s : State) (g : Gable) (f : GabState → GabState) : (s.setGab g f).gutter = s.gutter := rfl
@[simp] theorem State.setGab_clk (s : State) (g : Gable) (f : GabState → GabState) : (s.setGab g f).clk = s.clk := rfl
@[simp] theorem State.setGab_power (s : State) (g : Gable) (f : GabState → GabState) : (s.setGab g f).power = s.power := rfl
@[simp] theorem State.setGab_res (s : State) (g : Gable) (f : GabState → GabState) : (s.setGab g f).res = s.res := rfl
@[simp] theorem State.setGab_ridge (s : State) (g : Gable) (f : GabState → GabState) : (s.setGab g f).ridge = s.ridge := rfl
@[simp] theorem State.setGab_core (s : State) (g : Gable) (f : GabState → GabState) : (s.setGab g f).core = s.core := rfl
@[simp] theorem State.setGab_gabs (s : State) (g : Gable) (f : GabState → GabState) : (s.setGab g f).gabs = vmod s.gabs g f := rfl
@[simp] theorem State.setGab_frame (s : State) (g : Gable) (f : GabState → GabState) : (s.setGab g f).frame = s.frame := rfl
@[simp] theorem State.setGab_cache (s : State) (g : Gable) (f : GabState → GabState) : (s.setGab g f).cache = s.cache := rfl
@[simp] theorem State.setGab_banks (s : State) (g : Gable) (f : GabState → GabState) : (s.setGab g f).banks = s.banks := rfl
@[simp] theorem State.setGab_thatch (s : State) (g : Gable) (f : GabState → GabState) : (s.setGab g f).thatch = s.thatch := rfl
@[simp] theorem State.setGab_burin (s : State) (g : Gable) (f : GabState → GabState) : (s.setGab g f).burin = s.burin := rfl
@[simp] theorem State.setGab_purlin (s : State) (g : Gable) (f : GabState → GabState) : (s.setGab g f).purlin = s.purlin := rfl
@[simp] theorem State.setGab_nv (s : State) (g : Gable) (f : GabState → GabState) : (s.setGab g f).nv = s.nv := rfl
@[simp] theorem State.setGab_root (s : State) (g : Gable) (f : GabState → GabState) : (s.setGab g f).root = s.root := rfl
@[simp] theorem State.setGab_cfg (s : State) (g : Gable) (f : GabState → GabState) : (s.setGab g f).cfg = s.cfg := rfl

/-! ### setPort -/

@[simp] theorem State.setPort_pending (s : State) (p : Port) (f : PortState → PortState) : (s.setPort p f).pending = s.pending := rfl
@[simp] theorem State.setPort_now (s : State) (p : Port) (f : PortState → PortState) : (s.setPort p f).now = s.now := rfl
@[simp] theorem State.setPort_freeCtr (s : State) (p : Port) (f : PortState → PortState) : (s.setPort p f).freeCtr = s.freeCtr := rfl
@[simp] theorem State.setPort_rdata (s : State) (p : Port) (f : PortState → PortState) : (s.setPort p f).rdata = s.rdata := rfl
@[simp] theorem State.setPort_life (s : State) (p : Port) (f : PortState → PortState) : (s.setPort p f).life = s.life := rfl
@[simp] theorem State.setPort_vinMv (s : State) (p : Port) (f : PortState → PortState) : (s.setPort p f).vinMv = s.vinMv := rfl
@[simp] theorem State.setPort_vstMv (s : State) (p : Port) (f : PortState → PortState) : (s.setPort p f).vstMv = s.vstMv := rfl
@[simp] theorem State.setPort_vbatMv (s : State) (p : Port) (f : PortState → PortState) : (s.setPort p f).vbatMv = s.vbatMv := rfl
@[simp] theorem State.setPort_vsysMv (s : State) (p : Port) (f : PortState → PortState) : (s.setPort p f).vsysMv = s.vsysMv := rfl
@[simp] theorem State.setPort_regs (s : State) (p : Port) (f : PortState → PortState) : (s.setPort p f).regs = s.regs := rfl
@[simp] theorem State.setPort_supply (s : State) (p : Port) (f : PortState → PortState) : (s.setPort p f).supply = s.supply := rfl
@[simp] theorem State.setPort_gutter (s : State) (p : Port) (f : PortState → PortState) : (s.setPort p f).gutter = s.gutter := rfl
@[simp] theorem State.setPort_clk (s : State) (p : Port) (f : PortState → PortState) : (s.setPort p f).clk = s.clk := rfl
@[simp] theorem State.setPort_power (s : State) (p : Port) (f : PortState → PortState) : (s.setPort p f).power = s.power := rfl
@[simp] theorem State.setPort_res (s : State) (p : Port) (f : PortState → PortState) : (s.setPort p f).res = s.res := rfl
@[simp] theorem State.setPort_ridge (s : State) (p : Port) (f : PortState → PortState) : (s.setPort p f).ridge = s.ridge := rfl
@[simp] theorem State.setPort_core (s : State) (p : Port) (f : PortState → PortState) : (s.setPort p f).core = s.core := rfl
@[simp] theorem State.setPort_gabs (s : State) (p : Port) (f : PortState → PortState) : (s.setPort p f).gabs = s.gabs := rfl
@[simp] theorem State.setPort_frame (s : State) (p : Port) (f : PortState → PortState) : (s.setPort p f).frame = s.frame := rfl
@[simp] theorem State.setPort_cache (s : State) (p : Port) (f : PortState → PortState) : (s.setPort p f).cache = s.cache := rfl
@[simp] theorem State.setPort_banks (s : State) (p : Port) (f : PortState → PortState) : (s.setPort p f).banks = s.banks := rfl
@[simp] theorem State.setPort_thatch (s : State) (p : Port) (f : PortState → PortState) : (s.setPort p f).thatch = s.thatch := rfl
@[simp] theorem State.setPort_burin (s : State) (p : Port) (f : PortState → PortState) : (s.setPort p f).burin = s.burin := rfl
@[simp] theorem State.setPort_nv (s : State) (p : Port) (f : PortState → PortState) : (s.setPort p f).nv = s.nv := rfl
@[simp] theorem State.setPort_root (s : State) (p : Port) (f : PortState → PortState) : (s.setPort p f).root = s.root := rfl
@[simp] theorem State.setPort_cfg (s : State) (p : Port) (f : PortState → PortState) : (s.setPort p f).cfg = s.cfg := rfl

/-! ### setEngine -/

@[simp] theorem State.setEngine_pending (s : State) (n : EngineNo) (f : Engine → Engine) : (s.setEngine n f).pending = s.pending := rfl
@[simp] theorem State.setEngine_now (s : State) (n : EngineNo) (f : Engine → Engine) : (s.setEngine n f).now = s.now := rfl
@[simp] theorem State.setEngine_freeCtr (s : State) (n : EngineNo) (f : Engine → Engine) : (s.setEngine n f).freeCtr = s.freeCtr := rfl
@[simp] theorem State.setEngine_rdata (s : State) (n : EngineNo) (f : Engine → Engine) : (s.setEngine n f).rdata = s.rdata := rfl
@[simp] theorem State.setEngine_life (s : State) (n : EngineNo) (f : Engine → Engine) : (s.setEngine n f).life = s.life := rfl
@[simp] theorem State.setEngine_vinMv (s : State) (n : EngineNo) (f : Engine → Engine) : (s.setEngine n f).vinMv = s.vinMv := rfl
@[simp] theorem State.setEngine_vstMv (s : State) (n : EngineNo) (f : Engine → Engine) : (s.setEngine n f).vstMv = s.vstMv := rfl
@[simp] theorem State.setEngine_vbatMv (s : State) (n : EngineNo) (f : Engine → Engine) : (s.setEngine n f).vbatMv = s.vbatMv := rfl
@[simp] theorem State.setEngine_vsysMv (s : State) (n : EngineNo) (f : Engine → Engine) : (s.setEngine n f).vsysMv = s.vsysMv := rfl
@[simp] theorem State.setEngine_regs (s : State) (n : EngineNo) (f : Engine → Engine) : (s.setEngine n f).regs = s.regs := rfl
@[simp] theorem State.setEngine_supply (s : State) (n : EngineNo) (f : Engine → Engine) : (s.setEngine n f).supply = s.supply := rfl
@[simp] theorem State.setEngine_gutter (s : State) (n : EngineNo) (f : Engine → Engine) : (s.setEngine n f).gutter = s.gutter := rfl
@[simp] theorem State.setEngine_clk (s : State) (n : EngineNo) (f : Engine → Engine) : (s.setEngine n f).clk = s.clk := rfl
@[simp] theorem State.setEngine_power (s : State) (n : EngineNo) (f : Engine → Engine) : (s.setEngine n f).power = s.power := rfl
@[simp] theorem State.setEngine_res (s : State) (n : EngineNo) (f : Engine → Engine) : (s.setEngine n f).res = s.res := rfl
@[simp] theorem State.setEngine_ridge (s : State) (n : EngineNo) (f : Engine → Engine) : (s.setEngine n f).ridge = s.ridge := rfl
@[simp] theorem State.setEngine_core (s : State) (n : EngineNo) (f : Engine → Engine) : (s.setEngine n f).core = s.core := rfl
@[simp] theorem State.setEngine_gabs (s : State) (n : EngineNo) (f : Engine → Engine) : (s.setEngine n f).gabs = s.gabs := rfl
@[simp] theorem State.setEngine_frame (s : State) (n : EngineNo) (f : Engine → Engine) : (s.setEngine n f).frame = s.frame := rfl
@[simp] theorem State.setEngine_cache (s : State) (n : EngineNo) (f : Engine → Engine) : (s.setEngine n f).cache = s.cache := rfl
@[simp] theorem State.setEngine_banks (s : State) (n : EngineNo) (f : Engine → Engine) : (s.setEngine n f).banks = s.banks := rfl
@[simp] theorem State.setEngine_thatch (s : State) (n : EngineNo) (f : Engine → Engine) : (s.setEngine n f).thatch = s.thatch := rfl
@[simp] theorem State.setEngine_purlin (s : State) (n : EngineNo) (f : Engine → Engine) : (s.setEngine n f).purlin = s.purlin := rfl
@[simp] theorem State.setEngine_nv (s : State) (n : EngineNo) (f : Engine → Engine) : (s.setEngine n f).nv = s.nv := rfl
@[simp] theorem State.setEngine_root (s : State) (n : EngineNo) (f : Engine → Engine) : (s.setEngine n f).root = s.root := rfl
@[simp] theorem State.setEngine_cfg (s : State) (n : EngineNo) (f : Engine → Engine) : (s.setEngine n f).cfg = s.cfg := rfl

/-! ### setCtxOf -/

@[simp] theorem State.setCtxOf_pending (s : State) (g : Gable) (f : Ctx → Ctx) : (s.setCtxOf g f).pending = s.pending := rfl
@[simp] theorem State.setCtxOf_now (s : State) (g : Gable) (f : Ctx → Ctx) : (s.setCtxOf g f).now = s.now := rfl
@[simp] theorem State.setCtxOf_freeCtr (s : State) (g : Gable) (f : Ctx → Ctx) : (s.setCtxOf g f).freeCtr = s.freeCtr := rfl
@[simp] theorem State.setCtxOf_rdata (s : State) (g : Gable) (f : Ctx → Ctx) : (s.setCtxOf g f).rdata = s.rdata := rfl
@[simp] theorem State.setCtxOf_life (s : State) (g : Gable) (f : Ctx → Ctx) : (s.setCtxOf g f).life = s.life := rfl
@[simp] theorem State.setCtxOf_vinMv (s : State) (g : Gable) (f : Ctx → Ctx) : (s.setCtxOf g f).vinMv = s.vinMv := rfl
@[simp] theorem State.setCtxOf_vstMv (s : State) (g : Gable) (f : Ctx → Ctx) : (s.setCtxOf g f).vstMv = s.vstMv := rfl
@[simp] theorem State.setCtxOf_vbatMv (s : State) (g : Gable) (f : Ctx → Ctx) : (s.setCtxOf g f).vbatMv = s.vbatMv := rfl
@[simp] theorem State.setCtxOf_vsysMv (s : State) (g : Gable) (f : Ctx → Ctx) : (s.setCtxOf g f).vsysMv = s.vsysMv := rfl
@[simp] theorem State.setCtxOf_regs (s : State) (g : Gable) (f : Ctx → Ctx) : (s.setCtxOf g f).regs = s.regs := rfl
@[simp] theorem State.setCtxOf_supply (s : State) (g : Gable) (f : Ctx → Ctx) : (s.setCtxOf g f).supply = s.supply := rfl
@[simp] theorem State.setCtxOf_gutter (s : State) (g : Gable) (f : Ctx → Ctx) : (s.setCtxOf g f).gutter = s.gutter := rfl
@[simp] theorem State.setCtxOf_clk (s : State) (g : Gable) (f : Ctx → Ctx) : (s.setCtxOf g f).clk = s.clk := rfl
@[simp] theorem State.setCtxOf_power (s : State) (g : Gable) (f : Ctx → Ctx) : (s.setCtxOf g f).power = s.power := rfl
@[simp] theorem State.setCtxOf_res (s : State) (g : Gable) (f : Ctx → Ctx) : (s.setCtxOf g f).res = s.res := rfl
@[simp] theorem State.setCtxOf_ridge (s : State) (g : Gable) (f : Ctx → Ctx) : (s.setCtxOf g f).ridge = s.ridge := rfl
@[simp] theorem State.setCtxOf_gabs (s : State) (g : Gable) (f : Ctx → Ctx) : (s.setCtxOf g f).gabs = s.gabs := rfl
@[simp] theorem State.setCtxOf_frame (s : State) (g : Gable) (f : Ctx → Ctx) : (s.setCtxOf g f).frame = s.frame := rfl
@[simp] theorem State.setCtxOf_cache (s : State) (g : Gable) (f : Ctx → Ctx) : (s.setCtxOf g f).cache = s.cache := rfl
@[simp] theorem State.setCtxOf_banks (s : State) (g : Gable) (f : Ctx → Ctx) : (s.setCtxOf g f).banks = s.banks := rfl
@[simp] theorem State.setCtxOf_thatch (s : State) (g : Gable) (f : Ctx → Ctx) : (s.setCtxOf g f).thatch = s.thatch := rfl
@[simp] theorem State.setCtxOf_burin (s : State) (g : Gable) (f : Ctx → Ctx) : (s.setCtxOf g f).burin = s.burin := rfl
@[simp] theorem State.setCtxOf_purlin (s : State) (g : Gable) (f : Ctx → Ctx) : (s.setCtxOf g f).purlin = s.purlin := rfl
@[simp] theorem State.setCtxOf_nv (s : State) (g : Gable) (f : Ctx → Ctx) : (s.setCtxOf g f).nv = s.nv := rfl
@[simp] theorem State.setCtxOf_root (s : State) (g : Gable) (f : Ctx → Ctx) : (s.setCtxOf g f).root = s.root := rfl
@[simp] theorem State.setCtxOf_cfg (s : State) (g : Gable) (f : Ctx → Ctx) : (s.setCtxOf g f).cfg = s.cfg := rfl

/-! ### setGreq -/

@[simp] theorem State.setGreq_pending (s : State) (g : Gable) (r : GState) : (s.setGreq g r).pending = s.pending := rfl
@[simp] theorem State.setGreq_now (s : State) (g : Gable) (r : GState) : (s.setGreq g r).now = s.now := rfl
@[simp] theorem State.setGreq_freeCtr (s : State) (g : Gable) (r : GState) : (s.setGreq g r).freeCtr = s.freeCtr := rfl
@[simp] theorem State.setGreq_rdata (s : State) (g : Gable) (r : GState) : (s.setGreq g r).rdata = s.rdata := rfl
@[simp] theorem State.setGreq_life (s : State) (g : Gable) (r : GState) : (s.setGreq g r).life = s.life := rfl
@[simp] theorem State.setGreq_vinMv (s : State) (g : Gable) (r : GState) : (s.setGreq g r).vinMv = s.vinMv := rfl
@[simp] theorem State.setGreq_vstMv (s : State) (g : Gable) (r : GState) : (s.setGreq g r).vstMv = s.vstMv := rfl
@[simp] theorem State.setGreq_vbatMv (s : State) (g : Gable) (r : GState) : (s.setGreq g r).vbatMv = s.vbatMv := rfl
@[simp] theorem State.setGreq_vsysMv (s : State) (g : Gable) (r : GState) : (s.setGreq g r).vsysMv = s.vsysMv := rfl
@[simp] theorem State.setGreq_regs (s : State) (g : Gable) (r : GState) : (s.setGreq g r).regs = s.regs := rfl
@[simp] theorem State.setGreq_supply (s : State) (g : Gable) (r : GState) : (s.setGreq g r).supply = s.supply := rfl
@[simp] theorem State.setGreq_gutter (s : State) (g : Gable) (r : GState) : (s.setGreq g r).gutter = s.gutter := rfl
@[simp] theorem State.setGreq_clk (s : State) (g : Gable) (r : GState) : (s.setGreq g r).clk = s.clk := rfl
@[simp] theorem State.setGreq_power (s : State) (g : Gable) (r : GState) : (s.setGreq g r).power = { s.power with greq := vset s.power.greq g r } := rfl
@[simp] theorem State.setGreq_res (s : State) (g : Gable) (r : GState) : (s.setGreq g r).res = s.res := rfl
@[simp] theorem State.setGreq_ridge (s : State) (g : Gable) (r : GState) : (s.setGreq g r).ridge = s.ridge := rfl
@[simp] theorem State.setGreq_core (s : State) (g : Gable) (r : GState) : (s.setGreq g r).core = s.core := rfl
@[simp] theorem State.setGreq_gabs (s : State) (g : Gable) (r : GState) : (s.setGreq g r).gabs = s.gabs := rfl
@[simp] theorem State.setGreq_frame (s : State) (g : Gable) (r : GState) : (s.setGreq g r).frame = s.frame := rfl
@[simp] theorem State.setGreq_cache (s : State) (g : Gable) (r : GState) : (s.setGreq g r).cache = s.cache := rfl
@[simp] theorem State.setGreq_banks (s : State) (g : Gable) (r : GState) : (s.setGreq g r).banks = s.banks := rfl
@[simp] theorem State.setGreq_thatch (s : State) (g : Gable) (r : GState) : (s.setGreq g r).thatch = s.thatch := rfl
@[simp] theorem State.setGreq_burin (s : State) (g : Gable) (r : GState) : (s.setGreq g r).burin = s.burin := rfl
@[simp] theorem State.setGreq_purlin (s : State) (g : Gable) (r : GState) : (s.setGreq g r).purlin = s.purlin := rfl
@[simp] theorem State.setGreq_nv (s : State) (g : Gable) (r : GState) : (s.setGreq g r).nv = s.nv := rfl
@[simp] theorem State.setGreq_root (s : State) (g : Gable) (r : GState) : (s.setGreq g r).root = s.root := rfl
@[simp] theorem State.setGreq_cfg (s : State) (g : Gable) (r : GState) : (s.setGreq g r).cfg = s.cfg := rfl

/-! ### setVin -/

@[simp] theorem State.setVin_pending (s : State) (v : Nat) : (s.setVin v).pending = s.pending := rfl
@[simp] theorem State.setVin_now (s : State) (v : Nat) : (s.setVin v).now = s.now := rfl
@[simp] theorem State.setVin_freeCtr (s : State) (v : Nat) : (s.setVin v).freeCtr = s.freeCtr := rfl
@[simp] theorem State.setVin_rdata (s : State) (v : Nat) : (s.setVin v).rdata = s.rdata := rfl
@[simp] theorem State.setVin_life (s : State) (v : Nat) : (s.setVin v).life = s.life := rfl
@[simp] theorem State.setVin_vinMv (s : State) (v : Nat) : (s.setVin v).vinMv = v := rfl
@[simp] theorem State.setVin_vstMv (s : State) (v : Nat) : (s.setVin v).vstMv = s.vstMv := rfl
@[simp] theorem State.setVin_vbatMv (s : State) (v : Nat) : (s.setVin v).vbatMv = s.vbatMv := rfl
@[simp] theorem State.setVin_vsysMv (s : State) (v : Nat) : (s.setVin v).vsysMv = s.vsysMv := rfl
@[simp] theorem State.setVin_regs (s : State) (v : Nat) : (s.setVin v).regs = s.regs := rfl
@[simp] theorem State.setVin_supply (s : State) (v : Nat) : (s.setVin v).supply = s.supply := rfl
@[simp] theorem State.setVin_gutter (s : State) (v : Nat) : (s.setVin v).gutter = s.gutter := rfl
@[simp] theorem State.setVin_clk (s : State) (v : Nat) : (s.setVin v).clk = s.clk := rfl
@[simp] theorem State.setVin_power (s : State) (v : Nat) : (s.setVin v).power = s.power := rfl
@[simp] theorem State.setVin_res (s : State) (v : Nat) : (s.setVin v).res = s.res := rfl
@[simp] theorem State.setVin_ridge (s : State) (v : Nat) : (s.setVin v).ridge = s.ridge := rfl
@[simp] theorem State.setVin_core (s : State) (v : Nat) : (s.setVin v).core = s.core := rfl
@[simp] theorem State.setVin_gabs (s : State) (v : Nat) : (s.setVin v).gabs = s.gabs := rfl
@[simp] theorem State.setVin_frame (s : State) (v : Nat) : (s.setVin v).frame = s.frame := rfl
@[simp] theorem State.setVin_cache (s : State) (v : Nat) : (s.setVin v).cache = s.cache := rfl
@[simp] theorem State.setVin_banks (s : State) (v : Nat) : (s.setVin v).banks = s.banks := rfl
@[simp] theorem State.setVin_thatch (s : State) (v : Nat) : (s.setVin v).thatch = s.thatch := rfl
@[simp] theorem State.setVin_burin (s : State) (v : Nat) : (s.setVin v).burin = s.burin := rfl
@[simp] theorem State.setVin_purlin (s : State) (v : Nat) : (s.setVin v).purlin = s.purlin := rfl
@[simp] theorem State.setVin_nv (s : State) (v : Nat) : (s.setVin v).nv = s.nv := rfl
@[simp] theorem State.setVin_root (s : State) (v : Nat) : (s.setVin v).root = s.root := rfl
@[simp] theorem State.setVin_cfg (s : State) (v : Nat) : (s.setVin v).cfg = s.cfg := rfl

/-! ### setVst -/

@[simp] theorem State.setVst_pending (s : State) (v : Nat) : (s.setVst v).pending = s.pending := rfl
@[simp] theorem State.setVst_now (s : State) (v : Nat) : (s.setVst v).now = s.now := rfl
@[simp] theorem State.setVst_freeCtr (s : State) (v : Nat) : (s.setVst v).freeCtr = s.freeCtr := rfl
@[simp] theorem State.setVst_rdata (s : State) (v : Nat) : (s.setVst v).rdata = s.rdata := rfl
@[simp] theorem State.setVst_life (s : State) (v : Nat) : (s.setVst v).life = s.life := rfl
@[simp] theorem State.setVst_vinMv (s : State) (v : Nat) : (s.setVst v).vinMv = s.vinMv := rfl
@[simp] theorem State.setVst_vstMv (s : State) (v : Nat) : (s.setVst v).vstMv = v := rfl
@[simp] theorem State.setVst_vbatMv (s : State) (v : Nat) : (s.setVst v).vbatMv = s.vbatMv := rfl
@[simp] theorem State.setVst_vsysMv (s : State) (v : Nat) : (s.setVst v).vsysMv = s.vsysMv := rfl
@[simp] theorem State.setVst_regs (s : State) (v : Nat) : (s.setVst v).regs = s.regs := rfl
@[simp] theorem State.setVst_supply (s : State) (v : Nat) : (s.setVst v).supply = s.supply := rfl
@[simp] theorem State.setVst_gutter (s : State) (v : Nat) : (s.setVst v).gutter = s.gutter := rfl
@[simp] theorem State.setVst_clk (s : State) (v : Nat) : (s.setVst v).clk = s.clk := rfl
@[simp] theorem State.setVst_power (s : State) (v : Nat) : (s.setVst v).power = s.power := rfl
@[simp] theorem State.setVst_res (s : State) (v : Nat) : (s.setVst v).res = s.res := rfl
@[simp] theorem State.setVst_ridge (s : State) (v : Nat) : (s.setVst v).ridge = s.ridge := rfl
@[simp] theorem State.setVst_core (s : State) (v : Nat) : (s.setVst v).core = s.core := rfl
@[simp] theorem State.setVst_gabs (s : State) (v : Nat) : (s.setVst v).gabs = s.gabs := rfl
@[simp] theorem State.setVst_frame (s : State) (v : Nat) : (s.setVst v).frame = s.frame := rfl
@[simp] theorem State.setVst_cache (s : State) (v : Nat) : (s.setVst v).cache = s.cache := rfl
@[simp] theorem State.setVst_banks (s : State) (v : Nat) : (s.setVst v).banks = s.banks := rfl
@[simp] theorem State.setVst_thatch (s : State) (v : Nat) : (s.setVst v).thatch = s.thatch := rfl
@[simp] theorem State.setVst_burin (s : State) (v : Nat) : (s.setVst v).burin = s.burin := rfl
@[simp] theorem State.setVst_purlin (s : State) (v : Nat) : (s.setVst v).purlin = s.purlin := rfl
@[simp] theorem State.setVst_nv (s : State) (v : Nat) : (s.setVst v).nv = s.nv := rfl
@[simp] theorem State.setVst_root (s : State) (v : Nat) : (s.setVst v).root = s.root := rfl
@[simp] theorem State.setVst_cfg (s : State) (v : Nat) : (s.setVst v).cfg = s.cfg := rfl

/-! ### setVbat -/

@[simp] theorem State.setVbat_pending (s : State) (v : Nat) : (s.setVbat v).pending = s.pending := rfl
@[simp] theorem State.setVbat_now (s : State) (v : Nat) : (s.setVbat v).now = s.now := rfl
@[simp] theorem State.setVbat_freeCtr (s : State) (v : Nat) : (s.setVbat v).freeCtr = s.freeCtr := rfl
@[simp] theorem State.setVbat_rdata (s : State) (v : Nat) : (s.setVbat v).rdata = s.rdata := rfl
@[simp] theorem State.setVbat_life (s : State) (v : Nat) : (s.setVbat v).life = s.life := rfl
@[simp] theorem State.setVbat_vinMv (s : State) (v : Nat) : (s.setVbat v).vinMv = s.vinMv := rfl
@[simp] theorem State.setVbat_vstMv (s : State) (v : Nat) : (s.setVbat v).vstMv = s.vstMv := rfl
@[simp] theorem State.setVbat_vbatMv (s : State) (v : Nat) : (s.setVbat v).vbatMv = v := rfl
@[simp] theorem State.setVbat_vsysMv (s : State) (v : Nat) : (s.setVbat v).vsysMv = s.vsysMv := rfl
@[simp] theorem State.setVbat_regs (s : State) (v : Nat) : (s.setVbat v).regs = s.regs := rfl
@[simp] theorem State.setVbat_supply (s : State) (v : Nat) : (s.setVbat v).supply = s.supply := rfl
@[simp] theorem State.setVbat_gutter (s : State) (v : Nat) : (s.setVbat v).gutter = s.gutter := rfl
@[simp] theorem State.setVbat_clk (s : State) (v : Nat) : (s.setVbat v).clk = s.clk := rfl
@[simp] theorem State.setVbat_power (s : State) (v : Nat) : (s.setVbat v).power = s.power := rfl
@[simp] theorem State.setVbat_res (s : State) (v : Nat) : (s.setVbat v).res = s.res := rfl
@[simp] theorem State.setVbat_ridge (s : State) (v : Nat) : (s.setVbat v).ridge = s.ridge := rfl
@[simp] theorem State.setVbat_core (s : State) (v : Nat) : (s.setVbat v).core = s.core := rfl
@[simp] theorem State.setVbat_gabs (s : State) (v : Nat) : (s.setVbat v).gabs = s.gabs := rfl
@[simp] theorem State.setVbat_frame (s : State) (v : Nat) : (s.setVbat v).frame = s.frame := rfl
@[simp] theorem State.setVbat_cache (s : State) (v : Nat) : (s.setVbat v).cache = s.cache := rfl
@[simp] theorem State.setVbat_banks (s : State) (v : Nat) : (s.setVbat v).banks = s.banks := rfl
@[simp] theorem State.setVbat_thatch (s : State) (v : Nat) : (s.setVbat v).thatch = s.thatch := rfl
@[simp] theorem State.setVbat_burin (s : State) (v : Nat) : (s.setVbat v).burin = s.burin := rfl
@[simp] theorem State.setVbat_purlin (s : State) (v : Nat) : (s.setVbat v).purlin = s.purlin := rfl
@[simp] theorem State.setVbat_nv (s : State) (v : Nat) : (s.setVbat v).nv = s.nv := rfl
@[simp] theorem State.setVbat_root (s : State) (v : Nat) : (s.setVbat v).root = s.root := rfl
@[simp] theorem State.setVbat_cfg (s : State) (v : Nat) : (s.setVbat v).cfg = s.cfg := rfl

/-! ### setVsys -/

@[simp] theorem State.setVsys_pending (s : State) (v : Nat) : (s.setVsys v).pending = s.pending := rfl
@[simp] theorem State.setVsys_now (s : State) (v : Nat) : (s.setVsys v).now = s.now := rfl
@[simp] theorem State.setVsys_freeCtr (s : State) (v : Nat) : (s.setVsys v).freeCtr = s.freeCtr := rfl
@[simp] theorem State.setVsys_rdata (s : State) (v : Nat) : (s.setVsys v).rdata = s.rdata := rfl
@[simp] theorem State.setVsys_life (s : State) (v : Nat) : (s.setVsys v).life = s.life := rfl
@[simp] theorem State.setVsys_vinMv (s : State) (v : Nat) : (s.setVsys v).vinMv = s.vinMv := rfl
@[simp] theorem State.setVsys_vstMv (s : State) (v : Nat) : (s.setVsys v).vstMv = s.vstMv := rfl
@[simp] theorem State.setVsys_vbatMv (s : State) (v : Nat) : (s.setVsys v).vbatMv = s.vbatMv := rfl
@[simp] theorem State.setVsys_vsysMv (s : State) (v : Nat) : (s.setVsys v).vsysMv = v := rfl
@[simp] theorem State.setVsys_regs (s : State) (v : Nat) : (s.setVsys v).regs = s.regs := rfl
@[simp] theorem State.setVsys_supply (s : State) (v : Nat) : (s.setVsys v).supply = s.supply := rfl
@[simp] theorem State.setVsys_gutter (s : State) (v : Nat) : (s.setVsys v).gutter = s.gutter := rfl
@[simp] theorem State.setVsys_clk (s : State) (v : Nat) : (s.setVsys v).clk = s.clk := rfl
@[simp] theorem State.setVsys_power (s : State) (v : Nat) : (s.setVsys v).power = s.power := rfl
@[simp] theorem State.setVsys_res (s : State) (v : Nat) : (s.setVsys v).res = s.res := rfl
@[simp] theorem State.setVsys_ridge (s : State) (v : Nat) : (s.setVsys v).ridge = s.ridge := rfl
@[simp] theorem State.setVsys_core (s : State) (v : Nat) : (s.setVsys v).core = s.core := rfl
@[simp] theorem State.setVsys_gabs (s : State) (v : Nat) : (s.setVsys v).gabs = s.gabs := rfl
@[simp] theorem State.setVsys_frame (s : State) (v : Nat) : (s.setVsys v).frame = s.frame := rfl
@[simp] theorem State.setVsys_cache (s : State) (v : Nat) : (s.setVsys v).cache = s.cache := rfl
@[simp] theorem State.setVsys_banks (s : State) (v : Nat) : (s.setVsys v).banks = s.banks := rfl
@[simp] theorem State.setVsys_thatch (s : State) (v : Nat) : (s.setVsys v).thatch = s.thatch := rfl
@[simp] theorem State.setVsys_burin (s : State) (v : Nat) : (s.setVsys v).burin = s.burin := rfl
@[simp] theorem State.setVsys_purlin (s : State) (v : Nat) : (s.setVsys v).purlin = s.purlin := rfl
@[simp] theorem State.setVsys_nv (s : State) (v : Nat) : (s.setVsys v).nv = s.nv := rfl
@[simp] theorem State.setVsys_root (s : State) (v : Nat) : (s.setVsys v).root = s.root := rfl
@[simp] theorem State.setVsys_cfg (s : State) (v : Nat) : (s.setVsys v).cfg = s.cfg := rfl

/-! ### orReg -/

@[simp] theorem State.orReg_pending (s : State) (r : Reg) (m : Word) : (s.orReg r m).pending = s.pending := rfl
@[simp] theorem State.orReg_now (s : State) (r : Reg) (m : Word) : (s.orReg r m).now = s.now := rfl
@[simp] theorem State.orReg_freeCtr (s : State) (r : Reg) (m : Word) : (s.orReg r m).freeCtr = s.freeCtr := rfl
@[simp] theorem State.orReg_rdata (s : State) (r : Reg) (m : Word) : (s.orReg r m).rdata = s.rdata := rfl
@[simp] theorem State.orReg_life (s : State) (r : Reg) (m : Word) : (s.orReg r m).life = s.life := rfl
@[simp] theorem State.orReg_vinMv (s : State) (r : Reg) (m : Word) : (s.orReg r m).vinMv = s.vinMv := rfl
@[simp] theorem State.orReg_vstMv (s : State) (r : Reg) (m : Word) : (s.orReg r m).vstMv = s.vstMv := rfl
@[simp] theorem State.orReg_vbatMv (s : State) (r : Reg) (m : Word) : (s.orReg r m).vbatMv = s.vbatMv := rfl
@[simp] theorem State.orReg_vsysMv (s : State) (r : Reg) (m : Word) : (s.orReg r m).vsysMv = s.vsysMv := rfl
@[simp] theorem State.orReg_supply (s : State) (r : Reg) (m : Word) : (s.orReg r m).supply = s.supply := rfl
@[simp] theorem State.orReg_gutter (s : State) (r : Reg) (m : Word) : (s.orReg r m).gutter = s.gutter := rfl
@[simp] theorem State.orReg_clk (s : State) (r : Reg) (m : Word) : (s.orReg r m).clk = s.clk := rfl
@[simp] theorem State.orReg_power (s : State) (r : Reg) (m : Word) : (s.orReg r m).power = s.power := rfl
@[simp] theorem State.orReg_res (s : State) (r : Reg) (m : Word) : (s.orReg r m).res = s.res := rfl
@[simp] theorem State.orReg_ridge (s : State) (r : Reg) (m : Word) : (s.orReg r m).ridge = s.ridge := rfl
@[simp] theorem State.orReg_core (s : State) (r : Reg) (m : Word) : (s.orReg r m).core = s.core := rfl
@[simp] theorem State.orReg_gabs (s : State) (r : Reg) (m : Word) : (s.orReg r m).gabs = s.gabs := rfl
@[simp] theorem State.orReg_frame (s : State) (r : Reg) (m : Word) : (s.orReg r m).frame = s.frame := rfl
@[simp] theorem State.orReg_cache (s : State) (r : Reg) (m : Word) : (s.orReg r m).cache = s.cache := rfl
@[simp] theorem State.orReg_banks (s : State) (r : Reg) (m : Word) : (s.orReg r m).banks = s.banks := rfl
@[simp] theorem State.orReg_thatch (s : State) (r : Reg) (m : Word) : (s.orReg r m).thatch = s.thatch := rfl
@[simp] theorem State.orReg_burin (s : State) (r : Reg) (m : Word) : (s.orReg r m).burin = s.burin := rfl
@[simp] theorem State.orReg_purlin (s : State) (r : Reg) (m : Word) : (s.orReg r m).purlin = s.purlin := rfl
@[simp] theorem State.orReg_nv (s : State) (r : Reg) (m : Word) : (s.orReg r m).nv = s.nv := rfl
@[simp] theorem State.orReg_root (s : State) (r : Reg) (m : Word) : (s.orReg r m).root = s.root := rfl
@[simp] theorem State.orReg_cfg (s : State) (r : Reg) (m : Word) : (s.orReg r m).cfg = s.cfg := rfl

/-! ### clearReg -/

@[simp] theorem State.clearReg_pending (s : State) (r : Reg) (m : Word) : (s.clearReg r m).pending = s.pending := rfl
@[simp] theorem State.clearReg_now (s : State) (r : Reg) (m : Word) : (s.clearReg r m).now = s.now := rfl
@[simp] theorem State.clearReg_freeCtr (s : State) (r : Reg) (m : Word) : (s.clearReg r m).freeCtr = s.freeCtr := rfl
@[simp] theorem State.clearReg_rdata (s : State) (r : Reg) (m : Word) : (s.clearReg r m).rdata = s.rdata := rfl
@[simp] theorem State.clearReg_life (s : State) (r : Reg) (m : Word) : (s.clearReg r m).life = s.life := rfl
@[simp] theorem State.clearReg_vinMv (s : State) (r : Reg) (m : Word) : (s.clearReg r m).vinMv = s.vinMv := rfl
@[simp] theorem State.clearReg_vstMv (s : State) (r : Reg) (m : Word) : (s.clearReg r m).vstMv = s.vstMv := rfl
@[simp] theorem State.clearReg_vbatMv (s : State) (r : Reg) (m : Word) : (s.clearReg r m).vbatMv = s.vbatMv := rfl
@[simp] theorem State.clearReg_vsysMv (s : State) (r : Reg) (m : Word) : (s.clearReg r m).vsysMv = s.vsysMv := rfl
@[simp] theorem State.clearReg_supply (s : State) (r : Reg) (m : Word) : (s.clearReg r m).supply = s.supply := rfl
@[simp] theorem State.clearReg_gutter (s : State) (r : Reg) (m : Word) : (s.clearReg r m).gutter = s.gutter := rfl
@[simp] theorem State.clearReg_clk (s : State) (r : Reg) (m : Word) : (s.clearReg r m).clk = s.clk := rfl
@[simp] theorem State.clearReg_power (s : State) (r : Reg) (m : Word) : (s.clearReg r m).power = s.power := rfl
@[simp] theorem State.clearReg_res (s : State) (r : Reg) (m : Word) : (s.clearReg r m).res = s.res := rfl
@[simp] theorem State.clearReg_ridge (s : State) (r : Reg) (m : Word) : (s.clearReg r m).ridge = s.ridge := rfl
@[simp] theorem State.clearReg_core (s : State) (r : Reg) (m : Word) : (s.clearReg r m).core = s.core := rfl
@[simp] theorem State.clearReg_gabs (s : State) (r : Reg) (m : Word) : (s.clearReg r m).gabs = s.gabs := rfl
@[simp] theorem State.clearReg_frame (s : State) (r : Reg) (m : Word) : (s.clearReg r m).frame = s.frame := rfl
@[simp] theorem State.clearReg_cache (s : State) (r : Reg) (m : Word) : (s.clearReg r m).cache = s.cache := rfl
@[simp] theorem State.clearReg_banks (s : State) (r : Reg) (m : Word) : (s.clearReg r m).banks = s.banks := rfl
@[simp] theorem State.clearReg_thatch (s : State) (r : Reg) (m : Word) : (s.clearReg r m).thatch = s.thatch := rfl
@[simp] theorem State.clearReg_burin (s : State) (r : Reg) (m : Word) : (s.clearReg r m).burin = s.burin := rfl
@[simp] theorem State.clearReg_purlin (s : State) (r : Reg) (m : Word) : (s.clearReg r m).purlin = s.purlin := rfl
@[simp] theorem State.clearReg_nv (s : State) (r : Reg) (m : Word) : (s.clearReg r m).nv = s.nv := rfl
@[simp] theorem State.clearReg_root (s : State) (r : Reg) (m : Word) : (s.clearReg r m).root = s.root := rfl
@[simp] theorem State.clearReg_cfg (s : State) (r : Reg) (m : Word) : (s.clearReg r m).cfg = s.cfg := rfl

/-! ### setField -/

@[simp] theorem State.setField_pending (s : State) (r : Reg) (hi lo v : Nat) : (s.setField r hi lo v).pending = s.pending := rfl
@[simp] theorem State.setField_now (s : State) (r : Reg) (hi lo v : Nat) : (s.setField r hi lo v).now = s.now := rfl
@[simp] theorem State.setField_freeCtr (s : State) (r : Reg) (hi lo v : Nat) : (s.setField r hi lo v).freeCtr = s.freeCtr := rfl
@[simp] theorem State.setField_rdata (s : State) (r : Reg) (hi lo v : Nat) : (s.setField r hi lo v).rdata = s.rdata := rfl
@[simp] theorem State.setField_life (s : State) (r : Reg) (hi lo v : Nat) : (s.setField r hi lo v).life = s.life := rfl
@[simp] theorem State.setField_vinMv (s : State) (r : Reg) (hi lo v : Nat) : (s.setField r hi lo v).vinMv = s.vinMv := rfl
@[simp] theorem State.setField_vstMv (s : State) (r : Reg) (hi lo v : Nat) : (s.setField r hi lo v).vstMv = s.vstMv := rfl
@[simp] theorem State.setField_vbatMv (s : State) (r : Reg) (hi lo v : Nat) : (s.setField r hi lo v).vbatMv = s.vbatMv := rfl
@[simp] theorem State.setField_vsysMv (s : State) (r : Reg) (hi lo v : Nat) : (s.setField r hi lo v).vsysMv = s.vsysMv := rfl
@[simp] theorem State.setField_supply (s : State) (r : Reg) (hi lo v : Nat) : (s.setField r hi lo v).supply = s.supply := rfl
@[simp] theorem State.setField_gutter (s : State) (r : Reg) (hi lo v : Nat) : (s.setField r hi lo v).gutter = s.gutter := rfl
@[simp] theorem State.setField_clk (s : State) (r : Reg) (hi lo v : Nat) : (s.setField r hi lo v).clk = s.clk := rfl
@[simp] theorem State.setField_power (s : State) (r : Reg) (hi lo v : Nat) : (s.setField r hi lo v).power = s.power := rfl
@[simp] theorem State.setField_res (s : State) (r : Reg) (hi lo v : Nat) : (s.setField r hi lo v).res = s.res := rfl
@[simp] theorem State.setField_ridge (s : State) (r : Reg) (hi lo v : Nat) : (s.setField r hi lo v).ridge = s.ridge := rfl
@[simp] theorem State.setField_core (s : State) (r : Reg) (hi lo v : Nat) : (s.setField r hi lo v).core = s.core := rfl
@[simp] theorem State.setField_gabs (s : State) (r : Reg) (hi lo v : Nat) : (s.setField r hi lo v).gabs = s.gabs := rfl
@[simp] theorem State.setField_frame (s : State) (r : Reg) (hi lo v : Nat) : (s.setField r hi lo v).frame = s.frame := rfl
@[simp] theorem State.setField_cache (s : State) (r : Reg) (hi lo v : Nat) : (s.setField r hi lo v).cache = s.cache := rfl
@[simp] theorem State.setField_banks (s : State) (r : Reg) (hi lo v : Nat) : (s.setField r hi lo v).banks = s.banks := rfl
@[simp] theorem State.setField_thatch (s : State) (r : Reg) (hi lo v : Nat) : (s.setField r hi lo v).thatch = s.thatch := rfl
@[simp] theorem State.setField_burin (s : State) (r : Reg) (hi lo v : Nat) : (s.setField r hi lo v).burin = s.burin := rfl
@[simp] theorem State.setField_purlin (s : State) (r : Reg) (hi lo v : Nat) : (s.setField r hi lo v).purlin = s.purlin := rfl
@[simp] theorem State.setField_nv (s : State) (r : Reg) (hi lo v : Nat) : (s.setField r hi lo v).nv = s.nv := rfl
@[simp] theorem State.setField_root (s : State) (r : Reg) (hi lo v : Nat) : (s.setField r hi lo v).root = s.root := rfl
@[simp] theorem State.setField_cfg (s : State) (r : Reg) (hi lo v : Nat) : (s.setField r hi lo v).cfg = s.cfg := rfl

/-! ### satField -/

@[simp] theorem State.satField_pending (s : State) (r : Reg) (hi lo : Nat) : (s.satField r hi lo).pending = s.pending := rfl
@[simp] theorem State.satField_now (s : State) (r : Reg) (hi lo : Nat) : (s.satField r hi lo).now = s.now := rfl
@[simp] theorem State.satField_freeCtr (s : State) (r : Reg) (hi lo : Nat) : (s.satField r hi lo).freeCtr = s.freeCtr := rfl
@[simp] theorem State.satField_rdata (s : State) (r : Reg) (hi lo : Nat) : (s.satField r hi lo).rdata = s.rdata := rfl
@[simp] theorem State.satField_life (s : State) (r : Reg) (hi lo : Nat) : (s.satField r hi lo).life = s.life := rfl
@[simp] theorem State.satField_vinMv (s : State) (r : Reg) (hi lo : Nat) : (s.satField r hi lo).vinMv = s.vinMv := rfl
@[simp] theorem State.satField_vstMv (s : State) (r : Reg) (hi lo : Nat) : (s.satField r hi lo).vstMv = s.vstMv := rfl
@[simp] theorem State.satField_vbatMv (s : State) (r : Reg) (hi lo : Nat) : (s.satField r hi lo).vbatMv = s.vbatMv := rfl
@[simp] theorem State.satField_vsysMv (s : State) (r : Reg) (hi lo : Nat) : (s.satField r hi lo).vsysMv = s.vsysMv := rfl
@[simp] theorem State.satField_supply (s : State) (r : Reg) (hi lo : Nat) : (s.satField r hi lo).supply = s.supply := rfl
@[simp] theorem State.satField_gutter (s : State) (r : Reg) (hi lo : Nat) : (s.satField r hi lo).gutter = s.gutter := rfl
@[simp] theorem State.satField_clk (s : State) (r : Reg) (hi lo : Nat) : (s.satField r hi lo).clk = s.clk := rfl
@[simp] theorem State.satField_power (s : State) (r : Reg) (hi lo : Nat) : (s.satField r hi lo).power = s.power := rfl
@[simp] theorem State.satField_res (s : State) (r : Reg) (hi lo : Nat) : (s.satField r hi lo).res = s.res := rfl
@[simp] theorem State.satField_ridge (s : State) (r : Reg) (hi lo : Nat) : (s.satField r hi lo).ridge = s.ridge := rfl
@[simp] theorem State.satField_core (s : State) (r : Reg) (hi lo : Nat) : (s.satField r hi lo).core = s.core := rfl
@[simp] theorem State.satField_gabs (s : State) (r : Reg) (hi lo : Nat) : (s.satField r hi lo).gabs = s.gabs := rfl
@[simp] theorem State.satField_frame (s : State) (r : Reg) (hi lo : Nat) : (s.satField r hi lo).frame = s.frame := rfl
@[simp] theorem State.satField_cache (s : State) (r : Reg) (hi lo : Nat) : (s.satField r hi lo).cache = s.cache := rfl
@[simp] theorem State.satField_banks (s : State) (r : Reg) (hi lo : Nat) : (s.satField r hi lo).banks = s.banks := rfl
@[simp] theorem State.satField_thatch (s : State) (r : Reg) (hi lo : Nat) : (s.satField r hi lo).thatch = s.thatch := rfl
@[simp] theorem State.satField_burin (s : State) (r : Reg) (hi lo : Nat) : (s.satField r hi lo).burin = s.burin := rfl
@[simp] theorem State.satField_purlin (s : State) (r : Reg) (hi lo : Nat) : (s.satField r hi lo).purlin = s.purlin := rfl
@[simp] theorem State.satField_nv (s : State) (r : Reg) (hi lo : Nat) : (s.satField r hi lo).nv = s.nv := rfl
@[simp] theorem State.satField_root (s : State) (r : Reg) (hi lo : Nat) : (s.satField r hi lo).root = s.root := rfl
@[simp] theorem State.satField_cfg (s : State) (r : Reg) (hi lo : Nat) : (s.satField r hi lo).cfg = s.cfg := rfl

/-! ### putBit -/

@[simp] theorem State.putBit_pending (s : State) (r : Reg) (k : Nat) (b : Bool) : (s.putBit r k b).pending = s.pending := by
  cases b <;> rfl
@[simp] theorem State.putBit_now (s : State) (r : Reg) (k : Nat) (b : Bool) : (s.putBit r k b).now = s.now := by
  cases b <;> rfl
@[simp] theorem State.putBit_freeCtr (s : State) (r : Reg) (k : Nat) (b : Bool) : (s.putBit r k b).freeCtr = s.freeCtr := by
  cases b <;> rfl
@[simp] theorem State.putBit_rdata (s : State) (r : Reg) (k : Nat) (b : Bool) : (s.putBit r k b).rdata = s.rdata := by
  cases b <;> rfl
@[simp] theorem State.putBit_life (s : State) (r : Reg) (k : Nat) (b : Bool) : (s.putBit r k b).life = s.life := by
  cases b <;> rfl
@[simp] theorem State.putBit_vinMv (s : State) (r : Reg) (k : Nat) (b : Bool) : (s.putBit r k b).vinMv = s.vinMv := by
  cases b <;> rfl
@[simp] theorem State.putBit_vstMv (s : State) (r : Reg) (k : Nat) (b : Bool) : (s.putBit r k b).vstMv = s.vstMv := by
  cases b <;> rfl
@[simp] theorem State.putBit_vbatMv (s : State) (r : Reg) (k : Nat) (b : Bool) : (s.putBit r k b).vbatMv = s.vbatMv := by
  cases b <;> rfl
@[simp] theorem State.putBit_vsysMv (s : State) (r : Reg) (k : Nat) (b : Bool) : (s.putBit r k b).vsysMv = s.vsysMv := by
  cases b <;> rfl
@[simp] theorem State.putBit_supply (s : State) (r : Reg) (k : Nat) (b : Bool) : (s.putBit r k b).supply = s.supply := by
  cases b <;> rfl
@[simp] theorem State.putBit_gutter (s : State) (r : Reg) (k : Nat) (b : Bool) : (s.putBit r k b).gutter = s.gutter := by
  cases b <;> rfl
@[simp] theorem State.putBit_clk (s : State) (r : Reg) (k : Nat) (b : Bool) : (s.putBit r k b).clk = s.clk := by
  cases b <;> rfl
@[simp] theorem State.putBit_power (s : State) (r : Reg) (k : Nat) (b : Bool) : (s.putBit r k b).power = s.power := by
  cases b <;> rfl
@[simp] theorem State.putBit_res (s : State) (r : Reg) (k : Nat) (b : Bool) : (s.putBit r k b).res = s.res := by
  cases b <;> rfl
@[simp] theorem State.putBit_ridge (s : State) (r : Reg) (k : Nat) (b : Bool) : (s.putBit r k b).ridge = s.ridge := by
  cases b <;> rfl
@[simp] theorem State.putBit_core (s : State) (r : Reg) (k : Nat) (b : Bool) : (s.putBit r k b).core = s.core := by
  cases b <;> rfl
@[simp] theorem State.putBit_gabs (s : State) (r : Reg) (k : Nat) (b : Bool) : (s.putBit r k b).gabs = s.gabs := by
  cases b <;> rfl
@[simp] theorem State.putBit_frame (s : State) (r : Reg) (k : Nat) (b : Bool) : (s.putBit r k b).frame = s.frame := by
  cases b <;> rfl
@[simp] theorem State.putBit_cache (s : State) (r : Reg) (k : Nat) (b : Bool) : (s.putBit r k b).cache = s.cache := by
  cases b <;> rfl
@[simp] theorem State.putBit_banks (s : State) (r : Reg) (k : Nat) (b : Bool) : (s.putBit r k b).banks = s.banks := by
  cases b <;> rfl
@[simp] theorem State.putBit_thatch (s : State) (r : Reg) (k : Nat) (b : Bool) : (s.putBit r k b).thatch = s.thatch := by
  cases b <;> rfl
@[simp] theorem State.putBit_burin (s : State) (r : Reg) (k : Nat) (b : Bool) : (s.putBit r k b).burin = s.burin := by
  cases b <;> rfl
@[simp] theorem State.putBit_purlin (s : State) (r : Reg) (k : Nat) (b : Bool) : (s.putBit r k b).purlin = s.purlin := by
  cases b <;> rfl
@[simp] theorem State.putBit_nv (s : State) (r : Reg) (k : Nat) (b : Bool) : (s.putBit r k b).nv = s.nv := by
  cases b <;> rfl
@[simp] theorem State.putBit_root (s : State) (r : Reg) (k : Nat) (b : Bool) : (s.putBit r k b).root = s.root := by
  cases b <;> rfl
@[simp] theorem State.putBit_cfg (s : State) (r : Reg) (k : Nat) (b : Bool) : (s.putBit r k b).cfg = s.cfg := by
  cases b <;> rfl

/-! ### commit -/

@[simp] theorem State.commit_pending (s t : State) : (s.commit t).pending = s.pending := rfl
@[simp] theorem State.commit_now (s t : State) : (s.commit t).now = s.now := rfl
@[simp] theorem State.commit_freeCtr (s t : State) : (s.commit t).freeCtr = t.freeCtr := rfl
@[simp] theorem State.commit_rdata (s t : State) : (s.commit t).rdata = t.rdata := rfl
@[simp] theorem State.commit_life (s t : State) : (s.commit t).life = t.life := rfl
@[simp] theorem State.commit_vinMv (s t : State) : (s.commit t).vinMv = t.vinMv := rfl
@[simp] theorem State.commit_vstMv (s t : State) : (s.commit t).vstMv = t.vstMv := rfl
@[simp] theorem State.commit_vbatMv (s t : State) : (s.commit t).vbatMv = t.vbatMv := rfl
@[simp] theorem State.commit_vsysMv (s t : State) : (s.commit t).vsysMv = t.vsysMv := rfl
@[simp] theorem State.commit_regs (s t : State) : (s.commit t).regs = t.regs := rfl
@[simp] theorem State.commit_supply (s t : State) : (s.commit t).supply = t.supply := rfl
@[simp] theorem State.commit_gutter (s t : State) : (s.commit t).gutter = t.gutter := rfl
@[simp] theorem State.commit_clk (s t : State) : (s.commit t).clk = t.clk := rfl
@[simp] theorem State.commit_power (s t : State) : (s.commit t).power = t.power := rfl
@[simp] theorem State.commit_res (s t : State) : (s.commit t).res = t.res := rfl
@[simp] theorem State.commit_ridge (s t : State) : (s.commit t).ridge = t.ridge := rfl
@[simp] theorem State.commit_core (s t : State) : (s.commit t).core = t.core := rfl
@[simp] theorem State.commit_gabs (s t : State) : (s.commit t).gabs = t.gabs := rfl
@[simp] theorem State.commit_frame (s t : State) : (s.commit t).frame = t.frame := rfl
@[simp] theorem State.commit_cache (s t : State) : (s.commit t).cache = t.cache := rfl
@[simp] theorem State.commit_banks (s t : State) : (s.commit t).banks = t.banks := rfl
@[simp] theorem State.commit_thatch (s t : State) : (s.commit t).thatch = t.thatch := rfl
@[simp] theorem State.commit_burin (s t : State) : (s.commit t).burin = t.burin := rfl
@[simp] theorem State.commit_purlin (s t : State) : (s.commit t).purlin = t.purlin := rfl
@[simp] theorem State.commit_nv (s t : State) : (s.commit t).nv = t.nv := rfl
@[simp] theorem State.commit_root (s t : State) : (s.commit t).root = s.root := rfl
@[simp] theorem State.commit_cfg (s t : State) : (s.commit t).cfg = s.cfg := rfl

/-- Two states that agree in every part are one. -/
theorem State.ext_fields {s t : State} (h0 : s.pending = t.pending) (h1 : s.now = t.now) (h2 : s.freeCtr =
    t.freeCtr) (h3 : s.rdata = t.rdata) (h4 : s.life = t.life) (h5 : s.vinMv = t.vinMv) (h6 : s.vstMv = t.vstMv)
    (h7 : s.vbatMv = t.vbatMv) (h8 : s.vsysMv = t.vsysMv) (h9 : s.regs = t.regs) (h10 : s.supply = t.supply) (h11 :
    s.gutter = t.gutter) (h12 : s.clk = t.clk) (h13 : s.power = t.power) (h14 : s.res = t.res) (h15 : s.ridge =
    t.ridge) (h16 : s.core = t.core) (h17 : s.gabs = t.gabs) (h18 : s.frame = t.frame) (h19 : s.cache = t.cache)
    (h20 : s.banks = t.banks) (h21 : s.thatch = t.thatch) (h22 : s.burin = t.burin) (h23 : s.purlin = t.purlin)
    (h24 : s.nv = t.nv) (h25 : s.root = t.root) (h26 : s.cfg = t.cfg) : s = t := by
  cases s; cases t; simp_all

end Sys2Proof.Machine
end

