-- ==== Sys2Proof/Laws/Regs.lean ====
section
/-! SUPPORT. What a register, a field and a bit read as after each update of the state. -/

namespace Sys2Proof.Machine

theorem regFind_regPut (l : RegFile) (r q : Reg) (v : Word) :
    regFind (regPut l r v) q = if r = q then some v else regFind l q := by
  induction l with
  | nil => simp [regPut, regFind]
  | cons x rest ih =>
    obtain ⟨p, w⟩ := x
    by_cases h : p = r
    · subst h; by_cases hq : p = q <;> simp [regPut, regFind, hq]
    · by_cases hq : p = q
      · subst hq; have : r ≠ p := fun e => h e.symm
        simp [regPut, regFind, h, this]
      · simp [regPut, regFind, h, hq, ih]

/-- A written register holds the value, and every other register what it held. -/
theorem State.reg_setReg (s : State) (r q : Reg) (v : Word) :
    (s.setReg r v).reg q = if r = q then v else s.reg q := by
  unfold State.reg State.setReg
  rw [regFind_regPut]
  by_cases h : r = q <;> simp [h]

@[simp] theorem State.reg_setReg_same (s : State) (r : Reg) (v : Word) : (s.setReg r v).reg r = v := by
  simp [State.reg_setReg]

@[simp] theorem State.reg_setReg_ne (s : State) {r q : Reg} (v : Word) (h : r ≠ q) :
    (s.setReg r v).reg q = s.reg q := by simp [State.reg_setReg, h]

theorem State.reg_orReg (s : State) (r q : Reg) (m : Word) :
    (s.orReg r m).reg q = if r = q then s.reg q ||| m else s.reg q := by
  unfold State.orReg; rw [State.reg_setReg]; by_cases h : r = q <;> simp [h]

theorem State.reg_clearReg (s : State) (r q : Reg) (m : Word) :
    (s.clearReg r m).reg q = if r = q then s.reg q &&& ~~~ m else s.reg q := by
  unfold State.clearReg; rw [State.reg_setReg]; by_cases h : r = q <;> simp [h]

theorem State.reg_setField (s : State) (r q : Reg) (hi lo v : Nat) :
    (s.setField r hi lo v).reg q = if r = q then putBits (s.reg q) hi lo v else s.reg q := by
  unfold State.setField; rw [State.reg_setReg]; by_cases h : r = q <;> simp [h]

theorem State.reg_satField (s : State) (r q : Reg) (hi lo : Nat) :
    (s.satField r hi lo).reg q = if r = q then satInc (s.reg q) hi lo else s.reg q := by
  unfold State.satField; rw [State.reg_setReg]; by_cases h : r = q <;> simp [h]

theorem State.reg_putBit (s : State) (r q : Reg) (k : Nat) (b : Bool) :
    (s.putBit r k b).reg q =
      if r = q then (if b then s.reg q ||| bitMask k else s.reg q &&& ~~~ (bitMask k)) else s.reg q := by
  unfold State.putBit
  cases b <;> simp [State.reg_orReg, State.reg_clearReg]

theorem State.bitOf_setReg (s : State) (r q : Reg) (v : Word) (k : Nat) :
    (s.setReg r v).bitOf q k = if r = q then v.getLsbD k else s.bitOf q k := by
  unfold State.bitOf; rw [State.reg_setReg]; by_cases h : r = q <;> simp [h]

theorem State.bitOf_orReg (s : State) (r q : Reg) (m : Word) (k : Nat) :
    (s.orReg r m).bitOf q k = if r = q then s.bitOf q k || m.getLsbD k else s.bitOf q k := by
  unfold State.bitOf; rw [State.reg_orReg]; by_cases h : r = q <;> simp [h]

theorem State.bitOf_clearReg (s : State) (r q : Reg) (m : Word) (k : Nat) :
    (s.clearReg r m).bitOf q k = if r = q then s.bitOf q k && !m.getLsbD k else s.bitOf q k := by
  unfold State.bitOf; rw [State.reg_clearReg]
  by_cases h : r = q
  · subst h
    by_cases hk : k < 32
    · simp [hk]
    · simp [BitVec.getLsbD_of_ge _ k (Nat.le_of_not_lt hk)]
  · simp [h]

theorem State.bitOf_putBit (s : State) (r q : Reg) (j k : Nat) (b : Bool) (hk : k < 32) :
    (s.putBit r j b).bitOf q k = if r = q ∧ k = j then b else s.bitOf q k := by
  unfold State.putBit
  by_cases h : r = q
  · by_cases hj : k = j
    · subst hj; cases b <;> simp [State.bitOf_orReg, State.bitOf_clearReg, getLsbD_bitMask, h, hk]
    · cases b <;> simp [State.bitOf_orReg, State.bitOf_clearReg, getLsbD_bitMask, h, hj]
  · cases b <;> simp [State.bitOf_orReg, State.bitOf_clearReg, h]

theorem State.bitOf_setField (s : State) (r q : Reg) (hi lo v k : Nat) (h : lo ≤ hi) :
    (s.setField r hi lo v).bitOf q k =
      if r = q ∧ lo ≤ k ∧ k ≤ hi ∧ k < 32 then v.testBit (k - lo) else s.bitOf q k := by
  unfold State.bitOf; rw [State.reg_setField]
  by_cases hr : r = q <;> simp [hr, getLsbD_putBits _ _ _ _ _ h]

theorem State.fieldOf_setField_same (s : State) (r : Reg) (hi lo v : Nat) (h : lo ≤ hi) (h32 : hi < 32) :
    (s.setField r hi lo v).fieldOf r hi lo = v % 2 ^ (hi - lo + 1) := by
  unfold State.fieldOf; rw [State.reg_setField, if_pos rfl, bitsOf_putBits_same _ _ _ _ h h32]

@[simp] theorem State.reg_setPower (s : State) (f : Power → Power) (q : Reg) : (s.setPower f).reg q = s.reg q := rfl
@[simp] theorem State.bitOf_setPower (s : State) (f : Power → Power) (q : Reg) (k : Nat) : (s.setPower f).bitOf q k = s.bitOf q k := rfl
@[simp] theorem State.fieldOf_setPower (s : State) (f : Power → Power) (q : Reg) (hi lo : Nat) :
    (s.setPower f).fieldOf q hi lo = s.fieldOf q hi lo := rfl
@[simp] theorem State.reg_setSupply (s : State) (f : Supply → Supply) (q : Reg) : (s.setSupply f).reg q = s.reg q := rfl
@[simp] theorem State.bitOf_setSupply (s : State) (f : Supply → Supply) (q : Reg) (k : Nat) : (s.setSupply f).bitOf q k = s.bitOf q k := rfl
@[simp] theorem State.fieldOf_setSupply (s : State) (f : Supply → Supply) (q : Reg) (hi lo : Nat) :
    (s.setSupply f).fieldOf q hi lo = s.fieldOf q hi lo := rfl
@[simp] theorem State.reg_setGutter (s : State) (f : Gutter → Gutter) (q : Reg) : (s.setGutter f).reg q = s.reg q := rfl
@[simp] theorem State.bitOf_setGutter (s : State) (f : Gutter → Gutter) (q : Reg) (k : Nat) : (s.setGutter f).bitOf q k = s.bitOf q k := rfl
@[simp] theorem State.fieldOf_setGutter (s : State) (f : Gutter → Gutter) (q : Reg) (hi lo : Nat) :
    (s.setGutter f).fieldOf q hi lo = s.fieldOf q hi lo := rfl
@[simp] theorem State.reg_setClk (s : State) (f : Clocks → Clocks) (q : Reg) : (s.setClk f).reg q = s.reg q := rfl
@[simp] theorem State.bitOf_setClk (s : State) (f : Clocks → Clocks) (q : Reg) (k : Nat) : (s.setClk f).bitOf q k = s.bitOf q k := rfl
@[simp] theorem State.fieldOf_setClk (s : State) (f : Clocks → Clocks) (q : Reg) (hi lo : Nat) :
    (s.setClk f).fieldOf q hi lo = s.fieldOf q hi lo := rfl
@[simp] theorem State.reg_setRidge (s : State) (f : Ridge → Ridge) (q : Reg) : (s.setRidge f).reg q = s.reg q := rfl
@[simp] theorem State.bitOf_setRidge (s : State) (f : Ridge → Ridge) (q : Reg) (k : Nat) : (s.setRidge f).bitOf q k = s.bitOf q k := rfl
@[simp] theorem State.fieldOf_setRidge (s : State) (f : Ridge → Ridge) (q : Reg) (hi lo : Nat) :
    (s.setRidge f).fieldOf q hi lo = s.fieldOf q hi lo := rfl
@[simp] theorem State.reg_setCore (s : State) (f : Core → Core) (q : Reg) : (s.setCore f).reg q = s.reg q := rfl
@[simp] theorem State.bitOf_setCore (s : State) (f : Core → Core) (q : Reg) (k : Nat) : (s.setCore f).bitOf q k = s.bitOf q k := rfl
@[simp] theorem State.fieldOf_setCore (s : State) (f : Core → Core) (q : Reg) (hi lo : Nat) :
    (s.setCore f).fieldOf q hi lo = s.fieldOf q hi lo := rfl
@[simp] theorem State.reg_setBurin (s : State) (f : Burin → Burin) (q : Reg) : (s.setBurin f).reg q = s.reg q := rfl
@[simp] theorem State.bitOf_setBurin (s : State) (f : Burin → Burin) (q : Reg) (k : Nat) : (s.setBurin f).bitOf q k = s.bitOf q k := rfl
@[simp] theorem State.fieldOf_setBurin (s : State) (f : Burin → Burin) (q : Reg) (hi lo : Nat) :
    (s.setBurin f).fieldOf q hi lo = s.fieldOf q hi lo := rfl
@[simp] theorem State.reg_setPurlin (s : State) (f : Purlin → Purlin) (q : Reg) : (s.setPurlin f).reg q = s.reg q := rfl
@[simp] theorem State.bitOf_setPurlin (s : State) (f : Purlin → Purlin) (q : Reg) (k : Nat) : (s.setPurlin f).bitOf q k = s.bitOf q k := rfl
@[simp] theorem State.fieldOf_setPurlin (s : State) (f : Purlin → Purlin) (q : Reg) (hi lo : Nat) :
    (s.setPurlin f).fieldOf q hi lo = s.fieldOf q hi lo := rfl
@[simp] theorem State.reg_setThatch (s : State) (f : Thatch → Thatch) (q : Reg) : (s.setThatch f).reg q = s.reg q := rfl
@[simp] theorem State.bitOf_setThatch (s : State) (f : Thatch → Thatch) (q : Reg) (k : Nat) : (s.setThatch f).bitOf q k = s.bitOf q k := rfl
@[simp] theorem State.fieldOf_setThatch (s : State) (f : Thatch → Thatch) (q : Reg) (hi lo : Nat) :
    (s.setThatch f).fieldOf q hi lo = s.fieldOf q hi lo := rfl
@[simp] theorem State.reg_setBanks (s : State) (f : Banks → Banks) (q : Reg) : (s.setBanks f).reg q = s.reg q := rfl
@[simp] theorem State.bitOf_setBanks (s : State) (f : Banks → Banks) (q : Reg) (k : Nat) : (s.setBanks f).bitOf q k = s.bitOf q k := rfl
@[simp] theorem State.fieldOf_setBanks (s : State) (f : Banks → Banks) (q : Reg) (hi lo : Nat) :
    (s.setBanks f).fieldOf q hi lo = s.fieldOf q hi lo := rfl
@[simp] theorem State.reg_setNv (s : State) (f : Nonvolatile → Nonvolatile) (q : Reg) : (s.setNv f).reg q = s.reg q := rfl
@[simp] theorem State.bitOf_setNv (s : State) (f : Nonvolatile → Nonvolatile) (q : Reg) (k : Nat) : (s.setNv f).bitOf q k = s.bitOf q k := rfl
@[simp] theorem State.fieldOf_setNv (s : State) (f : Nonvolatile → Nonvolatile) (q : Reg) (hi lo : Nat) :
    (s.setNv f).fieldOf q hi lo = s.fieldOf q hi lo := rfl
@[simp] theorem State.reg_setFrame (s : State) (f : SchedFrame → SchedFrame) (q : Reg) : (s.setFrame f).reg q = s.reg q := rfl
@[simp] theorem State.bitOf_setFrame (s : State) (f : SchedFrame → SchedFrame) (q : Reg) (k : Nat) : (s.setFrame f).bitOf q k = s.bitOf q k := rfl
@[simp] theorem State.fieldOf_setFrame (s : State) (f : SchedFrame → SchedFrame) (q : Reg) (hi lo : Nat) :
    (s.setFrame f).fieldOf q hi lo = s.fieldOf q hi lo := rfl
@[simp] theorem State.reg_setGab (s : State) (g : Gable) (f : GabState → GabState) (q : Reg) : (s.setGab g f).reg q = s.reg q := rfl
@[simp] theorem State.bitOf_setGab (s : State) (g : Gable) (f : GabState → GabState) (q : Reg) (k : Nat) : (s.setGab g f).bitOf q k = s.bitOf q k := rfl
@[simp] theorem State.fieldOf_setGab (s : State) (g : Gable) (f : GabState → GabState) (q : Reg) (hi lo : Nat) :
    (s.setGab g f).fieldOf q hi lo = s.fieldOf q hi lo := rfl
@[simp] theorem State.reg_setPort (s : State) (p : Port) (f : PortState → PortState) (q : Reg) : (s.setPort p f).reg q = s.reg q := rfl
@[simp] theorem State.bitOf_setPort (s : State) (p : Port) (f : PortState → PortState) (q : Reg) (k : Nat) : (s.setPort p f).bitOf q k = s.bitOf q k := rfl
@[simp] theorem State.fieldOf_setPort (s : State) (p : Port) (f : PortState → PortState) (q : Reg) (hi lo : Nat) :
    (s.setPort p f).fieldOf q hi lo = s.fieldOf q hi lo := rfl
@[simp] theorem State.reg_setEngine (s : State) (n : EngineNo) (f : Engine → Engine) (q : Reg) : (s.setEngine n f).reg q = s.reg q := rfl
@[simp] theorem State.bitOf_setEngine (s : State) (n : EngineNo) (f : Engine → Engine) (q : Reg) (k : Nat) : (s.setEngine n f).bitOf q k = s.bitOf q k := rfl
@[simp] theorem State.fieldOf_setEngine (s : State) (n : EngineNo) (f : Engine → Engine) (q : Reg) (hi lo : Nat) :
    (s.setEngine n f).fieldOf q hi lo = s.fieldOf q hi lo := rfl
@[simp] theorem State.reg_setCtxOf (s : State) (g : Gable) (f : Ctx → Ctx) (q : Reg) : (s.setCtxOf g f).reg q = s.reg q := rfl
@[simp] theorem State.bitOf_setCtxOf (s : State) (g : Gable) (f : Ctx → Ctx) (q : Reg) (k : Nat) : (s.setCtxOf g f).bitOf q k = s.bitOf q k := rfl
@[simp] theorem State.fieldOf_setCtxOf (s : State) (g : Gable) (f : Ctx → Ctx) (q : Reg) (hi lo : Nat) :
    (s.setCtxOf g f).fieldOf q hi lo = s.fieldOf q hi lo := rfl
@[simp] theorem State.reg_setGreq (s : State) (g : Gable) (r : GState) (q : Reg) : (s.setGreq g r).reg q = s.reg q := rfl
@[simp] theorem State.bitOf_setGreq (s : State) (g : Gable) (r : GState) (q : Reg) (k : Nat) : (s.setGreq g r).bitOf q k = s.bitOf q k := rfl
@[simp] theorem State.fieldOf_setGreq (s : State) (g : Gable) (r : GState) (q : Reg) (hi lo : Nat) :
    (s.setGreq g r).fieldOf q hi lo = s.fieldOf q hi lo := rfl
@[simp] theorem State.reg_setCache (s : State) (f : Cache → Cache) (q : Reg) : (s.setCache f).reg q = s.reg q := rfl
@[simp] theorem State.bitOf_setCache (s : State) (f : Cache → Cache) (q : Reg) (k : Nat) : (s.setCache f).bitOf q k = s.bitOf q k := rfl
@[simp] theorem State.fieldOf_setCache (s : State) (f : Cache → Cache) (q : Reg) (hi lo : Nat) :
    (s.setCache f).fieldOf q hi lo = s.fieldOf q hi lo := rfl
@[simp] theorem State.reg_setCtx (s : State) (f : RidgeCtx → RidgeCtx) (q : Reg) : (s.setCtx f).reg q = s.reg q := rfl
@[simp] theorem State.bitOf_setCtx (s : State) (f : RidgeCtx → RidgeCtx) (q : Reg) (k : Nat) : (s.setCtx f).bitOf q k = s.bitOf q k := rfl
@[simp] theorem State.fieldOf_setCtx (s : State) (f : RidgeCtx → RidgeCtx) (q : Reg) (hi lo : Nat) :
    (s.setCtx f).fieldOf q hi lo = s.fieldOf q hi lo := rfl
@[simp] theorem State.reg_setVin (s : State) (v : Nat) (q : Reg) : (s.setVin v).reg q = s.reg q := rfl
@[simp] theorem State.bitOf_setVin (s : State) (v : Nat) (q : Reg) (k : Nat) : (s.setVin v).bitOf q k = s.bitOf q k := rfl
@[simp] theorem State.fieldOf_setVin (s : State) (v : Nat) (q : Reg) (hi lo : Nat) :
    (s.setVin v).fieldOf q hi lo = s.fieldOf q hi lo := rfl
@[simp] theorem State.reg_setVst (s : State) (v : Nat) (q : Reg) : (s.setVst v).reg q = s.reg q := rfl
@[simp] theorem State.bitOf_setVst (s : State) (v : Nat) (q : Reg) (k : Nat) : (s.setVst v).bitOf q k = s.bitOf q k := rfl
@[simp] theorem State.fieldOf_setVst (s : State) (v : Nat) (q : Reg) (hi lo : Nat) :
    (s.setVst v).fieldOf q hi lo = s.fieldOf q hi lo := rfl
@[simp] theorem State.reg_setVbat (s : State) (v : Nat) (q : Reg) : (s.setVbat v).reg q = s.reg q := rfl
@[simp] theorem State.bitOf_setVbat (s : State) (v : Nat) (q : Reg) (k : Nat) : (s.setVbat v).bitOf q k = s.bitOf q k := rfl
@[simp] theorem State.fieldOf_setVbat (s : State) (v : Nat) (q : Reg) (hi lo : Nat) :
    (s.setVbat v).fieldOf q hi lo = s.fieldOf q hi lo := rfl
@[simp] theorem State.reg_setVsys (s : State) (v : Nat) (q : Reg) : (s.setVsys v).reg q = s.reg q := rfl
@[simp] theorem State.bitOf_setVsys (s : State) (v : Nat) (q : Reg) (k : Nat) : (s.setVsys v).bitOf q k = s.bitOf q k := rfl
@[simp] theorem State.fieldOf_setVsys (s : State) (v : Nat) (q : Reg) (hi lo : Nat) :
    (s.setVsys v).fieldOf q hi lo = s.fieldOf q hi lo := rfl

@[simp] theorem State.reg_commit (s t : State) (q : Reg) : (s.commit t).reg q = t.reg q := rfl
@[simp] theorem State.bitOf_commit (s t : State) (q : Reg) (k : Nat) : (s.commit t).bitOf q k = t.bitOf q k := rfl
@[simp] theorem State.fieldOf_commit (s t : State) (q : Reg) (hi lo : Nat) :
    (s.commit t).fieldOf q hi lo = t.fieldOf q hi lo := rfl

/-- An event whose condition holds takes place. -/
@[simp] theorem State.when_true (s : State) (f : State → State) : s.when true f = f s := rfl

/-- An event whose condition does not hold leaves the state alone. -/
@[simp] theorem State.when_false (s : State) (f : State → State) : s.when false f = s := rfl

theorem State.when_pos (s : State) (f : State → State) {c : Bool} (h : c = true) : s.when c f = f s := by rw [h]; rfl

/-- A state that changed no part that `commit` keeps is the one handed back. -/
theorem State.commit_eq (s t : State) (h1 : t.cfg = s.cfg) (h2 : t.root = s.root) (h3 : t.now = s.now)
    (h4 : t.pending = s.pending) : s.commit t = t := by
  unfold State.commit; rw [← h1, ← h2, ← h3, ← h4]

end Sys2Proof.Machine
end

