-- ==== Sys2Proof/Laws/MemOnly.lean ====
section
/-! SUPPORT. What the operations of the banks, the cache and fetch can change: registers, the cache and the banks, and
nothing else. -/

namespace Sys2Proof.Machine

/-- The two states differ at most in the cache, the banks, and the registers that accesses count in. -/
def State.memOnly (s t : State) : Prop :=
  t = { s with regs := t.regs, cache := t.cache, banks := t.banks } ∧
    ∀ r, Reg.isCount r = false → t.reg r = s.reg r

theorem State.memOnly_refl (s : State) : s.memOnly s := ⟨rfl, fun _ _ => rfl⟩

theorem State.memOnly_trans {s t u : State} (h : s.memOnly t) (k : t.memOnly u) : s.memOnly u := by
  refine ⟨?_, fun r hr => ?_⟩
  · rw [k.1, h.1]
  · rw [k.2 r hr, h.2 r hr]

theorem State.memOnly_setReg (s : State) (r : Reg) (v : Word) (h : Reg.isCount r = true) : s.memOnly (s.setReg r v) := by
  refine ⟨rfl, fun q hq => ?_⟩
  rw [State.reg_setReg_ne]
  rintro rfl; rw [h] at hq; cases hq

theorem State.memOnly_foldl {α : Type} (f : State → α → State) (hf : ∀ (t : State) (x : α), t.memOnly (f t x)) (l : List α) (s : State) :
    s.memOnly (l.foldl f s) := by
  induction l generalizing s with
  | nil => exact State.memOnly_refl s
  | cons x l ih => exact State.memOnly_trans (hf s x) (ih _)

theorem State.memOnly_orReg (s : State) (r : Reg) (m : Word) (h : Reg.isCount r = true) : s.memOnly (s.orReg r m) :=
  State.memOnly_setReg s r _ h
theorem State.memOnly_satField (s : State) (r : Reg) (hi lo : Nat) (h : Reg.isCount r = true) :
    s.memOnly (s.satField r hi lo) := State.memOnly_setReg s r _ h
theorem State.memOnly_setBanks (s : State) (f : Banks → Banks) : s.memOnly (s.setBanks f) := ⟨rfl, fun _ _ => rfl⟩
theorem State.memOnly_setCache (s : State) (f : Cache → Cache) : s.memOnly (s.setCache f) := ⟨rfl, fun _ _ => rfl⟩
theorem State.memOnly_setLine (s : State) (i : Fin 48) (f : Line → Line) : s.memOnly (s.setLine i f) :=
  ⟨rfl, fun _ _ => rfl⟩
theorem State.memOnly_lcCount (s : State) (g : Gable) (k : Fin 5) : s.memOnly (s.lcCount g k) :=
  State.memOnly_satField s _ _ _ rfl

theorem State.memOnly_eccEvent (s : State) (req w : Nat) (ue : Bool) : s.memOnly (s.eccEvent req w ue) := by
  unfold State.eccEvent
  simp only
  refine State.memOnly_trans ?_ (State.memOnly_setReg _ _ _ rfl)
  cases ue
  · exact State.memOnly_satField s _ _ _ rfl
  · exact State.memOnly_satField s _ _ _ rfl

theorem State.memOnly_bankRead (s : State) (req w : Nat) : s.memOnly (s.bankRead req w).2.2 := by
  unfold State.bankRead
  simp only
  split
  · exact State.memOnly_refl s
  · exact State.memOnly_trans (State.memOnly_eccEvent s req w false) ⟨rfl, fun _ _ => rfl⟩
  · exact State.memOnly_eccEvent s req w true

theorem State.memOnly_bankWrite (s : State) (a : Nat) (bytes : List Byte) : s.memOnly (s.bankWrite a bytes) := by
  unfold State.bankWrite
  simp only
  split
  · exact State.memOnly_setBanks _ _
  · split
    · exact State.memOnly_trans (State.memOnly_setBanks _ _) (State.memOnly_orReg _ _ _ rfl)
    · exact State.memOnly_setBanks _ _

theorem State.memOnly_bankAlias (s : State) (req a : Nat) (bytes : List Byte) (k : StoreKind) :
    s.memOnly (s.bankAlias req a bytes k) := by
  unfold State.bankAlias
  simp only
  split
  · exact State.memOnly_trans (State.memOnly_eccEvent s _ _ _) (State.memOnly_orReg _ _ _ rfl)
  · exact State.memOnly_trans (State.memOnly_eccEvent s _ _ _) (State.memOnly_setBanks _ _)
  · exact State.memOnly_setBanks _ _

theorem State.memOnly_cleanLine (s : State) (i : Fin 48) : s.memOnly (s.cleanLine i) := by
  unfold State.cleanLine
  simp only
  split
  · exact State.memOnly_trans (State.memOnly_foldl _ (fun t k => State.memOnly_setBanks t _) _ s)
      (State.memOnly_setLine _ _ _)
  · exact State.memOnly_refl _

theorem State.memOnly_dropLine (s : State) (i : Fin 48) : s.memOnly (s.dropLine i) :=
  State.memOnly_setLine _ _ _

theorem State.memOnly_flushLine (s : State) (i : Fin 48) : s.memOnly (s.flushLine i) :=
  State.memOnly_trans (State.memOnly_cleanLine s i) (State.memOnly_dropLine _ i)

theorem State.memOnly_cacheWriteBack (s : State) : s.memOnly s.cacheWriteBack :=
  State.memOnly_foldl _ (fun t i => State.memOnly_cleanLine t i) _ s

theorem State.memOnly_evictHolder (s : State) (l : Nat) : s.memOnly (s.evictHolder l) := by
  unfold State.evictHolder
  split
  · exact State.memOnly_refl _
  · exact State.memOnly_trans (State.memOnly_flushLine s _) (State.memOnly_lcCount _ _ _)

theorem State.memOnly_clearRefs (s : State) (g : Gable) : s.memOnly (s.clearRefs g) := by
  unfold State.clearRefs
  refine State.memOnly_foldl _ (fun t i => ?_) _ s
  split
  · exact State.memOnly_refl _
  · exact State.memOnly_setLine _ _ _

theorem State.memOnly_victim (s : State) (g : Gable) : s.memOnly (s.victim g).2 := by
  unfold State.victim
  simp only
  split
  · exact State.memOnly_refl _
  · split <;> exact State.memOnly_clearRefs s g

theorem State.memOnly_readWords (f : Nat → Nat) (l : List Nat) (acc : List Byte × BitVec 4 × State) (s : State)
    (h : s.memOnly acc.2.2) :
    s.memOnly (l.foldl
      (fun (acc : List Byte × BitVec 4 × State) k =>
        let x := acc.2.2.bankRead reqCache (f k)
        (acc.1 ++ x.1, if x.2.1 then acc.2.1 ||| BitVec.ofNat 4 (2 ^ k) else acc.2.1, x.2.2)) acc).2.2 := by
  induction l generalizing acc with
  | nil => exact h
  | cons k l ih => exact ih _ (State.memOnly_trans h (State.memOnly_bankRead _ _ _))

theorem State.memOnly_fill (s : State) (g : Gable) (l : Nat) (d : Bool) : s.memOnly (s.fill g l d).2 := by
  have hv := State.memOnly_victim s g
  unfold State.fill
  revert hv
  rcases s.victim g with ⟨_ | i, t⟩ <;> intro hv
  · exact hv
  · refine State.memOnly_trans hv (State.memOnly_trans (State.memOnly_cleanLine t i) ?_)
    exact State.memOnly_trans (State.memOnly_readWords (fun k => 4 * l + k) _ _ _ (State.memOnly_refl _))
      (State.memOnly_setLine _ _ _)

theorem State.memOnly_touchLine (s : State) (g : Gable) (i : Fin 48) : s.memOnly (s.touchLine g i) := by
  unfold State.touchLine
  simp only
  refine State.memOnly_trans ?_ (State.memOnly_trans (State.memOnly_setLine _ _ _) (State.memOnly_setCache _ _))
  split
  · exact State.memOnly_lcCount _ _ _
  · exact State.memOnly_refl s

theorem State.memOnly_finishTransfer (s : State) (p : Transfer → Bool) : s.memOnly (s.finishTransfer p) := by
  unfold State.finishTransfer
  split
  · exact State.memOnly_refl _
  · simp only
    refine State.memOnly_trans ?_ (State.memOnly_setCache _ _)
    split
    · exact State.memOnly_setCache s _
    · exact State.memOnly_trans (State.memOnly_setCache s _) (State.memOnly_fill _ _ _ _)

theorem State.memOnly_takeEngine (s : State) (l : Nat) : s.memOnly (s.takeEngine l) := by
  unfold State.takeEngine
  simp only
  split
  · exact State.memOnly_trans (State.memOnly_setCache s _) (State.memOnly_finishTransfer _ _)
  · exact State.memOnly_setCache s _

theorem State.memOnly_finishTransfers (s : State) (p : Transfer → Bool) : s.memOnly (s.finishTransfers p) := by
  unfold State.finishTransfers
  refine State.memOnly_foldl _ (fun t x => ?_) _ s
  split
  · exact State.memOnly_finishTransfer _ _
  · exact State.memOnly_refl _

theorem State.memOnly_prefetch (s : State) (g : Gable) (l : Nat) (ring : Option (Fin 8)) (p : Int) :
    s.memOnly (s.prefetch g l ring p) := by
  unfold State.prefetch
  simp only
  cases ring <;> simp only <;> split <;>
    first
    | exact State.memOnly_refl s
    | exact State.memOnly_trans (State.memOnly_trans (State.memOnly_setCache _ _) (State.memOnly_setCache _ _))
        (State.memOnly_lcCount _ _ _)

theorem State.memOnly_windowGable (s : State) (r : CacheReq) (g : Gable) : s.memOnly (s.windowGable r g) := by
  unfold State.windowGable
  split
  · split
    · exact State.memOnly_refl s
    · exact State.memOnly_setCache _ _
  all_goals exact State.memOnly_refl s

theorem State.memOnly_train (s : State) (r : CacheReq) (g : Gable) (l : Nat) (ring : Option (Fin 8)) :
    s.memOnly (s.train r g l ring) := by
  unfold State.train
  simp only
  refine State.memOnly_trans (State.memOnly_windowGable s r g) ?_
  split
  · exact State.memOnly_trans (State.memOnly_setCache _ _)
      (State.memOnly_foldl _ (fun t j => State.memOnly_prefetch t _ _ _ _) _ _)
  · exact State.memOnly_setCache _ _

theorem State.memOnly_demand (s : State) (g : Gable) (l : Nat) (a : Bool) : s.memOnly (s.demand g l a).2 := by
  unfold State.demand
  simp only
  have h1 := State.memOnly_finishTransfer s (fun t => decide (t.line = l))
  generalize s.finishTransfer (fun t => decide (t.line = l)) = u at h1
  split
  · exact State.memOnly_trans h1 (State.memOnly_trans (State.memOnly_lcCount _ _ _) (State.memOnly_touchLine _ _ _))
  · have h2 := State.memOnly_trans h1 (State.memOnly_evictHolder u l)
    generalize u.evictHolder l = v at h2
    split
    · have hf := State.memOnly_trans (State.memOnly_trans h2 (State.memOnly_takeEngine v l))
        (State.memOnly_fill (v.takeEngine l) g l true)
      revert hf
      rcases (v.takeEngine l).fill g l true with ⟨_ | i, t⟩ <;> intro hf
      · exact hf
      · exact State.memOnly_trans hf (State.memOnly_trans (State.memOnly_lcCount _ _ _) (State.memOnly_touchLine _ _ _))
    · exact h2

theorem State.memOnly_cacheRead (s : State) (r : CacheReq) (g : Gable) (a n : Nat) (ring : Option (Fin 8)) :
    s.memOnly (s.cacheRead r g a n ring).2.2 := by
  have key : ∀ u : State, s.memOnly u → s.memOnly (match u.demand g (a / 32) true with
      | (i, s) =>
        let s := s.train r g (a / 32) ring
        match i with
        | some i =>
          let x := (s.cache.lines[i.val]).read (a % 32) n
          (x.1, x.2, s)
        | none =>
          let x := s.bankRead r.bankReq (wordOf a)
          ((x.1.drop (a % 8)).take n, x.2.1, x.2.2) : List Byte × Bool × State).2.2 := by
    intro u h0
    have hd := State.memOnly_trans h0 (State.memOnly_demand u g (a / 32) true)
    revert hd
    rcases u.demand g (a / 32) true with ⟨_ | i, t⟩ <;> intro hd
    · exact State.memOnly_trans hd (State.memOnly_trans (State.memOnly_train t _ _ _ _) (State.memOnly_bankRead _ _ _))
    · exact State.memOnly_trans hd (State.memOnly_train t _ _ _ _)
  cases r with
  | fetch => exact key s (State.memOnly_refl s)
  | data => exact key _ (State.memOnly_setCache s _)
  | window => exact key _ (State.memOnly_setCache s _)
  | dma k => exact key _ (State.memOnly_setCache s _)

theorem State.memOnly_cacheWrite (s : State) (r : CacheReq) (g : Gable) (a : Nat) (bs : List Byte)
    (ring : Option (Fin 8)) : s.memOnly (s.cacheWrite r g a bs ring) := by
  have key : ∀ (u : State) (al : Bool), s.memOnly u → s.memOnly (match u.demand g (a / 32) al with
      | (i, s) =>
        let s := s.train r g (a / 32) ring
        match i with
        | some i => s.setLine i (fun ln => ln.write (a % 32) bs)
        | none => s.bankWrite a bs : State) := by
    intro u al h0
    have hd := State.memOnly_trans h0 (State.memOnly_demand u g (a / 32) al)
    revert hd
    rcases u.demand g (a / 32) al with ⟨_ | i, t⟩ <;> intro hd
    · exact State.memOnly_trans hd (State.memOnly_trans (State.memOnly_train t _ _ _ _) (State.memOnly_bankWrite _ _ _))
    · exact State.memOnly_trans hd (State.memOnly_trans (State.memOnly_train t _ _ _ _) (State.memOnly_setLine _ _ _))
  exact key _ _ (State.memOnly_setCache s _)

/-! ## Fetch, loads of the buffer, commits -/

theorem State.memOnly_perf (s : State) (g : Gable) (k : Fin 8) : s.memOnly (s.perf g k) := by
  unfold State.perf; simp only; split
  · split
    · exact State.memOnly_trans (State.memOnly_setReg _ _ _ rfl) (State.memOnly_orReg _ _ _ rfl)
    · exact State.memOnly_setReg _ _ _ rfl
  · exact State.memOnly_refl s

end Sys2Proof.Machine
end

