-- ==== Sys2Proof/Laws/Fetch.lean ====
section
/-! SUPPORT. What a fetch can change, and what an instruction does once its fetch raised nothing. -/

namespace Sys2Proof.Machine

/-- The two states differ at most in the cache, the banks, the instruction line buffer, and the registers that accesses
count in. -/
def State.fetchOnly (s t : State) : Prop :=
  t = { s with regs := t.regs, cache := t.cache, banks := t.banks, core := { s.core with ilb := t.core.ilb } } ∧
    ∀ r, Reg.isCount r = false → t.reg r = s.reg r

theorem State.fetchOnly_refl (s : State) : s.fetchOnly s := ⟨rfl, fun _ _ => rfl⟩

theorem State.fetchOnly_trans {s t u : State} (h : s.fetchOnly t) (k : t.fetchOnly u) : s.fetchOnly u := by
  refine ⟨?_, fun r hr => ?_⟩
  · rw [k.1, h.1]
  · rw [k.2 r hr, h.2 r hr]

theorem State.memOnly.fetchOnly {s t : State} (h : s.memOnly t) : s.fetchOnly t := by
  refine ⟨?_, h.2⟩
  rw [h.1]

theorem State.memOnly_readLine (s : State) (l : Nat) : s.memOnly (s.readLine l).2 := by
  have key : ∀ (ks : List Nat) (acc : BitVec 4 × State), s.memOnly acc.2 → s.memOnly (ks.foldl
      (fun (acc : BitVec 4 × State) k =>
        let x := acc.2.bankRead reqCore (4 * l + k)
        (if x.2.1 then acc.1 ||| BitVec.ofNat 4 (2 ^ k) else acc.1, x.2.2)) acc).2 := by
    intro ks
    induction ks with
    | nil => intro acc h; exact h
    | cons k ks ih => intro acc h; exact ih _ (State.memOnly_trans h (State.memOnly_bankRead _ _ _))
  exact key _ _ (State.memOnly_refl s)

theorem State.fetchOnly_setIlb (s : State) (x : IlbLine) :
    s.fetchOnly (s.setCore (fun c => { c with ilb := x :: c.ilb.take 1 })) := ⟨rfl, fun _ _ => rfl⟩

theorem State.fetchOnly_fillIlb (s : State) (g : Gable) (l : Nat) : s.fetchOnly (s.fillIlb g l) := by
  unfold State.fillIlb
  simp only
  have h0 : s.memOnly (if s.fetchMisses g l then s.perf g perfFetchWait else s) := by
    split
    · exact State.memOnly_perf s g _
    · exact State.memOnly_refl s
  generalize (if s.fetchMisses g l then s.perf g perfFetchWait else s) = u at h0
  have h1 := State.memOnly_trans h0 (State.memOnly_demand u g l true)
  revert h1
  rcases u.demand g l true with ⟨_ | i, t⟩ <;> intro h1
  · have h2 := State.memOnly_trans h1 (State.memOnly_train t .fetch g l none)
    simp only
    generalize t.train .fetch g l none = v at h2
    exact State.fetchOnly_trans (State.memOnly_trans h2 (State.memOnly_readLine v l)).fetchOnly
      (State.fetchOnly_setIlb _ _)
  · have h2 := State.memOnly_trans h1 (State.memOnly_train t .fetch g l none)
    simp only
    generalize t.train .fetch g l none = v at h2
    exact State.fetchOnly_trans h2.fetchOnly (State.fetchOnly_setIlb _ _)

theorem State.fetchOnly_fetchAt (s : State) (g : Gable) (a n : Nat) : s.fetchOnly (s.fetchAt g a n).2 := by
  unfold State.fetchAt
  split
  · exact State.fetchOnly_refl _
  · split
    · rename_i b _ _ _ _
      split
      · exact State.fetchOnly_refl _
      · split
        · exact State.fetchOnly_refl _
        · split
          · exact State.fetchOnly_refl _
          · split
            · have h0 : s.fetchOnly (if s.inIlb g (b / 32) = true then s else s.fillIlb g (b / 32)) := by
                split
                · exact State.fetchOnly_refl _
                · exact State.fetchOnly_fillIlb s g _
              simp only
              split
              · exact h0
              · split
                · exact h0
                · exact h0
            · exact State.fetchOnly_refl _
    all_goals exact State.fetchOnly_refl _

theorem State.fetchOnly_fetchAhead (s : State) (g : Gable) : s.fetchOnly (s.fetchAhead g) := by
  unfold State.fetchAhead
  simp only
  split
  · exact State.fetchOnly_refl _
  · split
    · exact State.fetchOnly_fillIlb _ _ _
    · exact State.fetchOnly_refl _

theorem State.fetchOnly_fetchBytes (s : State) (g : Gable) (len : Nat) : s.fetchOnly (s.fetchBytes g len).2 := by
  unfold State.fetchBytes
  simp only
  split
  · exact State.fetchOnly_fetchAt _ _ _ _
  · have h0 := State.fetchOnly_fetchAt s g (s.ctxOf g).pc.toNat 2
    revert h0
    rcases s.fetchAt g (s.ctxOf g).pc.toNat 2 with ⟨_ | t, u⟩ <;> intro h0
    · simp only
      split
      · exact State.fetchOnly_trans h0 (State.fetchOnly_fetchAt _ _ _ _)
      · exact h0
    · simp only
      split
      · have h1 := State.fetchOnly_trans h0 (State.fetchOnly_fetchAt u g ((s.ctxOf g).pc.toNat + 2) 2)
        revert h1
        rcases u.fetchAt g ((s.ctxOf g).pc.toNat + 2) 2 with ⟨_ | t2, v⟩ <;> intro h1 <;> exact h1
      · exact h0

theorem State.fetchOnly_fetch (s : State) (g : Gable) (len : Nat) : s.fetchOnly (s.fetch g len).2 := by
  have h0 := State.fetchOnly_fetchBytes s g len
  unfold State.fetch
  revert h0
  rcases s.fetchBytes g len with ⟨_ | t, u⟩ <;> intro h0
  · exact State.fetchOnly_trans h0 (State.fetchOnly_fetchAhead u g)
  · exact h0

theorem State.fetchOnly.ctxOf {s t : State} (h : s.fetchOnly t) (g : Gable) : t.ctxOf g = s.ctxOf g := by
  unfold State.ctxOf; rw [h.1]

theorem State.fetchOnly.cfg {s t : State} (h : s.fetchOnly t) : t.cfg = s.cfg := by rw [h.1]
theorem State.fetchOnly.root {s t : State} (h : s.fetchOnly t) : t.root = s.root := by rw [h.1]
theorem State.fetchOnly.now {s t : State} (h : s.fetchOnly t) : t.now = s.now := by rw [h.1]
theorem State.fetchOnly.pending {s t : State} (h : s.fetchOnly t) : t.pending = s.pending := by rw [h.1]

theorem State.fetchOnly.defined {s t : State} (h : s.fetchOnly t) (g : Gable) (e : Enc) :
    t.defined g e = s.defined g e := by
  unfold State.defined State.descOf; rw [h.cfg]

end Sys2Proof.Machine
end

