-- ==== Sys2Proof/Laws/Instr.lean ====
section
/-! SUPPORT. What an executed instruction does: retirement, and the instructions that only change their context. -/

namespace Sys2Proof.Machine

theorem getElem_vset {α : Type} {n : Nat} (v : Vector α n) (i : Fin n) (x : α) (j : Fin n) :
    (vset v i x)[j.val] = if i = j then x else v[j.val] := by
  unfold vset
  rw [Vector.getElem_set]
  by_cases h : i = j
  · subst h; simp
  · have : i.val ≠ j.val := fun e => h (Fin.ext e)
    simp [h, this]

theorem State.ctxOf_setCtxOf (s : State) (g h : Gable) (f : Ctx → Ctx) :
    (s.setCtxOf g f).ctxOf h = if g = h then f (s.ctxOf g) else s.ctxOf h := by
  unfold State.ctxOf State.setCtxOf State.setCore vmod
  simp only [getElem_vset]

/-- A counted occurrence changes registers alone. -/
theorem State.perf_eq (s : State) (g : Gable) (k : Fin 8) : s.perf g k = { s with regs := (s.perf g k).regs } := by
  unfold State.perf
  split
  · simp only
    split <;> simp [State.orReg, State.setReg]
  · rfl

@[simp] theorem State.ctxOf_perf (s : State) (g : Gable) (k : Fin 8) (h : Gable) :
    (s.perf g k).ctxOf h = s.ctxOf h := by rw [State.perf_eq]; rfl

/-- A counted occurrence leaves every register but the gable's counters and their control register. -/
theorem State.reg_perf (s : State) (g : Gable) (k : Fin 8) (r : Reg) (h : Reg.isPerf g r = false) :
    (s.perf g k).reg r = s.reg r := by
  have h1 : Reg.gabPerf g k ≠ r := by rintro rfl; simp [Reg.isPerf] at h
  have h2 : Reg.gabPerfCtl g ≠ r := by rintro rfl; simp [Reg.isPerf] at h
  unfold State.perf
  split
  · simp only
    split <;> simp [State.reg_orReg, h1, h2]
  · rfl

theorem State.onlyCtx_retire (u : State) (g : Gable) (len : Nat) (f : Ctx → Ctx) : u.onlyCtx g (u.retire g len f) := by
  unfold State.retire
  refine ⟨?_, ?_, ?_⟩
  · rw [State.perf_eq]; rfl
  · intro h hh
    rw [State.ctxOf_perf, State.ctxOf_setCtxOf, if_neg (Ne.symm hh)]
  · intro r hr
    rw [State.reg_perf _ _ _ _ hr, State.reg_setCtxOf]

theorem State.ctxOf_retire (u : State) (g : Gable) (len : Nat) (f : Ctx → Ctx) :
    (u.retire g len f).ctxOf g = f { u.ctxOf g with pc := (u.ctxOf g).pc + BitVec.ofNat 32 len, wfe := false } := by
  unfold State.retire
  rw [State.ctxOf_perf, State.ctxOf_setCtxOf, if_pos rfl]

theorem State.fetchOnly.encLen {s t : State} (h : s.fetchOnly t) (g : Gable) (e : Enc) :
    t.encLen g e = s.encLen g e := by
  unfold State.encLen State.descOf; rw [h.cfg]

/-- An instruction whose fetch raises nothing has its effect on the fetched state. -/
theorem State.instr_executes {s : State} {g : Gable} {e : Enc} (h : s.executes g e)
    (eff : Gable → Nat → State → State) : s.instr e eff = eff g (s.encLen g e) (s.fetched g e) := by
  obtain ⟨hr, hm, hf, hd⟩ := h
  have hx := State.fetchOnly_fetch s g (s.encLen g e)
  unfold State.instr
  rw [hr]
  simp only [State.when, hm, if_true]
  unfold State.fetched
  revert hx hf
  rcases s.fetch g (s.encLen g e) with ⟨_ | t, u⟩
  · intro hf hx
    simp only [hx.defined, hx.encLen, hd, if_true]
  · intro hf; simp at hf

theorem State.fetchOnly_fetched (s : State) (g : Gable) (e : Enc) : s.fetchOnly (s.fetched g e) :=
  State.fetchOnly_fetch s g _

theorem State.pastCtx_eq (s : State) (g : Gable) (e : Enc) :
    s.pastCtx g e =
      { (s.fetched g e).ctxOf g with
        pc := ((s.fetched g e).ctxOf g).pc + BitVec.ofNat 32 (s.encLen g e), wfe := false } := by
  rw [(State.fetchOnly_fetched s g e).ctxOf]; rfl

/-- Handing back a state of the same plate, root, time and queue changes nothing. -/
theorem State.commit_self {s t : State} (h1 : t.cfg = s.cfg) (h2 : t.root = s.root) (h3 : t.now = s.now)
    (h4 : t.pending = s.pending) : s.commit t = t := by
  unfold State.commit; rw [← h1, ← h2, ← h3, ← h4]

theorem State.commit_onlyCtx {s u t : State} {g : Gable} (hu : s.fetchOnly u) (h : u.onlyCtx g t) : s.commit t = t := by
  obtain ⟨h, _, _⟩ := h
  refine State.commit_self ?_ ?_ ?_ ?_
  · rw [h]; exact hu.cfg
  · rw [h]; exact hu.root
  · rw [h]; exact hu.now
  · rw [h]; exact hu.pending

/-- An instruction that retires with a change `f` of its context runs to what `f` gives. -/
theorem runsTo_retire {i : Instr} {e : Enc} {P : Ctx → Ctx → Prop} {eff : Gable → Nat → State → State}
    {f : State → Gable → Ctx → Ctx} (hi : ∀ s, exec i s = done s (s.instr e eff))
    (he : ∀ (s : State) (g : Gable), s.executes g e →
      eff g (s.encLen g e) (s.fetched g e) = (s.fetched g e).retire g (s.encLen g e) (f (s.fetched g e) g))
    (hp : ∀ (s : State) (g : Gable), s.executes g e → P (s.pastCtx g e) (f (s.fetched g e) g (s.pastCtx g e))) : RunsTo i e P := by
  intro s g h
  have ho := State.onlyCtx_retire (s.fetched g e) g (s.encLen g e) (f (s.fetched g e) g)
  refine ⟨(s.fetched g e).retire g (s.encLen g e) (f (s.fetched g e) g), ?_, ho, ?_⟩
  · rw [hi, State.instr_executes h, he s g h]
    unfold done
    rw [State.commit_onlyCtx (State.fetchOnly_fetched s g e) ho]
  · rw [State.ctxOf_retire, ← State.pastCtx_eq]
    exact hp s g h

/-- An instruction that only changes its context runs to what its change gives. -/
theorem runsTo_ctx {i : Instr} {e : Enc} {P : Ctx → Ctx → Prop} {f : Ctx → Ctx}
    (hi : ∀ s, exec i s = done s (s.instrCtx e f)) (hp : ∀ c, P c (f c)) : RunsTo i e P :=
  runsTo_retire (f := fun _ _ => f) hi (fun _ _ _ => rfl) (fun _ _ _ => hp _)

end Sys2Proof.Machine
end

