-- ==== Sys2Proof/Laws/Arith.lean ====
section
/-! SUPPORT. Flags of results: what each bit of FLAGS reads as after a result, and what each form of an instruction
yields. -/

namespace Sys2Proof.Machine

theorem getLsbD_putFlag (f : BitVec 6) (k j : Nat) (b : Bool) (hk : k < 6) (hj : j < 6) :
    (putFlag f k b).getLsbD j = if j = k then b else f.getLsbD j := by
  unfold putFlag
  cases b
  · simp only [Bool.false_eq_true, if_false, BitVec.getLsbD_and, BitVec.getLsbD_not, BitVec.getLsbD_ofNat,
      Nat.testBit_two_pow]
    by_cases h : j = k
    · simp [h]
    · simp [h, Ne.symm h, hj]
  · simp only [if_true, BitVec.getLsbD_or, BitVec.getLsbD_ofNat, Nat.testBit_two_pow]
    by_cases h : j = k
    · simp [h, hk]
    · simp [h, Ne.symm h]

theorem getLsbD_stickFlag (f : BitVec 6) (k j : Nat) (b : Bool) (hk : k < 6) (hj : j < 6) :
    (stickFlag f k b).getLsbD j = if j = k then f.getLsbD j || b else f.getLsbD j := by
  unfold stickFlag
  cases b
  · simp
  · simp only [if_true, getLsbD_putFlag f k j true hk hj]
    split <;> simp

/-- FLAGS after a result: N and Z of it, C and V where it gives them, SAT and AOV kept. -/
theorem flagsAre_resultOf (f : BitVec 6) (w : Word) (c v : Option Bool) :
    FlagsAre f ((resultOf w c v).flags f) w (c.getD (f.getLsbD 0)) (v.getD (f.getLsbD 1)) := by
  unfold FlagsAre AluRes.flags resultOf
  cases c <;> cases v <;> simp (disch := decide) only [getLsbD_putFlag] <;>
    exact ⟨rfl, rfl, rfl, rfl, rfl, rfl⟩

/-- A register-register form yields the value of its result. -/
theorem alu_yields (c : Ctx) (op : AluOp) (f : AluForm) (w : Word) (cf vf : Option Bool)
    (h : op (AluForm.fst f c) (AluForm.snd f c) c.flags = resultOf w cf vf) :
    AluForm.yields f c (c.alu op f) w (cf.getD (c.flags.getLsbD 0)) (vf.getD (c.flags.getLsbD 1)) := by
  cases f with
  | hatch rd ra rb sb =>
    have h' : op (c.getG ra) (c.getG rb) c.flags = resultOf w cf vf := h
    unfold AluForm.yields Ctx.alu
    simp only [h']
    cases sb
    · exact ⟨c.flags, rfl, rfl⟩
    · exact ⟨_, rfl, flagsAre_resultOf c.flags w cf vf⟩
  | stipple d sr =>
    have h' : op (c.getD d) (c.getD sr) c.flags = resultOf w cf vf := h
    unfold AluForm.yields Ctx.alu
    simp only [h']
    exact ⟨_, rfl, flagsAre_resultOf c.flags w cf vf⟩

theorem sextWord_eq {n : Nat} (v : BitVec n) : sextWord v = v.signExtend 32 := rfl

theorem zextWord_eq {n : Nat} (v : BitVec n) : zextWord v = v.zeroExtend 32 := by
  unfold zextWord
  apply BitVec.eq_of_toNat_eq
  simp

theorem aluImm_yields (c : Ctx) (sx : Bool) (op : AluOp) (f : ImmForm) (w : Word) (cf vf : Option Bool)
    (h : op (ImmForm.fst f c) (if sx then ImmForm.sext f else ImmForm.zext f) c.flags = resultOf w cf vf) :
    ImmForm.yields f c (c.aluImm sx op f) w (cf.getD (c.flags.getLsbD 0)) (vf.getD (c.flags.getLsbD 1)) := by
  cases f with
  | hatch rd ra sb imm =>
    have h' : op (c.getG ra) (if sx then sextWord imm else zextWord imm) c.flags = resultOf w cf vf := by
      rw [zextWord_eq]; exact h
    unfold ImmForm.yields AluForm.yields Ctx.aluImm
    simp only [h']
    cases sb
    · exact ⟨c.flags, rfl, rfl⟩
    · exact ⟨_, rfl, flagsAre_resultOf c.flags w cf vf⟩
  | short d imm =>
    have h' : op (c.getD d) (if sx then sextWord imm else zextWord imm) c.flags = resultOf w cf vf := by
      rw [zextWord_eq]; exact h
    unfold ImmForm.yields AluForm.yields Ctx.aluImm
    simp only [h']
    exact ⟨_, rfl, flagsAre_resultOf c.flags w cf vf⟩
  | long d imm =>
    have h' : op (c.getD d) (if sx then sextWord imm else zextWord imm) c.flags = resultOf w cf vf := by
      rw [zextWord_eq]; exact h
    unfold ImmForm.yields AluForm.yields Ctx.aluImm
    simp only [h']
    exact ⟨_, rfl, flagsAre_resultOf c.flags w cf vf⟩

theorem logicImm_yields (c : Ctx) (op : Word → Word → Word) (f : LogicImmForm) :
    LogicImmForm.yields f c (c.logicImm op f) (op (LogicImmForm.fst f c) (LogicImmForm.zext f)) (c.flags.getLsbD 0)
      (c.flags.getLsbD 1) := by
  cases f with
  | hatch rd ra sb imm =>
    unfold LogicImmForm.yields AluForm.yields Ctx.logicImm LogicImmForm.zext LogicImmForm.fst
    simp only [zextWord_eq]
    cases sb
    · exact ⟨c.flags, rfl, rfl⟩
    · exact ⟨_, rfl, flagsAre_resultOf c.flags _ none none⟩
  | long d imm =>
    unfold LogicImmForm.yields AluForm.yields Ctx.logicImm LogicImmForm.zext LogicImmForm.fst
    simp only [zextWord_eq]
    exact ⟨_, rfl, flagsAre_resultOf c.flags _ none none⟩

/-- A one-register Stipple form yields its result. -/
theorem putRes_takesD (c : Ctx) (d : Fin 8) (w : Word) (cf vf : Option Bool) :
    c.takesD (c.putRes d (resultOf w cf vf)) d w (cf.getD (c.flags.getLsbD 0)) (vf.getD (c.flags.getLsbD 1)) := by
  unfold Ctx.takesD AluForm.yields Ctx.putRes
  exact ⟨_, rfl, flagsAre_resultOf c.flags w cf vf⟩

/-- A word differs from the true value exactly where the true value overflows. -/
theorem ofInt_ne_iff (x : Int) : decide ((BitVec.ofInt 32 x).toInt ≠ x) = overflows x := by
  unfold overflows
  rw [BitVec.toInt_ofInt, Bool.eq_iff_iff]
  simp only [decide_eq_true_eq, Bool.or_eq_true, ne_eq]
  have : x.bmod (2 ^ 32) = x ↔ -2147483648 ≤ x ∧ x ≤ 2147483647 := by
    rw [Int.bmod_def]
    constructor
    · intro h; split at h <;> omega
    · intro h; split <;> omega
  rw [this]; omega

theorem not_fitsSigned_32 (x : Int) : (!fitsSigned 32 x) = overflows x := by
  unfold fitsSigned overflows
  rw [Bool.eq_iff_iff]
  simp only [Bool.not_eq_true', Bool.and_eq_false_iff, decide_eq_false_iff_not, Bool.or_eq_true, decide_eq_true_eq]
  omega

theorem addRes_eq (a b : Word) (cin : Bool) :
    addRes a b cin = resultOf (a + b + BitVec.ofNat 32 cin.toNat)
      (some (decide (4294967296 ≤ a.toNat + b.toNat + cin.toNat)))
      (some (overflows (a.toInt + b.toInt + cin.toNat))) := by
  have hc : carryIn cin = cin.toNat := by cases cin <;> rfl
  have hw : BitVec.ofNat 32 (a.toNat + b.toNat + cin.toNat) = a + b + BitVec.ofNat 32 cin.toNat := by
    apply BitVec.eq_of_toNat_eq
    simp [BitVec.toNat_add]
  have hv : (a + b + BitVec.ofNat 32 cin.toNat) = BitVec.ofInt 32 (a.toInt + b.toInt + cin.toNat) := by
    apply BitVec.eq_of_toInt_eq
    rw [BitVec.toInt_ofInt, BitVec.toInt_add, BitVec.toInt_add]
    have : (BitVec.ofNat 32 cin.toNat).toInt = cin.toNat := by cases cin <;> rfl
    rw [this]; simp
  unfold addRes
  simp only [hc, hw]
  rw [show (2 : Nat) ^ 32 = 4294967296 from rfl, ← ofInt_ne_iff, ← hv]

theorem subRes_eq (a b : Word) (bin : Bool) :
    subRes a b bin = resultOf (a - b - BitVec.ofNat 32 bin.toNat)
      (some (decide (b.toNat + bin.toNat ≤ a.toNat)))
      (some (overflows (a.toInt - b.toInt - bin.toNat))) := by
  have hc : carryIn bin = bin.toNat := by cases bin <;> rfl
  have hv : (a - b - BitVec.ofNat 32 bin.toNat) = BitVec.ofInt 32 (a.toInt - b.toInt - bin.toNat) := by
    apply BitVec.eq_of_toInt_eq
    rw [BitVec.toInt_ofInt, BitVec.toInt_sub, BitVec.toInt_sub]
    have : (BitVec.ofNat 32 bin.toNat).toInt = bin.toNat := by cases bin <;> rfl
    rw [this]; simp
  unfold subRes
  simp only [hc]
  rw [← ofInt_ne_iff, ← hv]

/-- CMP and CMPI compare. -/
theorem compares_subRes (c : Ctx) (a b : Word) : c.compares (c.setFlags true (subRes a b false)) a b := by
  refine ⟨_, rfl, ?_⟩
  have := flagsAre_resultOf c.flags (a - b) (some (decide (b.toNat ≤ a.toNat))) (some (overflows (a.toInt - b.toInt)))
  have e : subRes a b false
      = resultOf (a - b) (some (decide (b.toNat ≤ a.toNat))) (some (overflows (a.toInt - b.toInt))) := by
    rw [subRes_eq]; simp
  rw [e]; exact this

/-- An accumulator takes an exact result with its flags. -/
theorem accTakes_putExact (c : Ctx) (m : Fin 2) (x : Int) : c.accTakes (c.putExact m x) m x := by
  have hf : (!fitsSigned 40 x) = (decide (x < -549755813888) || decide (549755813887 < x)) := by
    unfold fitsSigned
    rw [Bool.eq_iff_iff]
    simp only [Bool.not_eq_true', Bool.and_eq_false_iff, decide_eq_false_iff_not, Bool.or_eq_true, decide_eq_true_eq]
    omega
  refine ⟨_, rfl, ?_, ?_, ?_, ?_, ?_, ?_⟩ <;>
    simp (disch := decide) only [accRes, getLsbD_stickFlag, getLsbD_putFlag, hf] <;>
    first | rfl | (rw [Bool.or_assoc]; rfl)

end Sys2Proof.Machine
end

