-- ==== Sys2Proof/Laws/Crypto.lean ====
section
/-! SUPPORT. The lengths of digests. -/

namespace Sys2Proof.Machine

@[simp] theorem length_beBytes (n v : Nat) : (beBytes n v).length = n := by
  simp [beBytes, leBytes]

theorem length_shaRound (v : List Word) (kw : Word × Word) : (shaRound v kw).length = v.length := by
  unfold shaRound; split <;> rfl

theorem length_foldl_shaRound (l : List (Word × Word)) (v : List Word) : (l.foldl shaRound v).length = v.length := by
  induction l generalizing v with
  | nil => rfl
  | cons kw l ih => rw [List.foldl_cons, ih, length_shaRound]

theorem length_shaBlock (h block : List Word) : (shaBlock h block).length = h.length := by
  simp [shaBlock, length_foldl_shaRound]

theorem length_foldl_shaBlock (l : List Nat) (f : Nat → List Word) (h : List Word) :
    (l.foldl (fun h k => shaBlock h (f k)) h).length = h.length := by
  induction l generalizing h with
  | nil => rfl
  | cons k l ih => rw [List.foldl_cons, ih, length_shaBlock]

theorem length_flatMap_beBytes (h : List Word) : (h.flatMap (fun w => beBytes 4 w.toNat)).length = 4 * h.length := by
  induction h with
  | nil => rfl
  | cons w h ih => rw [List.flatMap_cons, List.length_append, ih, length_beBytes, List.length_cons]; omega

/-- A SHA-256 digest has 32 bytes. -/
theorem length_sha256 (m : List Byte) : (sha256 m).length = 32 := by
  rw [sha256, length_flatMap_beBytes, length_foldl_shaBlock]; rfl

/-- An HMAC has 32 bytes. -/
theorem length_hmac (k m : List Byte) : (hmac k m).length = 32 := length_sha256 _

end Sys2Proof.Machine
end

