-- ==== Sys2Proof/Laws/Trap.lean ====
section
/-! SUPPORT. What a drain of the store buffer can change, and what entering a handler leaves. -/

namespace Sys2Proof.Machine

theorem State.memOnly_performStore (s : State) (e : SbEntry) : s.memOnly (s.performStore e) := by
  unfold State.performStore
  simp only
  split
  · exact State.memOnly_cacheWrite _ _ _ _ _ _
  · exact State.memOnly_trans (State.memOnly_evictHolder _ _) (State.memOnly_bankAlias _ _ _ _ _)
  · exact State.memOnly_trans (State.memOnly_evictHolder _ _) (State.memOnly_bankAlias _ _ _ _ _)

/-- The two states differ at most in the store buffer, the cache, the banks, and the registers that accesses count in. -/
def State.drainOnly (s t : State) : Prop :=
  t = { s with regs := t.regs, cache := t.cache, banks := t.banks, core := { s.core with sb := t.core.sb } } ∧
    ∀ r, Reg.isCount r = false → t.reg r = s.reg r

theorem State.drainOnly_refl (s : State) : s.drainOnly s := ⟨rfl, fun _ _ => rfl⟩

theorem State.drainOnly_trans {s t u : State} (h : s.drainOnly t) (k : t.drainOnly u) : s.drainOnly u := by
  refine ⟨?_, fun r hr => ?_⟩
  · rw [k.1, h.1]
  · rw [k.2 r hr, h.2 r hr]

theorem State.memOnly.core {s t : State} (h : s.memOnly t) : t.core = s.core := by rw [h.1]

theorem State.memOnly.drainOnly {s t : State} (h : s.memOnly t) : s.drainOnly t := by
  refine ⟨?_, h.2⟩
  rw [h.1]

theorem State.drainOnly_commitOldest (s : State) : s.drainOnly s.commitOldest := by
  unfold State.commitOldest
  split
  · exact State.drainOnly_refl s
  · exact State.drainOnly_trans ⟨rfl, fun _ _ => rfl⟩ (State.memOnly_performStore _ _).drainOnly

theorem State.sb_commitOldest (s : State) : s.commitOldest.core.sb = s.core.sb.tail := by
  unfold State.commitOldest
  split
  · next h => rw [h]; rfl
  · next h => rw [(State.memOnly_performStore _ _).core, h]; rfl

theorem State.drainOnly_commitMany (n : Nat) (s : State) : s.drainOnly (s.commitMany n) := by
  induction n generalizing s with
  | zero => exact State.drainOnly_refl s
  | succ n ih => exact State.drainOnly_trans (State.drainOnly_commitOldest s) (ih _)

/-- Committing the `n` oldest stores leaves the younger ones. -/
theorem State.sb_commitMany (n : Nat) (s : State) : (s.commitMany n).core.sb = s.core.sb.drop n := by
  induction n generalizing s with
  | zero => rfl
  | succ n ih =>
    show (s.commitOldest.commitMany n).core.sb = _
    rw [ih, State.sb_commitOldest]
    cases s.core.sb <;> simp

/-- A drain changes the store buffer, the cache, the banks and counters alone, and empties the buffer. -/
theorem State.drainOnly_drain (s : State) : s.drainOnly s.drain := State.drainOnly_commitMany _ s

theorem State.sb_drain (s : State) : s.drain.core.sb = [] := by
  unfold State.drain; rw [State.sb_commitMany]; simp

theorem State.drainOnly.ctxOf {s t : State} (h : s.drainOnly t) (g : Gable) : t.ctxOf g = s.ctxOf g := by
  unfold State.ctxOf; rw [h.1]
theorem State.drainOnly.cfg {s t : State} (h : s.drainOnly t) : t.cfg = s.cfg := by rw [h.1]
theorem State.drainOnly.root {s t : State} (h : s.drainOnly t) : t.root = s.root := by rw [h.1]
theorem State.drainOnly.now {s t : State} (h : s.drainOnly t) : t.now = s.now := by rw [h.1]
theorem State.drainOnly.pending {s t : State} (h : s.drainOnly t) : t.pending = s.pending := by rw [h.1]
theorem State.drainOnly.bitOf {s t : State} (h : s.drainOnly t) (r : Reg) (k : Nat) (hr : Reg.isCount r = false) :
    t.bitOf r k = s.bitOf r k := by unfold State.bitOf; rw [h.2 r hr]
theorem State.fetchOnly.bitOf {s t : State} (h : s.fetchOnly t) (r : Reg) (k : Nat) (hr : Reg.isCount r = false) :
    t.bitOf r k = s.bitOf r k := by unfold State.bitOf; rw [h.2 r hr]

theorem State.putBit_eq (s : State) (r : Reg) (k : Nat) (b : Bool) :
    s.putBit r k b = { s with regs := (s.putBit r k b).regs } := by cases b <;> rfl

theorem State.bitOf_perf (s : State) (g : Gable) (k : Nat) (n : Fin 8) (r : Reg) (h : Reg.isPerf g r = false) :
    (s.perf g n).bitOf r k = s.bitOf r k := by unfold State.bitOf; rw [State.reg_perf _ _ _ _ h]

theorem vecBase (w : Word) : bitsOf w 31 8 * 256 = w.toNat / 256 * 256 := by
  have := w.isLt
  have h : w.toNat / 2 ^ 8 % 2 ^ (31 - 8 + 1) = w.toNat / 256 := by omega
  exact congrArg (· * 256) h

/-- The registers of steps 2 and 3 of R141. -/
def State.trapRegs (u : State) (g : Gable) (x : Trap) (line : Nat) : State :=
  ((((u.setReg (.gabEpc g) (u.ctxOf g).pc).setReg (.gabTcause g)
      (BitVec.ofNat 32 (x.vec + 0x100 * x.code.toNat + 0x10000 * line))).setReg (.gabTaddr g) x.addr).putBit (.gabTstat g) 2
      (u.bitOf (.gabTstat g) 1)).orReg (.gabTstat g) (bitMask 1 ||| bitMask 0)

theorem State.trapRegs_eq (u : State) (g : Gable) (x : Trap) (line : Nat) :
    u.trapRegs g x line = { u with regs := (u.trapRegs g x line).regs } := by
  unfold State.trapRegs
  generalize u.bitOf (.gabTstat g) 1 = b
  unfold State.orReg
  generalize hv : State.putBit _ _ _ _ = v
  have : v = { u with regs := v.regs } := by rw [← hv, State.putBit_eq]; rfl
  rw [this]; rfl

theorem State.ctxOf_trapRegs (u : State) (g : Gable) (x : Trap) (line : Nat) (h : Gable) :
    (u.trapRegs g x line).ctxOf h = u.ctxOf h := by rw [State.trapRegs_eq]; rfl

theorem State.ctxOf_setCore_ilb (s : State) (l : List IlbLine) (g : Gable) :
    (s.setCore (fun c => { c with ilb := l })).ctxOf g = s.ctxOf g := rfl

theorem State.enterTrap_eq (u : State) (g : Gable) (x : Trap) (line : Nat) :
    u.enterTrap g x line =
      ((u.trapRegs g x line).setCtxOf g (fun c => { c with
        pc := BitVec.ofNat 32 (bitsOf ((u.trapRegs g x line).reg (.gabTrapBase g)) 31 8 * 256 + 16 * x.vec),
        wfe := false })).setCore (fun c => { c with ilb := [] }) := by
  have hb : ((((u.setReg (.gabEpc g) (u.ctxOf g).pc).setReg (.gabTcause g)
      (BitVec.ofNat 32 (x.vec + 0x100 * x.code.toNat + 0x10000 * line))).setReg (.gabTaddr g) x.addr)).bitOf (.gabTstat g) 1
      = u.bitOf (.gabTstat g) 1 := by simp [State.bitOf_setReg]
  unfold State.enterTrap State.trapRegs
  simp only [hb]

/-- Entering a handler from `u`, counted, is what R141 says. -/
theorem State.entersTrap_enterTrap (u : State) (g : Gable) (x : Trap) (line : Nat) (k : Fin 8) :
    u.entersTrap g x.vec x.code line x.addr ((u.enterTrap g x line).perf g k) := by
  have hreg : ∀ r, Reg.isPerf g r = false → ((u.enterTrap g x line).perf g k).reg r = (u.enterTrap g x line).reg r :=
    fun r hr => State.reg_perf _ g k r hr
  have hbit : ∀ r j, Reg.isPerf g r = false → ((u.enterTrap g x line).perf g k).bitOf r j = (u.enterTrap g x line).bitOf r j :=
    fun r j hr => by unfold State.bitOf; rw [hreg r hr]
  have e1 : ∀ r, (u.enterTrap g x line).reg r =
      if Reg.gabTstat g = r then
        (if u.bitOf (.gabTstat g) 1 then u.reg (.gabTstat g) ||| bitMask 2 else u.reg (.gabTstat g) &&& ~~~ (bitMask 2))
          ||| (bitMask 1 ||| bitMask 0)
      else if Reg.gabTaddr g = r then x.addr
      else if Reg.gabTcause g = r then BitVec.ofNat 32 (x.vec + 0x100 * x.code.toNat + 0x10000 * line)
      else if Reg.gabEpc g = r then (u.ctxOf g).pc else u.reg r := by
    intro r
    unfold State.enterTrap
    simp only [State.reg_setCore, State.reg_setCtxOf, State.reg_orReg, State.reg_putBit, State.reg_setReg,
      State.bitOf_setReg]
    by_cases h : Reg.gabTstat g = r
    · subst h; simp
    · simp [h]
  have e2 := State.enterTrap_eq u g x line
  refine ⟨?_, ?_, ?_, ?_, ?_, ?_, ?_, ?_, ?_, ?_, ?_⟩
  · rw [hreg _ rfl, e1]; simp
  · rw [hreg _ rfl, e1]; simp
  · rw [hreg _ rfl, e1]; simp
  · rw [hbit _ _ rfl]; unfold State.bitOf; rw [e1]
    rw [if_pos rfl, BitVec.getLsbD_or, BitVec.getLsbD_or, getLsbD_bitMask, getLsbD_bitMask]; simp
  · rw [hbit _ _ rfl]; unfold State.bitOf; rw [e1]
    rw [if_pos rfl, BitVec.getLsbD_or, BitVec.getLsbD_or, getLsbD_bitMask, getLsbD_bitMask]; simp
  · rw [hbit _ _ rfl]; unfold State.bitOf; rw [e1]
    rw [if_pos rfl, BitVec.getLsbD_or, BitVec.getLsbD_or, getLsbD_bitMask, getLsbD_bitMask]
    cases h : (u.reg (.gabTstat g)).getLsbD 1
    · have h' : ¬ (u.bitOf (.gabTstat g) 1 = true) := by unfold State.bitOf; rw [h]; simp
      rw [if_neg h', BitVec.getLsbD_and, BitVec.getLsbD_not, getLsbD_bitMask]; simp
    · have h' : u.bitOf (.gabTstat g) 1 = true := h
      rw [if_pos h', BitVec.getLsbD_or, getLsbD_bitMask]; simp
  · rw [State.ctxOf_perf, e2, State.ctxOf_setCore_ilb, State.ctxOf_setCtxOf, if_pos rfl]
    have hb : bitsOf ((u.trapRegs g x line).reg (.gabTrapBase g)) 31 8 * 256 = (u.reg (.gabTrapBase g)).toNat / 256 * 256 := by
      rw [vecBase]
      have := e1 (.gabTrapBase g)
      rw [e2] at this
      simp at this
      rw [show (u.trapRegs g x line).reg (.gabTrapBase g) = u.reg (.gabTrapBase g) from this]
    simp only [hb, State.ctxOf_trapRegs]
  · rw [State.perf_eq]; rfl
  · intro h hh
    rw [State.ctxOf_perf, e2, State.ctxOf_setCore_ilb, State.ctxOf_setCtxOf, if_neg (Ne.symm hh),
      State.ctxOf_trapRegs]
  · intro r hp h1 h2 h3 h4
    rw [hreg r hp, e1, if_neg (Ne.symm h4), if_neg (Ne.symm h3), if_neg (Ne.symm h2), if_neg (Ne.symm h1)]
  · rw [State.perf_eq, e2, State.trapRegs_eq]; rfl

/-- An exception outside a handler: older stores commit, and the gable enters its handler. -/
theorem State.takeTrap_enters (u : State) (g : Gable) (x : Trap) (h : u.bitOf (.gabTstat g) 0 = false) :
    u.drain.entersTrap g x.vec x.code 0 x.addr (u.takeTrap g x) ∧ (u.takeTrap g x).core.sb = [] := by
  have hb : ¬ (u.drain.bitOf (.gabTstat g) 0 = true) := by
    rw [(State.drainOnly_drain u).bitOf _ _ rfl, h]; simp
  unfold State.takeTrap
  simp only
  rw [if_neg hb]
  have ht := State.entersTrap_enterTrap u.drain g x 0 perfTraps
  refine ⟨ht, ?_⟩
  rw [ht.2.2.2.2.2.2.2.2.2.2]
  exact State.sb_drain u

/-- A state that entered a handler keeps what commands keep. -/
theorem State.commit_entersTrap {s u t : State} {g : Gable} {v k : Nat} {c : Byte} {a : Word} (hu : s.fetchOnly u)
    (h : u.drain.entersTrap g v c k a t) : s.commit t = t := by
  have hd := State.drainOnly_drain u
  have ht := h.2.2.2.2.2.2.2.2.2.2
  refine State.commit_self ?_ ?_ ?_ ?_
  · rw [ht]; exact hd.cfg.trans hu.cfg
  · rw [ht]; exact hd.root.trans hu.root
  · rw [ht]; exact hd.now.trans hu.now
  · rw [ht]; exact hd.pending.trans hu.pending

/-- A command whose new state is an exception taken from the fetched state. -/
theorem exec_takeTrap {i : Instr} {s : State} {g : Gable} {e : Enc} {x : Trap}
    (hi : exec i s = done s ((s.fetched g e).takeTrap g x)) (h : s.bitOf (.gabTstat g) 0 = false) :
    ∃ t, exec i s = .next t ∧ (s.fetched g e).drain.entersTrap g x.vec x.code 0 x.addr t ∧ t.core.sb = [] := by
  have hf := State.fetchOnly_fetched s g e
  have h' : (s.fetched g e).bitOf (.gabTstat g) 0 = false := by rw [hf.bitOf _ _ rfl, h]
  have ht := State.takeTrap_enters (s.fetched g e) g x h'
  refine ⟨_, ?_, ht.1, ht.2⟩
  rw [hi]; unfold done; rw [State.commit_entersTrap hf ht.1]

/-- An instruction that is undefined in the gable's instruction set, and is fetched, traps with E_UND. -/
theorem State.instr_undefined {s : State} {g : Gable} {e : Enc} (h : s.reaches g)
    (hf : (s.fetch g (s.encLen g e)).1 = none) (hd : s.defined g e = false)
    (eff : Gable → Nat → State → State) : s.instr e eff = (s.fetched g e).takeTrap g trapUnd := by
  obtain ⟨hr, hm⟩ := h
  have hx := State.fetchOnly_fetch s g (s.encLen g e)
  unfold State.instr
  rw [hr]
  simp only [State.when, hm, if_true]
  unfold State.fetched
  revert hx hf
  rcases s.fetch g (s.encLen g e) with ⟨_ | t, u⟩
  · intro hf hx
    simp only [hx.defined, hd, Bool.false_eq_true, if_false]
  · intro hf; simp at hf

/-- An instruction whose fetch raises an exception takes it. -/
theorem State.instr_fetchFault {s : State} {g : Gable} {e : Enc} {x : Trap} (h : s.reaches g)
    (hf : (s.fetch g (s.encLen g e)).1 = some x)
    (eff : Gable → Nat → State → State) : s.instr e eff = (s.fetched g e).takeTrap g x := by
  obtain ⟨hr, hm⟩ := h
  unfold State.instr
  rw [hr]
  simp only [State.when, hm, if_true]
  unfold State.fetched
  revert hf
  rcases s.fetch g (s.encLen g e) with ⟨_ | t, u⟩
  · intro hf; simp at hf
  · intro hf; simp at hf; subst hf; rfl

end Sys2Proof.Machine
end

