-- ==== Sys2Proof/Laws/Poke.lean ====
section
/-! SUPPORT. What a register write that passes every check does, and what hardware events and ends of services change. -/

namespace Sys2Proof.Machine

/-- A write without reserved bits keeps all its bits. -/
theorem and_definedMask {v m : Word} (h : v &&& ~~~ m = 0) : v &&& m = v := by
  apply BitVec.eq_of_getLsbD_eq
  intro i hi
  have := congrArg (fun w => BitVec.getLsbD w i) h
  simp only [BitVec.getLsbD_and, BitVec.getLsbD_not, hi, decide_true, Bool.true_and] at this ⊢
  cases hv : v.getLsbD i <;> cases hm : m.getLsbD i <;> simp_all

/-- A write that is admitted has its register's effect (R14). -/
theorem State.regWrite_admits {s : State} {g : Gable} {r : Reg} {v : Word} (h : s.admits g r v) :
    s.regWrite g r v = s.regTake g r v := by
  obtain ⟨_, _, h1, h2, h3⟩ := h
  unfold State.regWrite
  simp only [h1, Bool.false_eq_true, if_false, h2, ne_eq, not_true_eq_false, h3, and_definedMask h2]

/-- What precedes a gable's access to device space changes the store buffer, the cache, the banks and counters alone. -/
theorem State.drainOnly_deviceAccess (s : State) (g : Gable) : s.drainOnly (s.deviceAccess g) :=
  State.drainOnly_trans (State.drainOnly_drain s) (State.memOnly_perf _ _ _).drainOnly

/-- It empties the store buffer (R146). -/
theorem State.sb_deviceAccess (s : State) (g : Gable) : (s.deviceAccess g).core.sb = [] := by
  unfold State.deviceAccess
  rw [(State.memOnly_perf _ _ _).core, State.sb_drain]

theorem State.up_deviceAccess (s : State) (g : Gable) : (s.deviceAccess g).up = s.up := by
  unfold State.up; rw [(State.drainOnly_deviceAccess s g).1]

/-- What an access changes does not bear on which registers can be reached. -/
theorem State.drainOnly.reachable {s t : State} (h : s.drainOnly t) (d : RegDomain) : t.reachable d = s.reachable d := by
  have hd : ∀ x, t.domOn x = s.domOn x := by intro x; unfold State.domOn State.switchingDom; rw [h.1]
  have hp : t.pclkRuns = s.pclkRuns := by
    unfold State.pclkRuns State.frcRuns State.gateEn
    rw [hd, h.bitOf .clkStat 3 rfl, h.bitOf .clkGate 0 rfl]
  cases d <;> simp only [State.reachable, hd, hp]

/-- A command's write that is admitted has its register's effect after what precedes the access. -/
theorem State.poke_admits {s : State} {g : Gable} {r : Reg} {v : Word} (h : (s.deviceAccess g).admits g r v) :
    s.poke g r v = (s.deviceAccess g).regTake g r v := by
  have h1 : s.up = true := State.up_deviceAccess s g ▸ h.1
  have h2 : s.reachable r.domain = true := (State.drainOnly_deviceAccess s g).reachable r.domain ▸ h.2.1
  unfold State.poke State.deviceCommand
  rw [State.when_pos _ _ h1]
  simp only [h2, if_true]
  exact State.regWrite_admits h

/-- What a told line changes: the pending bits of the gable, and the power requests (R91, R148). -/
theorem State.pendLine_eq (s : State) (g : Gable) (n : Nat) :
    s.pendLine g n = { s with
      regs := (s.pendLine g n).regs
      power := { s.power with greq := (s.pendLine g n).power.greq, offAt := (s.pendLine g n).power.offAt } } := by
  have key : ∀ (rg : RegFile) (c : Bool) (t u : State), t = { s with regs := rg } →
      u = (if c then
        (if g = 0 then { t.setGreq g .run with power := { (t.setGreq g .run).power with offAt := none } }
         else t.setGreq g .run) else t) →
      u = { s with regs := u.regs, power := { s.power with greq := u.power.greq, offAt := u.power.offAt } } := by
    intro rg c t u ht hu
    subst ht hu
    cases c
    · rfl
    · by_cases hg : g = 0
      · subst hg; rfl
      · simp only [hg, if_true, if_false]; rfl
  by_cases hr : s.cfg.routed g n = true
  · unfold State.pendLine
    rw [if_pos hr]
    by_cases hn : n < 32
    · simp only [if_pos hn]
      exact key _ ((s.orReg (.gabEvtPendLo g) (bitMask n)).lineEnabled g n &&
        !(s.orReg (.gabEvtPendLo g) (bitMask n)).domainScheme) (s.orReg (.gabEvtPendLo g) (bitMask n)) _ rfl rfl
    · simp only [if_neg hn]
      exact key _ ((s.orReg (.gabEvtPendHi g) (bitMask (n - 32))).lineEnabled g n &&
        !(s.orReg (.gabEvtPendHi g) (bitMask (n - 32))).domainScheme) (s.orReg (.gabEvtPendHi g) (bitMask (n - 32))) _
        rfl rfl
  · have h : s.pendLine g n = s := by unfold State.pendLine; rw [if_neg hr]
    rw [h]

theorem State.reg_pendLine (s : State) (g : Gable) (n : Nat) (r : Reg) :
    (s.pendLine g n).reg r =
      if s.cfg.routed g n then
        (if r = .gabEvtPendLo g ∧ n < 32 then s.reg r ||| bitMask n
         else if r = .gabEvtPendHi g ∧ ¬ n < 32 then s.reg r ||| bitMask (n - 32) else s.reg r)
      else s.reg r := by
  have key : ∀ t : State, ((if t.lineEnabled g n && !t.domainScheme then
      (if g = 0 then { t.setGreq g .run with power := { (t.setGreq g .run).power with offAt := none } }
       else t.setGreq g .run) else t) : State).reg r = t.reg r := by
    intro t; split
    · split <;> rfl
    · rfl
  unfold State.pendLine
  split
  · rename_i hr
    by_cases hn : n < 32
    · simp only [hn, if_true]
      refine (key _).trans ?_
      rw [State.reg_orReg]
      by_cases h : Reg.gabEvtPendLo g = r
      · simp [h]
      · simp [h, Ne.symm h]
    · simp only [hn, if_false]
      refine (key _).trans ?_
      rw [State.reg_orReg]
      by_cases h : Reg.gabEvtPendHi g = r
      · simp [h]
      · simp [h, Ne.symm h]
  · rfl

theorem State.told_pendLine (s : State) (g : Gable) (n : Nat) (hn : n < 64) : s.told g n (s.pendLine g n) := by
  unfold State.told State.linePending State.bitOf
  by_cases hr : s.cfg.routed g n = true <;> by_cases h : n < 32 <;>
    simp [State.reg_pendLine, hr, h, getLsbD_bitMask]
  omega

/-- The parts of the state that a told line keeps. -/
@[simp] theorem State.pendLine_pending (s : State) (g : Gable) (n : Nat) : (s.pendLine g n).pending = s.pending := by
  rw [State.pendLine_eq]
@[simp] theorem State.pendLine_now (s : State) (g : Gable) (n : Nat) : (s.pendLine g n).now = s.now := by
  rw [State.pendLine_eq]
@[simp] theorem State.pendLine_freeCtr (s : State) (g : Gable) (n : Nat) : (s.pendLine g n).freeCtr = s.freeCtr := by
  rw [State.pendLine_eq]
@[simp] theorem State.pendLine_rdata (s : State) (g : Gable) (n : Nat) : (s.pendLine g n).rdata = s.rdata := by
  rw [State.pendLine_eq]
@[simp] theorem State.pendLine_life (s : State) (g : Gable) (n : Nat) : (s.pendLine g n).life = s.life := by
  rw [State.pendLine_eq]
@[simp] theorem State.pendLine_vinMv (s : State) (g : Gable) (n : Nat) : (s.pendLine g n).vinMv = s.vinMv := by
  rw [State.pendLine_eq]
@[simp] theorem State.pendLine_vstMv (s : State) (g : Gable) (n : Nat) : (s.pendLine g n).vstMv = s.vstMv := by
  rw [State.pendLine_eq]
@[simp] theorem State.pendLine_vbatMv (s : State) (g : Gable) (n : Nat) : (s.pendLine g n).vbatMv = s.vbatMv := by
  rw [State.pendLine_eq]
@[simp] theorem State.pendLine_vsysMv (s : State) (g : Gable) (n : Nat) : (s.pendLine g n).vsysMv = s.vsysMv := by
  rw [State.pendLine_eq]
@[simp] theorem State.pendLine_supply (s : State) (g : Gable) (n : Nat) : (s.pendLine g n).supply = s.supply := by
  rw [State.pendLine_eq]
@[simp] theorem State.pendLine_gutter (s : State) (g : Gable) (n : Nat) : (s.pendLine g n).gutter = s.gutter := by
  rw [State.pendLine_eq]
@[simp] theorem State.pendLine_clk (s : State) (g : Gable) (n : Nat) : (s.pendLine g n).clk = s.clk := by
  rw [State.pendLine_eq]
@[simp] theorem State.pendLine_res (s : State) (g : Gable) (n : Nat) : (s.pendLine g n).res = s.res := by
  rw [State.pendLine_eq]
@[simp] theorem State.pendLine_ridge (s : State) (g : Gable) (n : Nat) : (s.pendLine g n).ridge = s.ridge := by
  rw [State.pendLine_eq]
@[simp] theorem State.pendLine_core (s : State) (g : Gable) (n : Nat) : (s.pendLine g n).core = s.core := by
  rw [State.pendLine_eq]
@[simp] theorem State.pendLine_gabs (s : State) (g : Gable) (n : Nat) : (s.pendLine g n).gabs = s.gabs := by
  rw [State.pendLine_eq]
@[simp] theorem State.pendLine_frame (s : State) (g : Gable) (n : Nat) : (s.pendLine g n).frame = s.frame := by
  rw [State.pendLine_eq]
@[simp] theorem State.pendLine_cache (s : State) (g : Gable) (n : Nat) : (s.pendLine g n).cache = s.cache := by
  rw [State.pendLine_eq]
@[simp] theorem State.pendLine_banks (s : State) (g : Gable) (n : Nat) : (s.pendLine g n).banks = s.banks := by
  rw [State.pendLine_eq]
@[simp] theorem State.pendLine_thatch (s : State) (g : Gable) (n : Nat) : (s.pendLine g n).thatch = s.thatch := by
  rw [State.pendLine_eq]
@[simp] theorem State.pendLine_burin (s : State) (g : Gable) (n : Nat) : (s.pendLine g n).burin = s.burin := by
  rw [State.pendLine_eq]
@[simp] theorem State.pendLine_purlin (s : State) (g : Gable) (n : Nat) : (s.pendLine g n).purlin = s.purlin := by
  rw [State.pendLine_eq]
@[simp] theorem State.pendLine_nv (s : State) (g : Gable) (n : Nat) : (s.pendLine g n).nv = s.nv := by
  rw [State.pendLine_eq]
@[simp] theorem State.pendLine_root (s : State) (g : Gable) (n : Nat) : (s.pendLine g n).root = s.root := by
  rw [State.pendLine_eq]
@[simp] theorem State.pendLine_cfg (s : State) (g : Gable) (n : Nat) : (s.pendLine g n).cfg = s.cfg := by
  rw [State.pendLine_eq]

/-! ## The end of a service -/

/-- A service that runs ends at once. -/
theorem State.endService_of_routine {s : State} {g : Gable} {n : Byte} (h : s.ridge.ctx.routine = .service g n)
    (code : Byte) : s.endService g code = (s.completeCall g code).setCtx RidgeCtx.idle := by
  unfold State.endService
  rw [h]
  simp [Routine.isServiceOf]

/-- An ended service changes Ridge and the caller's result alone. -/
theorem State.completeCall_eq (s : State) (g : Gable) (code : Byte) :
    s.completeCall g code = { s with
      regs := (s.completeCall g code).regs
      ridge := { s.ridge with slots := vset s.ridge.slots g .free, discard := vset s.ridge.discard g false } } := by
  unfold State.completeCall
  simp only
  split <;> rfl

theorem State.reg_completeCall_ne (s : State) (g : Gable) (code : Byte) {r : Reg} (h : Reg.rdgResult g ≠ r) :
    (s.completeCall g code).reg r = s.reg r := by
  unfold State.completeCall
  simp only
  split <;> simp [h]

theorem State.answers_endService {s : State} {g : Gable} {n : Byte} (h : s.ridge.ctx.routine = .service g n)
    (code : Byte) : s.answers g code (s.endService g code) := by
  rw [State.endService_of_routine h]
  have he := State.completeCall_eq s g code
  refine ⟨?_, ?_, ?_, ?_, ?_⟩
  · unfold State.setCtx State.setRidge; rw [he]
  · show (s.completeCall g code).ridge.slots[g.val] = _
    rw [he]; simp [vset]
  · show (s.completeCall g code).ridge.discard[g.val] = _
    rw [he]; simp [vset]
  · intro h' hh
    have hv : ¬ g.val = h'.val := fun e => hh (Fin.ext e).symm
    constructor
    · show (s.completeCall g code).ridge.slots[h'.val] = _
      rw [he]; simp [vset, hv]
    · show (s.completeCall g code).ridge.discard[h'.val] = _
      rw [he]; simp [vset, hv]
  · rw [State.reg_setCtx, State.bitOf_setCtx]
    unfold State.bitOf State.completeCall
    simp only
    split
    · simp
    · simp only [State.reg_setReg_same]
      refine ⟨?_, ?_⟩
      · rw [bitsOf_or _ _ _ _ (by decide) (by decide), bitsOf_putBits_same _ _ _ _ (by decide) (by decide)]
        exact Nat.mod_eq_of_lt code.isLt
      · rw [BitVec.getLsbD_or, getLsbD_bitMask]; simp

end Sys2Proof.Machine
end

