-- ==== Sys2Proof/Laws/Wire.lean ====
section
/-! SUPPORT. A frame laid out as Table PUR-3 says reads back as its fields and passes the checks of R259; the length of the
8b/10b code on the line. -/

namespace Sys2Proof.Machine

/-! ## Numbers as bytes, most significant first -/

theorem leNat_leBytes (n v : Nat) : leNat (leBytes n v) = v % 256 ^ n := by
  induction n generalizing v with
  | zero => simp [leBytes, leNat, Nat.mod_one]
  | succ n ih =>
    have hs : leBytes (n + 1) v = BitVec.ofNat 8 v :: leBytes n (v / 256) := by
      simp only [leBytes, List.range_succ_eq_map, List.map_cons, List.map_map, Nat.pow_zero, Nat.div_one]
      congr 1
      apply List.map_congr_left
      intro k _
      simp only [Function.comp, Nat.pow_succ, Nat.div_div_eq_div_mul, Nat.mul_comm]
    rw [hs, leNat, ih, BitVec.toNat_ofNat, show 256 ^ (n + 1) = 256 * 256 ^ n by rw [Nat.pow_succ, Nat.mul_comm], Nat.mod_mul]

@[simp] theorem beNat_beBytes (n v : Nat) : beNat (beBytes n v) = v % 256 ^ n := by
  rw [beNat, beBytes, List.reverse_reverse, leNat_leBytes]

theorem beBytes_two (v : Nat) : ∃ a b, beBytes 2 v = [a, b] := ⟨_, _, rfl⟩
theorem beBytes_four (v : Nat) : ∃ a b c d, beBytes 4 v = [a, b, c, d] := ⟨_, _, _, _, rfl⟩

/-! ## The fields of a header -/

theorem opc_byte (opc : BitVec 4) : (opc.setWidth 8).setWidth 4 = opc := by revert opc; decide
theorem opc_rsp (opc : BitVec 4) : (opc.setWidth 8).getLsbD 7 = false := by revert opc; decide
theorem opc_code (opc : BitVec 4) : (opc.setWidth 8).toNat / 16 % 8 = 0 := by revert opc; decide
theorem opc_sequenced (opc : BitVec 4) : sequenced opc = true → opc ≠ 0xC → opc ≠ 0 ∧ opc.toNat < 0xC := by
  revert opc; decide
theorem sess_byte (sess : Gable) : (BitVec.ofNat 8 sess.val).toNat = sess.val := by revert sess; decide

/-! ## Frames -/

/-- The bytes of a made frame before its FCS. -/
def frameBytes (opc : BitVec 4) (flags : Byte) (sess : Gable) (seq : Word) (data tag : List Byte) : List Byte :=
  [opc.setWidth 8, flags, BitVec.ofNat 8 sess.val, 0] ++ beBytes 2 data.length ++
    (if sequenced opc then beBytes 4 seq.toNat else []) ++ data ++ (if sequenced opc then tag else [])

theorem make_bytes (p : Port) (opc : BitVec 4) (flags : Byte) (sess : Gable) (seq : Word) (data tag : List Byte) :
    (Frame.make p opc flags sess seq data tag).bytes =
      frameBytes opc flags sess seq data tag ++ beBytes 4 (crc32 (frameBytes opc flags sess seq data tag)).toNat := rfl

@[simp] theorem make_port (p : Port) (opc : BitVec 4) (flags : Byte) (sess : Gable) (seq : Word) (data tag : List Byte) :
    (Frame.make p opc flags sess seq data tag).port = p := rfl

@[simp] theorem make_opc (p : Port) (opc : BitVec 4) (flags : Byte) (sess : Gable) (seq : Word) (data tag : List Byte) :
    (Frame.make p opc flags sess seq data tag).opc = opc := opc_byte opc

@[simp] theorem make_flags (p : Port) (opc : BitVec 4) (flags : Byte) (sess : Gable) (seq : Word) (data tag : List Byte) :
    (Frame.make p opc flags sess seq data tag).flags = flags := rfl

@[simp] theorem make_sess (p : Port) (opc : BitVec 4) (flags : Byte) (sess : Gable) (seq : Word) (data tag : List Byte) :
    (Frame.make p opc flags sess seq data tag).sess = sess := by
  apply Fin.ext
  show (BitVec.ofNat 8 sess.val).toNat % 8 = sess.val
  rw [sess_byte]; omega

/-- The FCS of a made frame holds. -/
theorem make_fcsOk (p : Port) (opc : BitVec 4) (flags : Byte) (sess : Gable) (seq : Word) (data tag : List Byte) :
    (Frame.make p opc flags sess seq data tag).fcsOk = true := by
  have hc := (crc32 (frameBytes opc flags sess seq data tag)).isLt
  simp only [Frame.fcsOk, make_bytes, List.length_append, length_beBytes, Nat.add_sub_cancel, List.drop_left,
    List.take_left, beNat_beBytes, decide_eq_true_eq]
  exact Nat.mod_eq_of_lt hc

theorem make_len (p : Port) (opc : BitVec 4) (flags : Byte) (sess : Gable) (seq : Word) (data tag : List Byte)
    (hd : data.length ≤ 486) : (Frame.make p opc flags sess seq data tag).len = data.length := by
  have h : ((Frame.make p opc flags sess seq data tag).bytes.drop 4).take 2 = beBytes 2 data.length := by
    obtain ⟨a, b, e⟩ := beBytes_two data.length
    simp [make_bytes, frameBytes, e]
  rw [Frame.len, h, beNat_beBytes]
  exact Nat.mod_eq_of_lt (by show data.length < 65536; omega)

/-! ### Sequenced frames -/

theorem make_seq (p : Port) (opc : BitVec 4) (flags : Byte) (sess : Gable) (seq : Word) (data tag : List Byte)
    (hs : sequenced opc = true) : (Frame.make p opc flags sess seq data tag).seq = seq := by
  have h : ((Frame.make p opc flags sess seq data tag).bytes.drop 6).take 4 = beBytes 4 seq.toNat := by
    obtain ⟨a, b, e⟩ := beBytes_two data.length
    obtain ⟨c, d, f, g, e4⟩ := beBytes_four seq.toNat
    simp [make_bytes, frameBytes, e, e4, hs]
  rw [Frame.seq, h, beNat_beBytes, Nat.mod_eq_of_lt (show seq.toNat < 256 ^ 4 from seq.isLt), BitVec.ofNat_toNat,
    BitVec.setWidth_eq]

theorem make_drop (p : Port) (opc : BitVec 4) (flags : Byte) (sess : Gable) (seq : Word) (data tag : List Byte)
    (hs : sequenced opc = true) :
    (Frame.make p opc flags sess seq data tag).bytes.drop 10 =
      data ++ (tag ++ beBytes 4 (crc32 (frameBytes opc flags sess seq data tag)).toNat) := by
  obtain ⟨a, b, e⟩ := beBytes_two data.length
  obtain ⟨c, d, f, g, e4⟩ := beBytes_four seq.toNat
  simp [make_bytes, frameBytes, e, e4, hs]

theorem make_data (p : Port) (opc : BitVec 4) (flags : Byte) (sess : Gable) (seq : Word) (data tag : List Byte)
    (hs : sequenced opc = true) (hd : data.length ≤ 486) : (Frame.make p opc flags sess seq data tag).data = data := by
  rw [Frame.data, Frame.dataAt, make_opc, hs, if_pos rfl, make_drop _ _ _ _ _ _ _ hs, make_len _ _ _ _ _ _ _ hd,
    List.take_left]

theorem make_tag (p : Port) (opc : BitVec 4) (flags : Byte) (sess : Gable) (seq : Word) (data tag : List Byte)
    (hs : sequenced opc = true) (hd : data.length ≤ 486) (ht : tag.length = 8) :
    (Frame.make p opc flags sess seq data tag).tag = tag := by
  rw [Frame.tag, Frame.dataAt, make_opc, hs, if_pos rfl, make_len _ _ _ _ _ _ _ hd, ← List.drop_drop,
    make_drop _ _ _ _ _ _ _ hs, List.drop_left, ← ht, List.take_left]

/-- A made sequenced frame that a warden accepts is not discarded (R259). -/
theorem make_discard (p : Port) (opc : BitVec 4) (flags : Byte) (sess : Gable) (seq : Word) (data tag : List Byte)
    (hs : sequenced opc = true) (hc : opc ≠ 0xC) (hf : flagsOk opc flags = true) (hd : data.length ≤ 486)
    (ht : tag.length = 8) : (Frame.make p opc flags sess seq data tag).discard = none := by
  have hlen : (Frame.make p opc flags sess seq data tag).bytes.length = 22 + data.length := by
    simp [make_bytes, frameBytes, hs, ht]; omega
  have hv : (Frame.make p opc flags sess seq data tag).violation = false := rfl
  have hsize : (Frame.make p opc flags sess seq data tag).size = 22 + data.length := by
    simp only [Frame.size, Frame.dataAt, make_opc, hs, if_pos, make_len _ _ _ _ _ _ _ hd]; omega
  have hrsp : (Frame.make p opc flags sess seq data tag).rsp = false := opc_rsp opc
  have h0 : (Frame.make p opc flags sess seq data tag).bytes.getD 0 0 = opc.setWidth 8 := rfl
  have h2 : (Frame.make p opc flags sess seq data tag).bytes.getD 2 0 = BitVec.ofNat 8 sess.val := rfl
  have h3 : (Frame.make p opc flags sess seq data tag).bytes.getD 3 0 = 0 := rfl
  have hz : (opc.setWidth 8).toNat / 16 % 8 = 0 := opc_code opc
  have hg : (BitVec.ofNat 8 sess.val).toNat < 8 := by rw [sess_byte]; omega
  have ho : opc ≠ 0 ∧ opc.toNat < 0xC := opc_sequenced opc hs hc
  have h10 : ¬(22 + data.length < 4) ∧ ¬(22 + data.length < 10) ∧ ¬(508 < 22 + data.length) := by omega
  unfold Frame.discard
  simp only [hv, hlen, make_fcsOk, hsize, make_opc, hrsp, h0, h2, h3, make_flags, hf, hz]
  have hz0 : opc ≠ 0#4 := ho.1
  have hg8 : ¬8 ≤ sess.val % 256 := by omega
  simp [h10, hz0, Nat.not_le.mpr ho.2, hg8]

/-! ## The line -/

@[simp] theorem length_idleFill (n : Nat) : (idleFill n).length = n := by
  induction n using idleFill.induct with
  | case1 => rfl
  | case2 => rfl
  | case3 n ih => simp [idleFill, idleSet, ih]

@[simp] theorem length_encodeChars (p : Bool) (cs : List LineChar) : (encodeChars p cs).1.length = cs.length := by
  induction cs generalizing p with
  | nil => rfl
  | cons c cs ih => simp [encodeChars, ih]

end Sys2Proof.Machine
end

