-- ==== Sys2Proof/Tests/Slice0.lean ====
section
/-! SUPPORT. The model's own tests: ill-formed commands refused, single steps with values worked out from the spec, and for
each statement with premises a state and operands that meet them. -/

namespace Sys2Proof.Tests

open Sys2Proof Sys2Proof.Machine

/-! ## States for the witnesses -/

/-- A gable with bank 0, Hatch or Stipple. -/
def gab (st : Bool) : Desc := { Desc.absent with present := true, stipple := st, banks := 1, budget := 400 }

def cfg (st : Bool) : Cfg := { Cfg.reset with desc := vset Cfg.reset.desc (0 : Gable) (gab st) }

/-- A warden whose gable 0 holds the core with its first line fetched. -/
def core (st : Bool) : State :=
  { State.reset with
    cfg := cfg st
    core := { Core.reset with running := some 0, ilb := [{ line := 0, gable := 0, bad := 0 }] }
    gabs := vset State.reset.gabs (0 : Gable) { GabState.reset with remain := 400 } }

/-- Gable 0's registers as a test gives them. -/
def withCtx (s : State) (f : Ctx → Ctx) : State := { s with core := { s.core with ctx := vmod s.core.ctx (0 : Gable) f } }

/-- Registers as a test gives them. -/
def regs (l : List (Reg × Word)) (s : State) : State := l.foldl (fun s x => s.setReg x.1 x.2) s

/-- FRC qualified and every gate enabled. -/
def clocked : State := regs [(.clkStat, 0xE), (.clkGate, 0xFFFF)] State.reset

/-- A service of gable 0 begins. -/
def serving (n : Byte) (s : State) : State :=
  { s with ridge := { s.ridge with
      ctx := { s.ridge.ctx with routine := .service 0 n, phase := .boundary }
      slots := vset s.ridge.slots (0 : Gable) (.running n) } }

/-- The harvesting converter runs with VST at a level. -/
def boosted (vst : Nat) : State := { regs [(.gutStat, 4)] State.reset with vstMv := vst }

/-- What an exec leaves, seen through a check. -/
def after (i : Instr) (s : State) (p : State → Bool) : Bool :=
  match exec i s with
  | .next t => p t
  | .fault _ => false
  | .refused _ => false

/-! ## Ill-formed commands (spec/08 R163, Tables ISA-3 and ISA-10) -/

theorem test_wf_shift_count : Instr.wf (.shli 0 32) = false ∧ Instr.wf (.shri 0 32) = false ∧
    Instr.wf (.sari 0 63) = false ∧ Instr.wf (.shli 0 31) = true := by decide
theorem test_wf_loads : Instr.wf (.ldw 3 3 .postInc) = false ∧ Instr.wf (.ldh 3 3 .preDec) = false ∧
    Instr.wf (.ldhu 3 3 .postInc) = false ∧ Instr.wf (.ldb 3 3 .preDec) = false ∧ Instr.wf (.ldbu 3 3 .postInc) = false ∧
    Instr.wf (.ldw 3 3 .base) = true ∧ Instr.wf (.ldw 3 4 .postInc) = true := by decide
theorem test_wf_stores : Instr.wf (.stw 3 3 .postInc) = false ∧ Instr.wf (.sth 3 3 .preDec) = false ∧
    Instr.wf (.stb 3 3 .postInc) = false ∧ Instr.wf (.stb 3 2 .preDec) = true := by decide
theorem test_wf_sign_extension : Instr.wf (.ld (.short .word .base true 0 0)) = false ∧
    Instr.wf (.ld (.long .word true 0 0 0)) = false ∧ Instr.wf (.st (.short .byte .base true 0 0)) = false ∧
    Instr.wf (.st (.long .half true 0 0 0)) = false ∧ Instr.wf (.ld (.short .half .base true 0 0)) = true := by decide
theorem test_wf_condition : Instr.wf (.bcc (.hatch 0xF 0)) = false ∧ Instr.wf (.bcc (.short 0xF 0)) = false ∧
    Instr.wf (.bcc (.long 0xF 0)) = false ∧ Instr.wf (.bcc (.hatch 0xE 0)) = true := by decide

/-- No row of the command table gives bits, so no word spells a command and nothing is put in front. -/
theorem test_no_word_spells_a_command : decodeTableWord 32 0x12345678 = none ∧
    (State.reset.withFetchWord 32 0x12345678).pending = [] := by decide

/-! ## Single steps with values worked out from the spec -/

theorem test_step_front : (∃ t, step { State.reset with pending := [.statusAlert, .sscUpdate] } = .next t ∧
    t.pending = [.sscUpdate]) := ⟨_, rfl, by decide⟩
theorem test_add_wraps : after (.add (.hatch 1 2 3 true))
    (withCtx (core false) (fun c => { c with g := (c.g.set 2 0xFFFFFFFF).set 3 1 }))
    (fun t => decide ((t.ctxOf 0).g[1] = 0) && decide ((t.ctxOf 0).flags = 5) && decide ((t.ctxOf 0).pc = 4)) = true := by decide
theorem test_sub_borrows : after (.sub (.stipple 1 2))
    (withCtx (core true) (fun c => { c with d := (c.d.set 1 0x80000000).set 2 1 }))
    (fun t => decide ((t.ctxOf 0).d[1] = 0x7FFFFFFF) && decide ((t.ctxOf 0).flags = 3) && decide ((t.ctxOf 0).pc = 2)) =
    true := by decide
theorem test_divs_overflow : after (.divs (.stipple 1 2))
    (withCtx (core true) (fun c => { c with d := (c.d.set 1 0x80000000).set 2 0xFFFFFFFF }))
    (fun t => decide ((t.ctxOf 0).d[1] = 0x80000000) && (t.ctxOf 0).flags.getLsbD 1) = true := by decide
theorem test_divu_by_zero : after (.divu (.hatch 1 2 3 true)) (withCtx (core false) (fun c => { c with g := c.g.set 2 7 }))
    (fun t => decide ((t.ctxOf 0).g[1] = 0xFFFFFFFF) && (t.ctxOf 0).flags.getLsbD 1) = true := by decide
theorem test_sar_by_register : after (.sar (.stipple 1 2))
    (withCtx (core true) (fun c => { c with d := (c.d.set 1 0x80000001).set 2 33 }))
    (fun t => decide ((t.ctxOf 0).d[1] = 0xC0000000) && decide ((t.ctxOf 0).flags = 9)) = true := by decide
theorem test_asat_clamps : after (.asat 0 1) (withCtx (core true) (fun c => { c with acc := c.acc.set 0 0x0080000000 }))
    (fun t => decide ((t.ctxOf 0).d[1] = 0x7FFFFFFF) && decide ((t.ctxOf 0).flags = 16)) = true := by decide
theorem test_mac_wraps : after (.mac 0 1 2)
    (withCtx (core true) (fun c => { c with acc := c.acc.set 0 0x7FFFFFFFFF, d := (c.d.set 1 0xFFFF).set 2 0xFFFF }))
    (fun t => decide ((t.ctxOf 0).acc[0] = 0x8000000000) && (t.ctxOf 0).flags.getLsbD 5) = true := by decide
theorem test_call_links : after (.call (.hatch 0x3FFFFFF)) (core false)
    (fun t => decide ((t.ctxOf 0).g[15] = 4) && decide ((t.ctxOf 0).pc = 0xFFFFFFFC)) = true := by decide
theorem test_trap_enters : after (.trap 7) (withCtx (core false) (fun c => { c with pc := 8 }))
    (fun t => decide ((t.ctxOf 0).pc = 0x40) && decide (t.reg (.gabEpc 0) = 8) && decide (t.fieldOf (.gabTcause 0) 7 0 = 4)) =
    true := by decide
theorem test_store_forwards : after (.ldw 1 2 .base)
    { withCtx (core false) (fun c => { c with g := c.g.set 2 0x104 }) with
      core := { (withCtx (core false) (fun c => { c with g := c.g.set 2 0x104 })).core with
        sb := [SbEntry.mk 0 0x104 .word 0xCAFEF00D .plain none] } }
    (fun t => decide ((t.ctxOf 0).g[1] = 0xCAFEF00D)) = true := by decide
theorem test_sup_stat_shows_vin : State.reset.reg .supStat = 5 := by decide

/-! ## States that meet the premises of the statements: the machine, registers, the instruction set -/

theorem test_meets_every_step_keeps : (cfg false).exclusive ∧ (cfg false).budgeted ∧ State.reset.canonical ∧
    (∃ t, step (core false) = .next t ∧ t.now = 1) ∧
    (∃ t, step { core false with pending := [.gutterStop 0] } = .next t ∧ t.now = 0) := by
  refine ⟨by unfold Cfg.exclusive; decide, by unfold Cfg.budgeted; decide, by unfold State.canonical; decide, ?_, ?_⟩
  · exact ⟨_, rfl, by decide⟩
  · exact ⟨_, rfl, by decide⟩

/-- SUP_STAT is read-only to every gable; CLK_SSC is G0's; a reserved encoding of CLK_SSC. -/
theorem test_meets_register_writes :
    (Reg.atAddr? 3 0x40010000 = some .supStat ∧ State.reset.reachable Reg.supStat.domain = true ∧
      (State.reset.deviceAccess 3).writeRefused 3 .supStat 0 = true ∧ inAperture 0x40010000 = false) ∧
    (Reg.atAddr? 0 0x4002001C = some .clkSsc ∧ (State.reset.deviceAccess 0).writeRefused 0 .clkSsc 0xFFFFFFFF = false ∧
      (State.reset.deviceAccess 0).writeRefused 0 .clkSsc 0x60 = false ∧ Reg.reservedEncoding .clkSsc 0x60 = false ∧
      Reg.plain .clkSsc = true) ∧
    (State.reset.deviceAccess 0).admits 0 .supEvt 1 ∧ (State.reset.deviceAccess 0).admits 0 .clkEvt 0x200 ∧
    (State.reset.deviceAccess 7).admits 7 (.gabEvtPendHi 7) 0xFFFFFFFF := by
  refine ⟨by decide, by decide, ?_, ?_, ?_⟩ <;> (unfold State.admits; decide)
theorem test_meets_reserved_encoding : (∃ v, Reg.reservedEncoding .tmrRtcCtl v = true) := ⟨1, by decide⟩

theorem test_meets_executes : (core false).executes 0 encHatch ∧ (core true).executes 0 encShort ∧
    (core true).executes 0 encLong ∧ (core false).executes 0 encBoth ∧
    (core false).executes 0 { encHatch with ok := HatchMode.wf 1 2 .postInc } := by
  refine ⟨?_, ?_, ?_, ?_, ?_⟩ <;> (unfold State.executes; decide)

/-- A load and a store that raise nothing; a held line; a forwarding store at the last byte of its word. -/
theorem test_meets_loads :
    (core false).place 0 0 = .bank 0 .plain false none ∧
    (∃ v u, ((core false).fetched 0 encHatch).load 0 0 4 = (.inr v, u)) ∧
    (core false).cfg.may 0 .r 0x104 = true ∧ (core false).cfg.may 0 .w 0x1FFFC = true ∧
    (core false).pathOn 0x104 false = true ∧
    (SbEntry.mk 0 0x104 .word 0xCAFEF00D .plain none).covers 0x107 1 = true ∧ (core false).core.sb.length < 4 := by
  refine ⟨by decide, ⟨_, _, rfl⟩, ?_⟩
  decide

/-- A dirty line of gable 0's that a store reaches, and an aliased store to a word without an error. -/
theorem test_meets_store_commit :
    let s : State := { core false with cache := { (core false).cache with
      lines := vmod (core false).cache.lines (0 : Fin 48) (fun l => { l with valid := true, tag := 8, gable := 0 }) } }
    s.cache.holder (0x11F / 32) = some 0 ∧ (s.cache.lines[0]).gable = 0 ∧ (s.cache.lines[0]).bad = 0 ∧
      s.cache.transfers.all (fun x => decide (x.line ≠ 8)) = true ∧ s.cfg.may 0 .r 0x11F = true ∧
      s.cache.holder 9 = none ∧ s.banks.eccAt (wordOf 0x120) = none := by decide

theorem test_meets_traps : (core false).reaches 0 ∧ (core false).bitOf (.gabTstat 0) 0 = false ∧
    ((core false).fetch 0 ((core false).encLen 0 { encBoth with ok := false })).1 = none ∧
    (core true).reaches 0 ∧ ((core true).fetch 0 ((core true).encLen 0 { encShort with ok := false })).1 = none ∧
    (HatchMode.ea .base (withCtx (core false) (fun c => { c with g := c.g.set 1 0x102 })|>.ctxOf 0) 1 4).toNat % 4 ≠ 0 ∧
    (core false).cfg.may 0 .w 0x20000 = false ∧ (core false).cfg.may 0 .r 0x1FFFFF = false ∧
    (withCtx (core false) (fun c => { c with pc := 2 })).reaches 0 ∧
    (regs [(.gabTstat 0, 1)] (core false)).reaches 0 ∧ (regs [(.gabTstat 0, 1)] (core false)).bitOf (.gabTstat 0) 0 = true ∧
    ((regs [(.gabTstat 0, 1)] (core false)).gab 0).boost = none := by
  refine ⟨?_, by decide, by decide, ?_, by decide, by decide, by decide, by decide, ?_, ?_, by decide, by decide⟩ <;>
    (unfold State.reaches; decide)
theorem test_meets_event_entry :
    let s := regs [(.gabTstat 0, 0), (.gabEvtPendHi 0, 0x80000000), (.gabEvtEnHi 0, 0x80000000)] (core false)
    s.coreRuns = true ∧ s.runnable 0 = true ∧ s.bitOf (.gabTstat 0) 1 = false ∧ s.linePending 0 63 = true ∧
      s.lineEnabled 0 63 = true ∧ ∀ j, j < 63 → (s.linePending 0 j && s.lineEnabled 0 j) = false := by decide

/-! ## Supply, brace -/

theorem test_meets_vin :
    (regs [(.supStat, 2)] State.reset).vinOk = false ∧ (regs [(.supStat, 2)] State.reset).bitOf .supStat 3 = false ∧
    { Supply.reset with buck := .softStart, handover := true }.buck = .softStart ∧
    (boosted 2800).vinOk = true ∧ (boosted 2800).bitOf .supStat 3 = false ∧ (boosted 2800).supply.avs = none ∧
    (boosted 2800).tokenUnasked ∧ (boosted 2800).vstAmple := by
  refine ⟨by decide, by decide, by decide, by decide, by decide, by decide, ?_, ?_⟩
  · unfold State.tokenUnasked; decide
  · unfold State.vstAmple; decide

/-- A request on the bus. -/
def request (o : AvsOrigin) (n : Nat) (poll ending : Bool) : AvsReq :=
  { cmd := .writeCommit, rail := 0, code := 0x50, attempt := n, origin := o, polling := poll, ending := ending }

def asking (q : AvsReq) (s : State) : State := { s with supply := { s.supply with avs := some q } }

theorem test_meets_voltage_requests :
    let q := request .ridge 2 false true
    let s := asking q (boosted 2800)
    (s.vinOk = true ∧ s.supply.avs = some q ∧ s.avsServed q ∧ s.tokenUnasked ∧ s.vstAmple ∧ q.ending = true ∧
      q.polling = false) ∧
    ((regs [(.supAvsCfg, 0x10000), (.supStat, 0x85)] s).deviceAccess 0).admits 0 .supAvsCfg 0 ∧
    (regs [(.supAvsCfg, 0x10000), (.supStat, 0x85)] s).bitOf .supAvsCfg 16 = true ∧
    (request .ridge 2 true false).attempt = 2 ∧ (request .ridge 2 true false).ending = false := by
  refine ⟨⟨by decide, by decide, ?_, ?_, ?_, by decide, by decide⟩, ?_, by decide, by decide, by decide⟩
  · intro g h; cases h
  · unfold State.tokenUnasked; decide
  · unfold State.vstAmple; decide
  · unfold State.admits; decide

/-- An attempt of cold start's request, its polling by Read of Status, and a status poll. -/
theorem test_meets_attempts :
    (∀ q ∈ [request .coldStart 1 false false, request .coldStart 1 true false],
      (asking q clocked).avsServed q ∧ (asking q clocked).tokenUnasked ∧ q.origin ≠ .poll ∧ q.attempt < 2) ∧
    (request .coldStart 1 true false).polling = true ∧ (request .poll 0 false false).origin = .poll ∧
    (false && decide ((0 : BitVec 2) = 0)) = false := by
  refine ⟨fun q h => ⟨fun g e => ?_, ⟨rfl, rfl⟩, ?_⟩, by decide⟩
  · rcases List.mem_cons.mp h with rfl | h
    · cases e
    · rw [List.mem_singleton.mp h] at e; cases e
  · revert q; decide
theorem test_meets_polls :
    (regs [(.supAvsCfg, 0x10100)] clocked).busRuns = true ∧
    (regs [(.supAvsCfg, 0x10100)] clocked).fieldOf .supAvsCfg 15 8 ≠ 0 ∧ clocked.bitOf .supStat 9 = false ∧
    (regs [(.supStat, 0x205)] clocked).bitOf .supStat 9 = true ∧
    (serving 6 clocked).serviceBegins 0 0x06 = true ∧
    (regs [(.rdgArg0 0, 0x6E), (.supAvsCfg, 0x10000)] (serving 6 clocked)).fieldOf (.rdgArg0 0) 7 0 = 0x6E ∧
    (regs [(.rdgArg0 0, 0x3D)] (serving 6 clocked)).bitOf .supAvsCfg 16 = false ∧
    (serving 6 clocked).domOn dOSCF = true ∧ (serving 6 clocked).bitOf .clkStat 3 = true ∧
    (serving 6 State.reset).bitOf .clkStat 3 = false ∧ State.reset.bitOf .supStat 7 = false ∧
    State.reset.bitOf .supStat 8 = false := by decide

theorem test_meets_brace : State.reset.up = true ∧ State.reset.bitOf .supStat 4 = false ∧ 2599 < State.reset.tWarn ∧
    State.reset.tWarn = 2600 ∧ State.reset.storm = false ∧ State.reset.braced = false ∧
    { State.reset with supply := { State.reset.supply with brace := .running } }.supply.brace = .running := by decide

/-- Brace is complete, VSYS is back, and `n` unbraces lie within the last second. -/
def bracedUp (n : Nat) : State :=
  { regs [(.supStat, 0x25)] State.reset with
    now := 2000000
    supply := { State.reset.supply with brace := .complete, braceReal := true, unbraces := List.replicate n 1000001 }
    ridge := { State.reset.ridge with suspend := some State.reset.ridge.ctx } }

theorem test_meets_unbrace :
    (bracedUp 6).braced = true ∧ ((bracedUp 6).supply.unbraces.filter (fun u => decide ((2000000 : Nat) < u + 1000000))).length < 7 ∧
    (bracedUp 6).ridge.suspend = some State.reset.ridge.ctx ∧ State.reset.ridge.ctx.phase = .boundary ∧
    (bracedUp 6).supply.braceTest = none ∧ (bracedUp 6).supply.stormPrior = none ∧ (bracedUp 7).storm = false ∧
    7 ≤ ((bracedUp 7).supply.unbraces.filter (fun u => decide ((2000000 : Nat) < u + 1000000))).length ∧
    State.reset.switchesFor (returnField (Vector.replicate 24 .on)) = [] := by decide

/-- A storm that VSYS has left, with nothing to return; its end may wait for Ridge's next DISPATCH. -/
def storming (p : RidgePhase) : State :=
  { regs [(.supStat, 0x45)] State.reset with
    supply := { Supply.reset with stormPrior := some (Vector.replicate 24 .on, .run) }
    ridge := { Ridge.reset with
      ctx := { RidgeCtx.reset with phase := p }, suspend := some RidgeCtx.reset, stormOut := true } }

theorem test_meets_storm_ends :
    (storming .atDispatch).storm = true ∧ (storming .atDispatch).up = true ∧ (storming .atDispatch).braced = false ∧
    (storming .atDispatch).bitOf .supStat 4 = false ∧ (storming .atDispatch).ridgeFree = true ∧
    (storming .native).ridgeFree = false ∧ (storming .atDispatch).ridge.ctx.phase = .atDispatch ∧
    (storming .atDispatch).power.switching = [] ∧
    (storming .atDispatch).switchesFor (returnField (Vector.replicate 24 .on)) = [] ∧ 2000 < (storming .atDispatch).tWarn := by
  decide
theorem test_meets_brace_test : (serving 9 State.reset).serviceBegins 0 0x09 = true ∧ (serving 9 State.reset).storm = false ∧
    (serving 9 (regs [(.supStat, 0x45)] State.reset)).storm = true := by decide

/-- A board whose NVM is erased. -/
def board : Board :=
  { nvm := none, readOkA := false, readOkB := false, vendorKeys := [], failed := 0, fuses := [], frcCode := 0, lrcCode := 0
    moscCode := 0, vsysMv := 3300, testHigh := false }
theorem test_meets_cold_start :
    let s : State := { State.reset with life := .waiting 1 }
    s.life = .waiting 1 ∧ s.vsysUp board.vsysMv = true ∧ board.testHigh = false ∧ (s.bootOf board).slot = none := by decide

/-! ## Gutter -/

theorem test_meets_permits : (boosted 0).bitOf .gutStat 2 = true ∧ (boosted 0).tPermit .meas = 3000 ∧
    (boosted 0).tPermit .xmit = 3600 ∧ (boosted 0).bitOf .gutStat (permitBit .xmit) = false ∧
    (boosted 0).sourceActs (permitSource .xmit).val = false ∧
    (regs [(.gutStat, 7)] State.reset).bitOf .gutStat (permitBit .meas) = true ∧ 2949 + 50 < (boosted 0).tPermit .meas := by
  decide
theorem test_meets_dusk :
    let s : State := { regs [(.supStat, 2), (.gutStat, 4)] State.reset with gutter := { Gutter.reset with duskArmed := true } }
    s.up = true ∧ s.bitOf .gutStat 2 = true ∧ s.vinOk = false ∧ s.tDusk = 2800 ∧ s.power.gstate ≠ .sleep ∧
      s.power.gstate ≠ .deep := by decide
theorem test_meets_gutter_start : State.reset.bitOf .gutStat 2 = false ∧ 2999 < thrMv (bitsOf (Reg.reset .gutThr) 23 18) ∧
    (boosted 1499).bitOf .gutStat 2 = true ∧ State.reset.vbatMv < 2000 ∧
    2000 ≤ { State.reset with vbatMv := 2000 }.vbatMv := by decide
theorem test_meets_thresholds :
    (regs [(.gutStat, 4), (.gutCfg, 2)] State.reset).bitOf .gutCfg 1 = true ∧
    (regs [(.gutStat, 4), (.gutCfg, 2)] State.reset).bitOf .gutCfg 2 = false ∧
    ((boosted 2000).deviceAccess 0).admits 0 .gutThr 0x28718406 ∧ ((boosted 2000).deviceAccess 0).admits 0 .gutThr 0x28710406 ∧
    bitsOf 0x28718406 5 0 < bitsOf 0x28718406 11 6 ∧ bitsOf 0x28718406 11 6 < bitsOf 0x28718406 17 12 ∧
    bitsOf 0x28718406 17 12 < bitsOf 0x28718406 23 18 ∧ bitsOf 0x28718406 23 18 ≤ bitsOf 0x28718406 29 24 ∧
    bitsOf 0x28710406 17 12 ≤ bitsOf 0x28710406 11 6 ∧ (boosted 2000).fieldOf .gutStat 1 0 = 0 ∧
    (boosted 2000).vstMv < thrMv (bitsOf 0x28718406 23 18) ∧ (boosted 2000).vinOk = true ∧
    { Gutter.reset with duskArmed := true }.duskArmed = true ∧ (boosted 2000).bitOf .gutStat 5 = false := by
  refine ⟨by decide, by decide, ?_, ?_, by decide⟩ <;> (unfold State.admits; decide)
theorem test_meets_seeds :
    let s : State := { regs [(.supStat, 2)] State.reset with
      vbatMv := 2100, gutter := { Gutter.reset with island := { SeedIsland.reset with autoSeed := true }, seeds := [1, 2] } }
    s.vinOk = false ∧ 1900 + 50 * s.gutter.island.target.toNat ≤ 2100 ∧ s.gutter.seedAt = none ∧ s.gutter.seeds.length < 3 ∧
      (serving 7 s).serviceBegins 0 0x07 = true ∧ s.vstMv < 1800 + 50 * s.fieldOf .gutSeed 4 0 ∧
      1800 + 50 * s.fieldOf .gutSeed 4 0 + 100 ≤ s.vbatMv ∧ State.reset.bitOf .gutStat 9 = false ∧
      (regs [(.gutStat, 0x200)] State.reset).bitOf .gutStat 9 = true ∧
      { s with gutter := { s.gutter with seedAt := some 0 } }.gutter.seedAt.isSome = true := by decide

/-- The refusals of SEED_STORE (R48): the target reached, no cell, three seeds; a seed that has run for 60 s. -/
theorem test_meets_seed_refusals :
    let s := serving 7 State.reset
    let target := 1800 + 50 * s.fieldOf .gutSeed 4 0
    s.gutter.seedAt = none ∧ s.vstMv < target ∧ s.vbatMv < 2000 ∧ target ≤ { s with vstMv := 4000 }.vstMv ∧
      2000 ≤ { s with vbatMv := 3000 }.vbatMv ∧ target + 100 ≤ { s with vbatMv := 3000 }.vbatMv ∧
      3 ≤ { s.gutter with seeds := [1, 2, 3] }.seeds.length ∧
      { State.reset with now := 60000000 }.now = 0 + 60000000 ∧ State.reset.vinOk = true := by decide
theorem test_meets_darkness :
    (regs [(.supStat, 2), (.gutCfg, 1)] State.reset).bitOf .gutCfg 0 = true ∧
    (regs [(.supStat, 2), (.gutCfg, 1)] State.reset).vinOk = false ∧ State.reset.tShelter = 2400 ∧ State.reset.tDie = 1900 ∧
    State.reset.bitOf .gutCfg 0 = false ∧ State.reset.life = .up ∧ State.reset.tPermit .meas ≤ 3000 ∧
    (regs [(.supStat, 3)] State.reset).vinOk = false ∧ (regs [(.supStat, 3)] State.reset).fieldOf .supStat 1 0 ≠ 2 := by decide

/-! ## Clocks -/

theorem test_meets_qualification :
    let s : State := { regs [(.clkCfg, 3), (.clkStat, 0xE), (.clkExtref, 0x461A8)] State.reset with
      clk := { Clocks.reset with xt := .attempt 2, ext := .qualified, frc := .retryWait } }
    s.qualRuns .xt32 = true ∧ s.qualPhase .xt32 = .attempt 2 ∧ s.supply.vcoreDef = false ∧ s.qualRuns .extref = true ∧
      s.qualPhase .extref = .qualified ∧ s.domOn dOSCF = true ∧
      (let q := s.qualWindow .xt32
       let c := q.n * q.fTgt / q.fRef
       (((c : Int) * q.fRef - (q.n : Int) * q.fTgt).natAbs * 400 ≤ s.qualTol .xt32 * (q.n * q.fTgt))) ∧
      (let q := s.qualWindow .extref
       2 * s.qualTol .extref * (q.n * q.fTgt) < (((0 : Nat) : Int) * q.fRef - (q.n : Int) * q.fTgt).natAbs * 400) := by decide

/-- FRC qualifies for the first time after a cold start with VCORE_DEF. -/
theorem test_meets_default_request :
    let s : State := { regs [(.supCfg, 0x80), (.supAvsCfg, 0x10000)] State.reset with
      clk := { Clocks.reset with frc := .attempt 0 }, supply := { Supply.reset with vcoreDef := true } }
    let q := s.qualWindow .frc
    let count := q.n * q.fTgt / q.fRef
    s.domOn dOSCF = true ∧ s.clk.frc = .attempt 0 ∧ s.supply.vcoreDef = true ∧ s.tokenUnasked ∧ s.bitOf .supCfg 7 = true ∧
      s.vinOk = true ∧ s.bitOf .supAvsCfg 16 = true ∧ s.bitOf .supStat 9 = false ∧
      ((count : Int) * q.fRef - (q.n : Int) * q.fTgt).natAbs * 400 ≤ s.qualTol .frc * (q.n * q.fTgt) := by
  refine ⟨by decide, by decide, by decide, ?_, by decide⟩
  unfold State.tokenUnasked; decide
theorem test_meets_trims :
    (State.reset.deviceAccess 0).admits 0 .clkCfg 1 ∧ (State.reset.deviceAccess 0).admits 0 .clkCfg 2 ∧
    State.reset.bitOf .clkCfg 0 = false ∧
    (regs [(.clkStat, 0x1E), (.clkFrcTrim, 0x1001)] State.reset).trimAct ≠ 0 ∧
    (regs [(.clkFrcTrim, 0x1001)] State.reset).fieldOf .clkFrcTrim 12 4 = 256 ∧
    (State.reset.deviceAccess 0).admits 0 .clkFrcTrim 1 ∧ (regs [(.clkTrims, 0x8000)] State.reset).fieldOf .clkTrims 15 8 = 128 := by
  refine ⟨?_, ?_, by decide, by decide, by decide, ?_, by decide⟩ <;> (unfold State.admits; decide)
theorem test_meets_gates :
    ((regs [(.clkGate, 0)] State.reset).deviceAccess 0).admits 0 .clkGate 0x2000 ∧
    (clocked.deviceAccess 0).admits 0 .clkGate 0x7FFF ∧ (∀ p c, ¬ clocked.blocks [] p c) := by
  refine ⟨?_, ?_, fun p c h => by cases h.1⟩ <;> (unfold State.admits; decide)

/-- Gate 1 with PCLK timers below it, one of which runs. -/
theorem test_meets_gate_refusal : ∃ p, (regs [(.tmrFCtl 0, 8)] clocked).blocksFirst [p] p 11 := by
  refine ⟨(gateAncestors 11).headD 0, by unfold State.blocks; decide, ?_, ?_⟩
  · intro q d h
    exact Nat.le_of_eq (List.mem_singleton.mp h.1).symm
  · have lower : ∀ d : Fin 11, ¬ (regs [(.tmrFCtl 0, 8)] clocked).blocks [(gateAncestors 11).headD 0] ((gateAncestors 11).headD 0) d.val := by
      unfold State.blocks; decide
    intro d h
    exact Nat.le_of_not_lt (fun hd => lower ⟨d, hd⟩ h)
theorem test_meets_rtc :
    let s := regs [(.tmrRtcAlmCtl, 1)] State.reset
    (State.reset.deviceAccess 0).admits 0 .tmrRtcCtl 0x9E01 ∧ State.reset.clk.rtcEdge = true ∧
    { Clocks.reset with rtcEdge := false }.rtcEdge = false ∧ { Clocks.reset with rtcSetPend := some 5 }.rtcSetPend = some 5 ∧
    s.bitOf .tmrRtcAlmCtl 0 = true ∧
    (s.reg .tmrRtcAlmSec).toNat * 65536 + s.fieldOf .tmrRtcAlmFrac 15 0 ≤ (s.reg .tmrRtcSec).toNat * 65536 + s.clk.rtcFrac.toNat ∧
    s.sourceActs 9 = false ∧ (regs [(.pwrWakeEn, 0x200)] s).sourceActs 9 = true := by
  refine ⟨?_, by decide, by decide, by decide, by decide, by decide, by decide, by decide⟩
  unfold State.admits; decide
theorem test_meets_timers :
    (clocked.deviceAccess 0).admits 0 (pclkTimer 0).ctl 5 ∧ (clocked.deviceAccess 0).admits 0 (pclkTimer 0).ctl 2 ∧
    ({ core false with cfg := { cfg false with desc := vmod (cfg false).desc (0 : Gable) (fun d => { d with wakes := 0xFFFF }) } }.deviceAccess
      0).admits 0 (moscTimer 3).ctl 1 ∧
    (regs [(.tmrSCtl 3, 8), (.tmrSCount 3, 1)] State.reset).bitOf (.tmrSCtl 3) 3 = true ∧
    (regs [(.tmrSCtl 3, 8), (.tmrSCount 3, 1)] State.reset).sourceActs 13 = false ∧
    (regs [(.tmrFCtl 0, 8), (.tmrFCount 0, 1)] clocked).bitOf (.tmrFCtl 0) 3 = true ∧ clocked.gateRuns 11 = true := by
  refine ⟨?_, ?_, ?_, by decide⟩ <;> (unfold State.admits; decide)
theorem test_meets_adc :
    (clocked.deviceAccess 0).admits 0 (.snsConv 0) 0x1C ∧ bitsOf 0x1C 3 0 = 12 ∧ bitsOf 0x1C 7 5 = 0 ∧
    clocked.clk.adc[0] = none ∧ clocked.gateRuns 7 = true ∧ clocked.domOn dSENS = true := by
  refine ⟨?_, by decide⟩
  unfold State.admits; decide

/-- A conversion of VIN at 48 V: 48 of 76.8 V is 2560 of 4096. -/
theorem test_meets_conversion :
    let s : State := { clocked with
      clk := { Clocks.reset with adcNow := some 0, adc := Clocks.reset.adc.set 0 (some { ch := 8, avg := 0 }) } }
    let x : AdcSample := { input := 0, err := 0 }
    s.clk.adcNow = some 0 ∧ s.clk.adc[0] = some { ch := 8, avg := 0 } ∧ [x].length = 2 ^ (0 : BitVec 3).toNat ∧
      x.err.natAbs ≤ adcErrMax 8 (s.adcIdeal 8 0) ∧ s.adcCode 8 x = 2560 ∧ [s.adcCode 8 x].sum % 1 = 0 := by decide

/-! ## Domains, wakes, services -/

/-- A core domain about to lose its supply, then bank 3 to be zeroed. -/
def switching (l : List Switch) : State :=
  { regs [(.bnkCfg, 0xFFFF)] State.reset with
    power := { State.reset.power with switching := l, dom := vset State.reset.power.dom (dBK 3) .off }
    ridge := { Ridge.reset with ctx := { RidgeCtx.reset with phase := .atDispatch } } }

theorem test_meets_switches :
    let s := switching [⟨dCORE, .ret⟩]
    let z := switching [⟨dBK 3, .on⟩]
    (s.up = true ∧ s.power.paused = false ∧ s.switchWaits ⟨dCORE, .ret⟩ = false ∧ s.tokenUnasked ∧ s.linkUnused ∧
      s.braced = false ∧ s.storm = false ∧ s.supply.stormPrior = none ∧ s.ridge.ctx.phase = .atDispatch) ∧
    z.up = true ∧ z.zeroing = some 3 ∧ z.braced = false ∧ z.linkUnused := by
  refine ⟨⟨by decide, by decide, by decide, ?_, ?_, by decide, by decide, by decide, by decide⟩, by decide, by decide,
    by decide, ?_⟩
  · unfold State.tokenUnasked; decide
  · unfold State.linkUnused; decide
  · unfold State.linkUnused; decide
theorem test_meets_resets : (State.reset.deviceAccess 0).admits 0 .pwrReset 0xA501 ∧ State.reset.supply.avs = none ∧
    State.reset.tokenUnasked ∧ (State.reset.deviceAccess 0).admits 0 .pwrResCtl 3 ∧
    ((core false).deviceAccess 5).admits 5 .pwrResCtl 1 ∧
    { Residency.reset with cnt := vset Residency.reset.cnt (76 : Fin 77) (BitVec.allOnes 48) }.cnt[76] = BitVec.allOnes 48 ∧
    { Residency.reset with passed := 1 }.passed.getLsbD 0 = true := by
  refine ⟨?_, by decide, ?_, ?_, ?_, by decide⟩ <;> first | (unfold State.admits; decide) | (unfold State.tokenUnasked; decide)
theorem test_meets_pads : (State.reset.deviceAccess 0).admits 0 .pwrPadRelease 0xF ∧
    (serving 5 State.reset).serviceBegins 0 0x05 = true ∧
    (∀ p ∈ groupsOf 15, (serving 5 State.reset).cfg.groupOwner p = 0) ∧
    { serving 5 State.reset with ridge := { (serving 5 State.reset).ridge with
        ctx := { (serving 5 State.reset).ridge.ctx with phase := .native } } }.serviceWaits 0 0x05 = true ∧
    State.reset.padsInput = false := by
  refine ⟨?_, by decide, by decide, by decide, by decide⟩
  unfold State.admits; decide

/-- Every wake source is G0's, enabled. -/
def waking (g : GState) : State :=
  { regs [(.pwrWakeEn, 0xFFFF), (.gabEvtEnLo 0, 0xFFFF), (.pwrWakeStorm, 0x00010202)] State.reset with
    cfg := { Cfg.reset with desc := vset Cfg.reset.desc (0 : Gable) { gab false with wakes := 0xFFFF } }
    power := { Power.reset with gstate := g, greq := Vector.replicate 8 g, wakeCount := Vector.replicate 16 1 } }

theorem test_meets_wakes :
    State.reset.sourceActs 3 = false ∧ (waking .run).sourceActs 3 = true ∧ (waking .run).cfg.wakeOwner 3 = some 0 ∧
    (waking .run).isWake 0 3 = false ∧ (waking .sleep).isWake 0 3 = true ∧ (waking .sleep).power.wakeCount[3] ≠ 0 ∧
    (waking .sleep).now < (waking .sleep).power.wakeOpen[3] + (waking .sleep).stormWindow ∧
    (waking .sleep).power.wakeCount[3] < (waking .sleep).fieldOf .pwrWakeStorm 7 0 ∧
    (regs [(.pwrWakeStorm, 0x00010001)] (waking .sleep)).fieldOf .pwrWakeStorm 7 0 ≤ 1 ∧
    ((waking .run).deviceAccess 0).admits 0 .pwrWakeMasked 0xFFFF ∧
    (∀ n : Fin 16, n.val ≠ 8 → (waking .run).levelAsserted n.val = false) := by
  refine ⟨by decide, by decide, by decide, by decide, by decide, by decide, by decide, by decide, by decide, ?_, by decide⟩
  unfold State.admits; decide

/-- Pin WK7 has been sampled low FILT + 2 times after a high level; port 1 sleeps, and port 0 is trained while the warden
sleeps. -/
theorem test_meets_wake_pins_and_ports :
    let s : State := { State.reset with power := { Power.reset with
      wkLevel := 0x80, wkPin := 0, wkRun := Power.reset.wkRun.set 7 (State.reset.fieldOf (.pwrWkf 7) 7 0 + 2) } }
    let ports := vset (vset Purlin.reset.ports (0 : Port) { PortState.reset with link := .trained }) (1 : Port)
      { PortState.reset with link := .asleep }
    let u : State := { regs [(.purPcfg 1, 1), (.purPcfg 0, 1)] State.reset with
      power := { Power.reset with gstate := .sleep }, purlin := { Purlin.reset with ports := ports } }
    s.power.wkLevel.getLsbD 7 ≠ false ∧ s.power.wkPin.getLsbD 7 = false ∧
      s.fieldOf (.pwrWkf 7) 7 0 + 2 ≤ s.power.wkRun[7] ∧ s.sourceActs 7 = false ∧
      State.reset.power.wkRun[7] < State.reset.fieldOf (.pwrWkf 7) 7 0 + 2 ∧
      u.up = true ∧ u.bitOf (.purPcfg 1) 0 = true ∧ u.power.dom[dLINK.val] ≠ .off ∧ (u.port 1).link = .asleep ∧
      (u.port 0).link = .trained ∧ u.running = false ∧ State.reset.bitOf (.purPcfg 0) 0 = false := by decide
theorem test_meets_edges : (∃ w, (regs [(.pwrWkf 7, w)] State.reset).edgeSelected 7 true = true) ∧
    { Power.reset with tampHigh := true }.tampHigh = true ∧ State.reset.life ≠ .lockout ∧ State.reset.life ≠ .waiting 4 ∧
    { Power.reset with offAt := some 3, holdAt := some 3 }.offAt = some 3 := by
  exact ⟨⟨0, by decide⟩, by decide⟩

theorem test_meets_services :
    (serving 1 State.reset).serviceBegins 0 0x01 = true ∧ (serving 1 State.reset).domainScheme = false ∧
    bitsOf ((regs [(.rdgArg0 0, 4)] (serving 1 State.reset)).reg (.rdgArg0 0)) 7 0 = 4 ∧
    (serving 2 State.reset).serviceBegins 0 0x02 = true ∧
    (regs [(.rdgArg0 0, 1)] (serving 2 State.reset)).domArgFails 0 ((regs [(.rdgArg0 0, 1)] (serving 2 State.reset)).domArg 0) =
      some E_RANGE ∧
    (serving 2 State.reset).domArgFails 0 ((serving 2 State.reset).domArg 0) = none ∧
    (serving 3 State.reset).serviceBegins 0 0x03 = true ∧ State.reset.domOn dCACHE = true := by decide

/-- Gable 0 has a region of two pages at page 64. -/
def ckpt : State :=
  { regs [(.rdgArg1 0, 16)] (serving 4 (core false)) with
    cfg := { cfg false with regions := vset Cfg.reset.regions (0 : Gable) { base := 0x40, pages := 2, cred := 0 } } }

theorem test_meets_checkpoints :
    ckpt.serviceBegins 0 0x04 = true ∧ ckpt.ckptFails 0 0 48 = none ∧ ckpt.ckptFails 0 0 49 = some E_RANGE ∧
    ckpt.ckptFails 0 2 16 = some E_ALIGN ∧ ckpt.ckptFails 0 0x20000 16 = some E_WINDOW ∧ State.reset.canonical ∧
    (∀ i : Fin 48, (ckpt.cache.lines[i.val]).bad = 0) ∧
    (List.replicate 64 (0 : Byte)).length = 64 ∧ Nonvolatile.reset.cut = false ∧
    ({ Nonvolatile.reset with worn := [2] } : Nonvolatile).usable (logOfPage 2) (Nonvolatile.reset.head (logOfPage 2)) ≠ none := by
  refine ⟨by decide, by decide, by decide, by decide, by decide, ?_, by decide, by decide, by decide, by decide⟩
  unfold State.canonical; decide
theorem test_meets_plate_update :
    (serving 8 (core false)).serviceBegins 0 0x08 = true ∧ (serving 8 (core false)).updateFails 0 0 0x7F [] = some E_RANGE ∧
    (serving 8 (core false)).updateFails 0 0 0x80 [] = some E_VERSION ∧
    { Nonvolatile.reset with upd := some { slotB := true, image := [] } }.upd ≠ none ∧ clocked.gateRuns 9 = true ∧
    256 ≤ (List.replicate 256 (0 : Byte)).length := by
  refine ⟨by decide, by decide, by decide, by decide, by decide, Nat.le_of_eq List.length_replicate.symm⟩

/-! ## Ridge -/

/-- Ridge is about to execute a word at address 16. -/
def atWord (p : RidgePhase) (w : BitVec 128) : State :=
  { State.reset with ridge := { Ridge.reset with
      vendor := [(16, w)], ctx := { RidgeCtx.reset with addr := 16, routine := .trigger 8, phase := p } } }

/-- A word with one field (Table RDG-2). -/
def field (lo v : Nat) : BitVec 128 := BitVec.ofNat 128 (v * 2 ^ lo)

theorem test_meets_words :
    quietWord (atWord .boundary 0).ridgeWordAt ∧ rdgNxt (atWord .boundary (field 124 6)).ridgeWordAt = 6 ∧
    rdgVreq (atWord .token (field 28 0x16E)).ridgeWordAt = true ∧ rdgVcode (field 28 0x16E) = 0x6E ∧
    (atWord .boundary 0).power.target = none ∧ (atWord .boundary 0).up = true ∧ (atWord .boundary 0).braced = false ∧
    rdgCnt (field 4 16) = 16 ∧ rdgTmr (field 16 0xFFF) = 0xFFF ∧ rdgPadh (field 53 0xAA) = 0xAA ∧
    rdgClkg (field 37 1) ≠ 0 ∧ rdgDom (field 61 1) ≠ 0 ∧ domEntry (rdgDom (field 61 1)) dOSCF = none ∧
    rdgEvt (field 10 63) = 63 := by
  refine ⟨by unfold quietWord; decide, ?_⟩
  decide
theorem test_meets_word_ends :
    (atWord (.waiting (some 0)) (field 124 6)).ridgeCond (rdgCond (field 124 6)) =
      (atWord (.waiting none) (field 124 6)).ridgeCond 0 ∧
    State.reset.vcoreDone = true ∧ (atWord .vreq 0).supply.avs = none ∧ (atWord .vreq 0).power.target = none ∧
    rdgNxt (atWord .vreq 0).ridgeWordAt ≠ 6 ∧ (atWord (.delay 0) 0).ridge.ctx.phase = .delay 0 ∧
    (serving 6 State.reset).ridge.ctx.routine = .service 0 6 ∧ State.reset.supply.avsSetWait = none := by decide

/-- A word that asks for 0x6E of the external regulator, with the token free and FRC qualified, and without. -/
theorem test_meets_word_requests :
    let w := field 28 0x16E
    let s : State := { atWord .boundary w with regs := (regs [(.supAvsCfg, 0x10000)] clocked).regs }
    s.up = true ∧ s.braced = false ∧ rdgVreq s.ridgeWordAt = true ∧ rdgVcode s.ridgeWordAt ≤ 0x6E ∧
      s.bitOf .supAvsCfg 16 = true ∧ s.vinOk = true ∧ s.domOn dOSCF = true ∧ s.bitOf .supStat 9 = false ∧ s.supply.avs = none ∧
      s.bitOf .clkStat 3 = true ∧ State.reset.bitOf .clkStat 3 = false ∧ (atWord .token w).ridge.ctx.phase = .token := by decide
theorem test_meets_dispatch :
    (atWord .atDispatch 0).ridge.ctx.phase = .atDispatch ∧ State.reset.rdgCommitState ≠ 2 ∧ State.reset.effective = .run ∧
    (waking .sleep).effective = .sleep ∧ (waking .run).effective = (waking .run).power.gstate ∧
    State.reset.nextWork = none ∧ (regs [(.rdgCommit, 0x20000)] State.reset).rdgCommitState = 2 ∧
    (regs [(.rdgCommit, 0x10000)] State.reset).rdgCommitState = 1 ∧
    (State.reset.deviceAccess 0).admits 0 .rdgCommit 0x0A005C01 ∧ State.reset.power.levelDue = 0 ∧
    rdgFirstBad [(384, field 124 15)] 384 1 ≠ none ∧ (entryState 10).isSome = true ∧ rdgNxt (field 124 7) = 7 ∧
    State.reset.ridge.stormOut = false ∧ State.reset.ridge.commitAt + 1000 * 0 ≤ State.reset.now := by
  refine ⟨by decide, by decide, by decide, by decide, by decide, by decide, by decide, by decide, ?_, by decide⟩
  unfold State.admits; decide

/-! ## Scheduling, banks, cache -/

/-- Gable 0 has a boost of its own. -/
def boosting : State :=
  { core false with
    cfg := { cfg false with desc := vmod (cfg false).desc (0 : Gable) (fun d => { d with boostMax := 50 }) }
    gabs := vmod (core false).gabs (0 : Gable) (fun x => { x with boost := some { order := 1, ran := 0 } }) }

theorem test_meets_schedule :
    boosting.runnable 0 = true ∧ boosting.boostRuns 0 = true ∧ (core false).boostRuns 0 = false ∧
    ((core false).gab 0).remain ≠ 0 ∧ (∀ h : Gable, ((core false).descOf h).urg < 4) ∧ (core false).coreRuns = true ∧
    (core false).pickGable = some 0 ∧ State.reset.pickGable = none ∧ (core false).core.running ≠ none ∧
    (core false).thatch.tell[0] = false ∧
    { SchedFrame.reset with tick := 1000 }.tick = 1000 ∧ { GabState.reset with remain := 0, turn := 0 }.turn = 0 := by decide
theorem test_meets_restart :
    ((core false).deviceAccess 0).admits 0 (.gabCtl 0) 0x3A01 ∧ boosting.thatch.tell = Vector.replicate 8 false ∧
    (boosting.session 0 0).elim true (fun x => x.pending.isNone) = true ∧
    { GabState.reset with restartPend := true, stopAt := 0 }.restartPend = true ∧
    (boosting.gab 0).boost = some { order := 1, ran := 0 } ∧ 0 < (boosting.descOf 0).boostMax ∧
    ({ boosting with gabs := vmod boosting.gabs (0 : Gable) (fun x => { x with boost := some { order := 1, ran := 50 } }) }.gab
      0).boost = some { order := 1, ran := 50 } ∧ (boosting.descOf 0).boostMax ≤ 50 := by
  refine ⟨?_, by decide⟩
  unfold State.admits; decide
theorem test_meets_banks :
    (∃ w, grantOf Banks.reset.rr[0] (State.bankWaiters { core false with
        core := { (core false).core with sb := [SbEntry.mk 0 0x104 .word 1 .plain none] } } 0) = some w ∧ w.req = .core) ∧
    (regs [(.bnkScrub, 1)] State.reset).bitOf .bnkScrub 0 = true ∧ (State.reset.deviceAccess 0).admits 0 .bnkBist 0x1F ∧
    (core false).cfg.bankOwner 0 ≠ none ∧ State.reset.cfg.bankOwner 15 = none ∧
    { Banks.reset with wb := [0x4000] }.wb.find? (fun x => inBank 1 (8 * x)) = some 0x4000 ∧
    { State.reset with banks := { Banks.reset with wb := [0x4000] } }.bankOn 1 = true ∧
    (core false).cfg.thtBanks.getLsbD 15 = false ∧ State.reset.bankOn 15 = true ∧
    { Banks.reset with bist := some 15 }.bist = some 15 ∧ Memory.wf Banks.reset.mem = true := by
  refine ⟨⟨_, rfl, by decide⟩, by decide, ?_, by decide⟩
  unfold State.admits; decide
theorem test_meets_windows :
    (∃ v, (State.reset.deviceAccess 0).admits 0 (.bnkCwin 0) v ∧ 0x200000 < 8 * bitsOf v 17 0 + 8 * bitsOf v 31 18) ∧
    (State.reset.deviceAccess 0).admits 0 (.bnkCwin 0) 0 := by
  refine ⟨⟨0x8003FFFF, ?_, by decide⟩, ?_⟩ <;> (unfold State.admits; decide)
theorem test_meets_lines :
    { Cache.reset with transfers := [⟨8, 0, true⟩] }.transfers.find? Transfer.started = some ⟨8, 0, true⟩ ∧
    { Cache.reset with transfers := [⟨8, 0, false⟩] }.transfers.find? Transfer.started = none ∧
    ((core false).deviceAccess 0).admits 0 (.lcOp 0) (lcOpWord 0x1FFE0 3) ∧ (core false).cfg.may 0 .r 0x1FFE0 = true ∧
    (core false).cfg.may 0 .r 0x20000 = false ∧
    { cfg false with desc := vmod (cfg false).desc (0 : Gable) (fun d => { d with lines := 4 }) : Cfg }.linesOf 0 ≠ [] := by
  refine ⟨by decide, by decide, ?_, by decide⟩
  unfold State.admits; decide


/-! ## Thatch -/

/-- Gables 0 and 1, each with a quota of 4 in every pool. -/
def twoGables : Vector Desc 8 :=
  vset (vset Cfg.reset.desc (0 : Gable) { gab false with quota := Vector.replicate 4 4 }) (1 : Gable)
    { Desc.absent with present := true, quota := Vector.replicate 4 4 }

/-- Pool 0: 16 buffers of 64 bytes at 0x100, with a quota of 4 for gables 0 and 1 and, as LINK_POOL, for the engine. -/
def pool (owned : Bool) (head : Option Nat) : State :=
  { regs [(.clkStat, 0xE), (.clkGate, 0xFFFF), (.thtPool0 0, 0x100), (.thtPool1 0, if owned then 0x560010 else 0x460010), (.thtCfg, 0x408), (.thtLinkq 0, 4)]
      State.reset with
    cfg := { Cfg.reset with desc := twoGables }
    thatch := { Thatch.reset with head := vset Thatch.reset.head (0 : Fin 4) head } }

/-- The pool with the buffer at 0x140 allocated to a holder. -/
def held (owned : Bool) (h : Holder) (refcnt : Nat) : State :=
  ((pool owned none).writeHeader 0x140 (if owned then 0 else refcnt) 0 h.val 0xA5).setCharge h 0 1

/-- Holder `h` waits for `bytes` bytes. -/
def waitsFor (s : State) (h : Holder) (bytes : Nat) : State :=
  { s with thatch := { s.thatch with waits := vset s.thatch.waits h (some { age := 0, bytes := bytes, left := 9 }) } }

/-- Gable 0 has written THT_ARG. -/
def asked (s : State) (arg : Word) : State := ((s.deviceAccess 0).setReg (.thtArg 0) arg).deviceAccess 0

/-- What a check of a buffer finds. -/
def checks (s : State) (h : Holder) (op : BufOp) : Option Byte := ((asked s 0x140).checkHandle h 0x140 op).1

theorem test_meets_allocations :
    (pool true (some 0x100)).thtAsks 0 16 (thtOpWord 1 0) (asked (pool true (some 0x100)) 16) ∧
    (pool true none).thtAsks 0 16 (thtOpWord 1 8) (asked (pool true none) 16) := by
  refine ⟨⟨?_, rfl, ?_⟩, ⟨?_, rfl, ?_⟩⟩ <;> (unfold State.admits; decide)
theorem test_meets_allocation_cases :
    let s := asked (pool true (some 0x100)) 16
    let e := asked (pool true none) 16
    e.thtAny = true ∧ ((waitsFor e 0 8).thatch.waits[0]).isSome = true ∧ e.candidates 0 57 = [] ∧
    e.candidates 0 56 = [0] ∧ e.chargeOf 0 0 < e.quotaOf 0 0 ∧
    (e.setCharge 0 0 4).quotaOf 0 0 ≤ (e.setCharge 0 0 4).chargeOf 0 0 ∧
    e.thatch.head[0] = none ∧ e.thatch.waits[0] = none ∧ s.candidates 0 16 = [0] ∧
    ([0] : List (Fin 4)).find? (fun q => s.room 0 q && (((s.thatch.head[q.val]).isSome))) = some 0 ∧
    s.cache.holder 8 = none ∧ Memory.wf s.banks.mem = true := by decide
theorem test_meets_waits : ((pool true none).deviceAccess 0).admits 0 (.thtOp 0) (thtOpWord 5 0) ∧
    ((pool true none).deviceAccess 0).admits 0 (.thtWait 0) (bitMask 31) ∧ (pool true none).domOn dPOOL = true ∧
    (regs [(.thtWait 0, 2)] (pool true none)).fieldOf (.thtWait 0) 1 0 = 2 ∧
    { age := 0, bytes := 8, left := 0 : ThtWait }.left = 0 := by
  refine ⟨?_, ?_, by decide⟩ <;> (unfold State.admits; decide)

/-- Gable 0 frees its buffer while gable 1 waits. -/
def passing : State := waitsFor (held true 0 0) 1 8

theorem test_meets_return_to_a_waiter :
    let u := asked passing 0x140
    passing.thtAsks 0 0x140 (thtOpWord 2 0) u ∧ u.cache.holder 10 = none ∧ Memory.wf u.banks.mem = true ∧
    u.checkHandle 0 0x140 .free = (none, 0, (u.readHeader 0x140).1, (u.readHeader 0x140).2) ∧
    (u.readHeader 0x140).1.holder = 0 ∧ u.thatch.head[0] = none ∧
    u.poolOwned 0 = true ∧ u.candidates 1 8 = [0] ∧ u.chargeOf 1 0 < u.quotaOf 1 0 ∧
    u.thatch.waits[1] = some { age := 0, bytes := 8, left := 9 } ∧ (∀ y : Holder, y ≠ 1 → u.thatch.waits[y.val] = none) := by
  refine ⟨⟨?_, rfl, ?_⟩, by decide⟩ <;> (unfold State.admits; decide)
theorem test_meets_buffer_operations :
    (held true 0 0).thtAsks 0 0x140 (thtOpWord 4 0x10) (asked (held true 0 0) 0x140) ∧
    (held false 0 1).thtAsks 0 0x140 (thtOpWord 3 0) (asked (held false 0 1) 0x140) := by
  refine ⟨⟨?_, rfl, ?_⟩, ⟨?_, rfl, ?_⟩⟩ <;> (unfold State.admits; decide)
theorem test_meets_buffer_checks :
    checks (held true 0 0) 0 .free = none ∧ checks (held false 0 2) 0 .free = none ∧ checks (held false 0 1) 0 .retain = none ∧
    checks (held true 0 0) 0 (.transfer 0) = none ∧ checks (held true 0 0) 0 (.transfer 1) = none ∧
    checks (held false 0 255) 0 .retain = some E_RANGE ∧ checks (held true 1 0) 0 .free = some E_NOT_OWNER ∧
    checks ((held true 0 0).setCharge 1 0 4) 0 (.transfer 1) = some E_QUOTA ∧ checks (pool true none) 0 .free = some E_RANGE ∧
    (held false 0 2).poolOwned 0 = false ∧ ((held false 0 2).checkHandle 0 0x140 .free).2.2.1.low = 2 ∧
    (held true 0 0).thatch.waits = Vector.replicate 9 none ∧ ((held true 0 0).descOf 0).strict = false := by decide
theorem test_meets_aperture :
    let u := (regs [(.thtSel 0, 0x140)] (held true 0 0)).deviceAccess 0
    ((held true 0 0).deviceAccess 0).admits 0 (.thtSel 0) 0x140 ∧ checks (held true 0 0) 0 .select = none ∧
    checks (pool true none) 0 .select = some E_RANGE ∧ u.up = true ∧ (u.checkHandle 0 0x140 .select).1 = none ∧
    u.reachable .pool = true ∧ u.poolOf 0x140 = some 0 ∧ u.poolPayload 0 = 56 ∧ u.cache.holder 10 = none ∧
    u.banks.eccAt (wordOf 0x148) ≠ some .uncorrectable ∧ ((pool true none).deviceAccess 0).admits 0 .thtStatCtl 1 := by
  refine ⟨?_, by decide, by decide, by decide, by decide, by decide, by decide, by decide, by decide, by decide, ?_⟩ <;>
    (unfold State.admits; decide)

/-- The core may reach the aperture with a misaligned offset, and with POOL OFF. -/
theorem test_meets_aperture_exceptions :
    let s : State := { core false with power := { Power.reset with dom := vset Power.reset.dom dPOOL .off } }
    s.up = true ∧ s.coreRuns = true ∧ s.core.running = some 0 ∧ s.bitOf (.gabTstat 0) 0 = false ∧ s.reachable .pool = false ∧
      State.reset.core.running ≠ some 0 := by decide
theorem test_meets_engine_buffers : checks (held true 8 0) 8 .free = none ∧ checks (held true 8 0) 8 (.transfer 0) = none ∧
    ((held true 8 0).checkHandle 8 0x140 .free).2.2.1.holder = 8 ∧ (held true 8 0).up = true ∧
    (held true 8 0).domOn dPOOL = true := by decide

/-! ## Burin -/

/-- Engine 0 of gable 0 stands at a word. -/
def engine (w : BitVec 128) (f : Engine → Engine) : State :=
  { clocked with
    cfg := { cfg false with desc := vset (cfg false).desc (0 : Gable) { gab false with engines := 1 } }
    burin := { Burin.reset with
      live := [(512, w)], eng := vmod Burin.reset.eng (0 : EngineNo) (fun e => f { e with st := .running, pc := 512 }) } }

theorem test_meets_engine_words :
    (engine 0 id).engineUp 0 ∧ (engine 0 id).assistUnasked ∧ burPlain ((engine 0 id).burWordOf 0) ∧ burNxt (field 108 8) = 8 ∧
    burNxt (field 108 6) = 6 ∧ burDelay (field 45 5) ≠ 0 ∧ ((engine 0 id).engine 0).phase = .start ∧
    ((engine 0 id).engine 0).st = .running := by
  refine ⟨by unfold State.engineUp; decide, by unfold State.assistUnasked; decide, by unfold burPlain; decide, by decide⟩

/-- An engine's HALT word is the release point that PAD_RELEASE_ASSIST waits for. -/
theorem test_meets_assist_at_a_word :
    let s := engine (field 108 7) id
    let t : State := { s with ridge := { serving 5 State.reset with ridge := { (serving 5 State.reset).ridge with
      ctx := { (serving 5 State.reset).ridge.ctx with phase := .native } } }.ridge }
    t.serviceWaits 0 0x05 = true ∧ t.engineUp 0 ∧ (t.engine 0).phase = .start ∧ (t.engine 0).st = .running ∧
      burPlain (t.burWordOf 0) ∧ burNxt (t.burWordOf 0) = 7 ∧ burDelay (t.burWordOf 0) = 0 ∧
      (t.setEngine 0 (fun e => { e with synced := true })).assistReady (groupsOf 0) = true := by
  refine ⟨by decide, by unfold State.engineUp; decide, by decide, by decide, by unfold burPlain; decide, by decide⟩

/-- A word with fields, each at its low bit (Table BUR-1). -/
def fields (l : List (Nat × Nat)) : BitVec 128 := l.foldl (fun w x => w ||| field x.1 x.2) 0

theorem test_meets_engine_data :
    burTxOp ((engine (field 37 1) id).burWordOf 0) = 1 ∧ burFifop (field 37 4) = 4 ∧ burSmode (field 61 1) = 1 ∧
    burShift (fields [(61, 1), (63, 8)]) ≤ ((engine 0 (fun e => { e with bitsOut := 8 })).engine 0).bitsOut.toNat ∧
    burSmode (fields [(61, 2), (63, 1), (69, 4)]) = 2 ∧ burSample (fields [(61, 2), (63, 1), (69, 4)]) = 4 ∧
    burCrcop (fields [(13, 1), (37, 16)]) % 4 = 1 ∧ burFifop (field 37 32) = 32 ∧ burFifop (field 37 8) = 8 ∧
    burEvt (field 7 31) = 31 ∧ (engine 0 id).cfg.engineOwner 0 = some 0 ∧ (engine 0 id).bitOf (.burCfg 0) 16 = false ∧
    ((engine 0 (fun e => { e with txf := [7] })).engine 0).txf = [7] ∧ (List.replicate 16 (0 : Word)).length = 16 ∧
    burNxt (field 45 5) = 0 := by decide
theorem test_meets_engine_commands :
    ((engine 0 id).deviceAccess 0).admits 0 (.burCtl 0) (0x02000000 ||| 1) ∧ ((engine 0 id).deviceAccess 0).admits 0 (.burCtl 0) 2 ∧
    ((engine 0 id).deviceAccess 0).admits 0 (.burCtl 0) 4 ∧ ((engine 0 id).deviceAccess 0).admits 0 (.burCtl 0) 8 ∧ ((engine 0 id).deviceAccess 0).admits 0 (.burCtl 0) 16 ∧
    ((engine 0 id).deviceAccess 0).admits 0 (.burCtl 0) 32 ∧ (State.reset.engine 0).st = .halted ∧ State.reset.domOn dBUR = true ∧
    (clocked.deviceAccess 0).admits 0 .burCommit (0x0A006B00 ||| 1) ∧ State.reset.burCommitState = 0 ∧
    (regs [(.burCommit, 0x10000)] State.reset).burCommitState = 1 ∧ (regs [(.burCommit, 0x20000)] State.reset).burCommitState = 2 ∧
    burFirstBad [(512, field 108 15)] 512 1 ≠ none := by
  refine ⟨?_, ?_, ?_, ?_, ?_, ?_, by decide, by decide, ?_, by decide⟩ <;>
    (unfold State.admits; decide)
set_option maxRecDepth 4000 in
theorem test_meets_sound_bank : burFirstBad [(1023, field 108 7)] 512 512 = none := by decide

/-- Engine 0 moves words by DMA at 0x140. -/
def dma (ctl : Word) (f : Engine → Engine) : State :=
  regs [(.burDmaCtl 0, ctl), (.burDmaTxa 0, 0x140), (.burDmaTxc 0, 2), (.burDmaRxa 0, 0x140), (.burDmaRxc 0, 1)] (engine 0 f)

theorem test_meets_fifos_and_dma :
    let s := dma 3 id
    ((engine 0 id).deviceAccess 0).admits 0 (.burTxf 0) 7 ∧ (engine 0 id).reachable .bur = true ∧ s.domOn dBUR = true ∧
    s.gateRuns 2 = true ∧ s.bitOf (.burDmaCtl 0) 0 = true ∧ s.bitOf (.burDmaCtl 0) 1 = true ∧
    s.place 0 0x140 = .bank 0x140 .plain false none ∧ s.pathOn 0x140 false = true ∧
    s.cfg.may 0 .r 0x140 = true ∧ s.cfg.may 0 .w 0x140 = true ∧
    (s.cacheRead (.dma 0) 0 0x140 4 none).2.1 = false ∧ s.dmaOn 0 .tx = true ∧ s.banks.bist = none ∧
    { s.banks with bist := some (bankOf 0x140) }.bist = some (bankOf 0x140) := by
  refine ⟨?_, by decide⟩
  unfold State.admits; decide
theorem test_meets_dma_ends :
    ((regs [(.burDmaTxc 0, 0)] (dma 3 id)).fieldOf (dmaCountReg 0 .tx) 15 0) = 0 ∧
    (regs [(.burDmaTxa 0, 2)] (dma 3 id)).dmaOn 0 .tx = true ∧
    (∃ off, (dma 3 id).place 0 0x40000000 = .register off) ∧
    (dma 3 id).place 0 0x20000 = .bank 0x20000 .plain false none ∧ (dma 3 id).cfg.may 0 .r 0x20000 = false :=
  ⟨by decide, by decide, ⟨_, rfl⟩, by decide⟩

/-! ## Ports and sessions -/

/-- Port 0 is enabled, with holder 8 present and LINKPLL locked, and stands as given. -/
def link (f : PortState → PortState) : State :=
  let s := regs [(.purPcfg 0, 1), (.thtCfg, 8), (.clkStat, 0x2E), (.clkGate, 0xFFFF)] State.reset
  { s with purlin := { s.purlin with ports := vmod s.purlin.ports (0 : Port) f } }

/-- Port 0 trains. -/
def training (f : PortState → PortState) : State := link (fun q => { f q with link := .training })

/-- Port 0 is trained, with an empty receive buffer. -/
def trained (f : PortState → PortState) : State := link (fun q => { f q with link := .trained, empty := [0x140] })

theorem test_meets_training :
    (training id).trains 0 = true ∧ ((training (fun q => { q with ts1 := 8, ts2 := 7 })).port 0).ts2 = 7 ∧
    roleRank ((training id).ownRole 0) = roleRank 0 ∧ roleRank ((training id).ownRole 0) ≠ roleRank 1 ∧
    (training id).portOn 0 = true ∧ (training id).pllRef 0 = true ∧ ((training id).deviceAccess 0).admits 0 (.purPctl 0) 1 ∧
    ((training (fun q => { q with ts2 := 16, sofs := 2 })).port 0).framing = true ∧ ((trained id).port 0).link = .trained ∧
    ((training id).port 0).ts1 < 7 := by
  refine ⟨by decide, by decide, by decide, by decide, by decide, by decide, ?_, by decide⟩
  unfold State.admits; decide
theorem test_meets_link_sleep :
    ((trained id).port 0).ctl = [] ∧ ((trained id).port 0).data = [] ∧
    { trained id with power := { (trained id).power with gstate := .deep } }.sleepDue = true ∧
    (trained id).portPending 0 = false ∧ ((link (fun q => { q with link := .asleep })).port 0).link = .asleep ∧
    (trained id).up = true ∧ (trained id).bitOf (.purPcfg 0) 0 = true ∧ (trained id).domOn dLINK = true ∧
    (trained id).power.dom[dLINK.val] ≠ .off := by decide
theorem test_meets_superframes :
    ((trained id).port 0).swap = .linked ∧ ((trained id).port 0).fresh = 0 ∧ ((trained id).port 0).sinceCred < 63 ∧
    ((trained id).port 0).regrant = false ∧ (TxFrame.slp).chars.length ≤ 700 ∧
    ((trained (fun q => { q with cumIn := 1 })).port 0).cumIn = ((trained (fun q => { q with cumIn := 1 })).port 0).sentIn + 1 ∧
    (trained id).portOn 0 = true ∧ ((trained (fun q => { q with head := true, swap := .reissue })).port 0).swap = .reissue ∧
    ((trained (fun q => { q with head := true, swap := .reissue })).port 0).reissued = false := by decide

/-- A word of ten ones is no code group; D21.5 is one at either disparity (R253). -/
theorem test_meets_violations : violates false 0x3FF = true ∧ violates false 0x2AA = false ∧ violates true 0x2AA = false := by
  decide +kernel
theorem test_meets_swaps :
    (trained id).swaps 0 = true ∧ (trained id).reachable .link = true ∧
    ((trained (fun q => { q with swap := .reqSent, swapTicket := 5, swapFor := 8 })).port 0).swapTicket < 6 ∧
    ((trained (fun q => { q with swap := .backoff })).port 0).swap = .backoff ∧
    ((trained (fun q => { q with swap := .backoff })).port 0).swapFor = 0 ∧ (trained id).bare = false := by decide

/-- A session of gable 0 on port 0 with the empty key. -/
def session : Session :=
  { ks := [], lastSeq := 4, cached := none, pending := none, badTags := 0, winPtr := 0, usedAt := 0, recovery := false }

/-- Port 0 is trained and gable 0 has a session there. -/
def opened (x : Session) : State :=
  let s := trained id
  { s with
    cfg := cfg false
    purlin := { s.purlin with sess := vset s.purlin.sess (0 : Gable) (vset (s.purlin.sess[0]) (0 : Port) (some x)) } }

/-- A sequenced frame of opcode `opc` whose TAG is that of the empty key. -/
def frame (opc : BitVec 4) (seq : Word) (data : List Byte) : Frame :=
  Frame.make 0 opc 0 0 seq data (frameTag [] false (frameBody false opc 0 0 0 seq data))

theorem length_frameTag (ks : List Byte) (d : Bool) (b : List Byte) : (frameTag ks d b).length = 8 := by
  rw [frameTag, List.length_take, length_hmac]; rfl

/-- The frame's fields, and that it is not discarded. -/
theorem frame_fields (opc : BitVec 4) (seq : Word) (data : List Byte) (hs : sequenced opc = true) (hc : opc ≠ 0xC)
    (hd : data.length ≤ 486) :
    (frame opc seq data).port = 0 ∧ (frame opc seq data).opc = opc ∧ (frame opc seq data).flags = 0 ∧
      (frame opc seq data).sess = 0 ∧ (frame opc seq data).seq = seq ∧ (frame opc seq data).data = data ∧
      (frame opc seq data).tag = frameTag [] false (frameBody false opc 0 0 0 seq data) ∧
      (frame opc seq data).discard = none :=
  ⟨rfl, make_opc .., rfl, make_sess .., make_seq _ _ _ _ _ _ _ hs, make_data _ _ _ _ _ _ _ hs hd,
    make_tag _ _ _ _ _ _ _ hs hd (length_frameTag ..),
    make_discard _ _ _ _ _ _ _ hs hc (by simp [flagsOk]) hd (length_frameTag ..)⟩

/-- The frame passes the checks of R259, and checks 1 and 2 of R268, where the port is trained with an empty buffer. -/
theorem frame_heard (s : State) (opc : BitVec 4) (seq : Word) (data : List Byte) (x : Session)
    (hs : sequenced opc = true) (hc : opc ≠ 0xC) (hd : data.length ≤ 486) (hr : s.receives 0 = true)
    (hp : s.portHeld 0 < (s.port 0).empty.length) (hx : s.session 0 0 = some x) (hk : x.ks = []) :
    s.hears opc (frame opc seq data) x := by
  obtain ⟨p, o, fl, g, q, d, tg, dc⟩ := frame_fields opc seq data hs hc hd
  refine ⟨⟨⟨by rw [p]; exact hr, dc, o⟩, by rw [p]; exact hp⟩, by rw [p, g]; exact hx, ?_⟩
  rw [tg, fl, g, q, d, hk]

/-- It is performed at once where nothing is pending, no bank is under test and the warden neither is braced nor changes its
state. -/
theorem frame_performs (s : State) (opc : BitVec 4) (data : List Byte) (x : Session)
    (hs : sequenced opc = true) (hc : opc ≠ 0xC) (hd : data.length ≤ 486) (hr : s.receives 0 = true)
    (hp : s.portHeld 0 < (s.port 0).empty.length) (hx : s.session 0 0 = some x) (hk : x.ks = []) (hl : x.lastSeq = 4)
    (hn : x.pending = none) (hf : s.refusing = false) (hb : s.banks.bist = none) (hg : s.power.gstate ≠ .trans)
    (ho : s.domOn dPOOL = true) : s.performs opc (frame opc 5 data) x := by
  obtain ⟨p, o, fl, g, q, d, tg, dc⟩ := frame_fields opc 5 data hs hc hd
  refine ⟨frame_heard s opc 5 data x hs hc hd hr hp hx hk, by rw [q, hl]; rfl, by rw [q, hl]; decide, hn, hf, ?_⟩
  simp [State.defers, State.windowWaits, hb, hg, ho]

/-- The same for gable 0's session on port 0. -/
theorem session_performs (opc : BitVec 4) (data : List Byte) (hs : sequenced opc = true) (hc : opc ≠ 0xC)
    (hd : data.length ≤ 486) : (opened session).performs opc (frame opc 5 data) session :=
  frame_performs _ opc data session hs hc hd (by decide) (by decide) (by decide) rfl rfl rfl (by decide) rfl (by decide)
    (by decide)

theorem test_meets_sequencing :
    opcReadReg ∈ seqOpcodes ∧ (opened session).holdsFrame opcReadReg (frame opcReadReg 4 []) ∧
    (opened session).hears opcReadReg (frame opcReadReg 4 []) session ∧ (frame opcReadReg 4 []).seq = session.lastSeq ∧
    (opened session).refusing = false ∧ session.badTags < 15 ∧
    (regs [(.supStat, 0x40)] (trained id)).refusing = true ∧
    (trained id).session 0 0 = none ∧ ((link id).port 0).empty.length = 0 ∧
    flagsOk opcReadReg 1 = false := by
  have h := frame_heard (opened session) opcReadReg 4 [] session (by decide) (by decide) (by decide) (by decide) (by decide)
    (by decide) rfl
  exact ⟨by decide, h.1, h, (frame_fields opcReadReg 4 [] (by decide) (by decide) (by decide)).2.2.2.2.1, by decide⟩

/-- A command of `session` that waits for its reply. -/
def asking960 : PendingCmd := { opc := opcMsgSend, seq := 4, reply := true, at_ := 0, order := 1, frame := none }

theorem test_meets_pending :
    let x := { session with pending := some asking960 }
    (opened x).session 0 0 = some x ∧ (opened x).hears opcReadReg (frame opcReadReg 5 []) x ∧
    (opened { session with cached := some .slp }).hears opcReadReg (frame opcReadReg 4 []) { session with cached := some .slp } ∧
    asking960.reply = true ∧ asking960.seq ≠ 0xFFFFFFFF ∧ ((opened x).port 0).link = .trained ∧
    (opened x).replyPending 0 0 = some asking960 ∧ { opened x with now := 960 }.now = asking960.at_ + 960 := by
  refine ⟨by decide, ?_, ?_, by decide⟩ <;>
    exact frame_heard _ _ _ _ _ (by decide) (by decide) (by decide) (by decide) (by decide) (by decide) rfl
theorem test_meets_deferral :
    let s : State := { opened session with power := { (opened session).power with gstate := .trans } }
    s.up = true ∧ s.refusing = false ∧ s.power.gstate = .trans := by decide

/-- Step 1 of an OPEN on port 0. -/
def openStep : Vector (Option OpenStep) 2 :=
  vset (Vector.replicate 2 none) (0 : Port) (some { method := 0, nc := [], nw := [], at_ := 0 })

/-- Gable 0 has a key, and step 1 of its OPEN has been answered. -/
def opening : State :=
  let s := trained id
  { s with
    cfg := { cfg false with creds := vset (cfg false).creds (0 : Gable) (some (.key [7])) }
    purlin := { s.purlin with opens := vset s.purlin.opens (0 : Gable) openStep } }

theorem test_meets_open :
    (opening.openKey 0 0) = some ([7], []) ∧ opening.openKey 0 1 = none ∧
    (trained id).openKey 0 0 = none ∧ opening.lockedOut 0 = false ∧ (opening.gab 0).stopped = false ∧
    opening.refusing = false ∧ opening.now - 0 ≤ 1000 ∧ (opening.port 0).ctlFull = false ∧
    ((opening.purlin.opens[0])[0]).isSome = true ∧ (List.replicate 16 (0 : Byte)).length = 16 ∧
    (opening.setLock 0 { fails := 4, level := 0, since := some 0 }).lockedOut 0 = true ∧
    (regs [(.purCfg, 5)] (opened session)).fieldOf .purCfg 7 0 ≠ 0 ∧ (regs [(.purCfg, 0)] (opened session)).fieldOf .purCfg 7 0 = 0 ∧
    (opened session).session 0 0 ≠ none ∧ { opening with now := 1000000 }.now = 0 + 1000000 * 2 ^ 0 := by decide

/-- A PING of eight bytes and both steps of an OPEN, whole (Table PUR-3). -/
theorem test_meets_control_frames :
    (opening.meetsCtl opcPing (Frame.make 0 opcPing 0 0 0 [1, 2, 3, 4, 5, 6, 7, 8] [])) ∧
    (opening.meetsCtl opcOpen (Frame.make 0 opcOpen 0 0 0 (List.replicate 17 0) [])) ∧
    (opening.meetsCtl opcOpen (Frame.make 0 opcOpen 1 0 0 (List.replicate 16 0) [])) := by
  refine ⟨⟨⟨by decide, ?_, make_opc ..⟩, by decide⟩, ⟨⟨by decide, ?_, make_opc ..⟩, by decide⟩,
    ⟨⟨by decide, ?_, make_opc ..⟩, by decide⟩⟩ <;> decide +kernel
theorem test_meets_key_proof : ((hmac [7] (1 :: openCtx 0 0 0 ++ [] ++ [])).take 16).length = 16 := by
  rw [List.length_take, length_hmac]; rfl
theorem test_meets_stopped_gable :
    ({ opening with gabs := vset opening.gabs (1 : Gable) { GabState.reset with stopped := true } }.gab 1).stopped = true ∧
    { opening with cfg := { opening.cfg with desc := twoGables, creds := Vector.replicate 8 (some (.key [7])) } }.openKey 1 0 =
      some ([7], []) := by decide

/-- A frame whose FCS fails, one of a reserved opcode, and one that is whole (R259). -/
theorem test_meets_discards :
    ({ port := 0, body := some (List.replicate 10 0) } : Frame).discard = some .fcs ∧
    (Frame.make 0 0xD 0 0 0 [] []).discard = some .other ∧ (Frame.make 0 opcPing 0 0 0 [] []).discard = none ∧
    (trained id).receives 0 = true := by
  decide +kernel

theorem test_meets_registers :
    (opened session).performs opcReadReg (frame opcReadReg 5 [0x40, 0x04, 0x00, 0x00, 1]) session ∧
    (opened session).performs opcWriteReg (frame opcWriteReg 5 [0x40, 0x04, 0x00, 0x00, 1, 0, 0, 0, 0]) session ∧
    (opened session).performs opcClose (frame opcClose 5 []) session ∧ (opened session).bare = false ∧
    inAperture 0x40040000 = false ∧ (Reg.atAddr? 0 (Reg.clkSsc).addr) = some .clkSsc ∧
    (opened session).writeRefused 0 .clkSsc 0x60 = false ∧ Reg.reservedEncoding .clkSsc 0x60 = false ∧
    (opened session).writeRefused 0 .supStat 1 = true ∧ Reg.reservedEncoding .clkSsc 0 = true := by
  refine ⟨session_performs _ _ (by decide) (by decide) (by decide), session_performs _ _ (by decide) (by decide) (by decide),
    session_performs _ _ (by decide) (by decide) (by decide), by decide⟩
theorem test_meets_window :
    let f := frame opcWinRead 5 [0, 4]
    (opened session).performs opcWinRead f session ∧ winStart f session = (0, [0, 4]) ∧
    (opened session).place 0 0 = .bank 0 .plain false none ∧ (opened session).cfg.may 0 .r 0 = true ∧
    (opened session).cfg.may 0 .w 0 = true ∧ (opened session).cfg.may 0 .r 0x20000 = false ∧ (opened session).pathOn 0 false = true ∧
    burstSize 0 4 = 4 := by
  refine ⟨session_performs _ _ (by decide) (by decide) (by decide), ?_, by decide⟩
  obtain ⟨p, o, fl, g, q, d, tg, dc⟩ := frame_fields opcWinRead 5 [0, 4] (by decide) (by decide) (by decide)
  rw [winStart, fl, d]; rfl

/-- A recovery session in BARE. -/
def recovering : State := { opened { session with recovery := true } with life := .bare }

/-- A frame whose data the empty key's session in BARE performs. -/
theorem recovery_performs (opc : BitVec 4) (data : List Byte) (hs : sequenced opc = true) (hc : opc ≠ 0xC)
    (hd : data.length ≤ 486) : recovering.performs opc (frame opc 5 data) { session with recovery := true } :=
  frame_performs _ opc data _ hs hc hd (by decide) (by decide) (by decide) rfl rfl rfl (by decide) rfl (by decide)
    (by decide)

theorem test_meets_recovery :
    let erase := beBytes 4 (Reg.addr .pltRcvCtl) ++ [1, 0, 0, 0xC7, 1]
    let reboot := beBytes 4 (Reg.addr .pltRcvCtl) ++ [1, 0, 0, 0xC7, 2]
    recovering.bare = true ∧ recovering.performs opcWriteReg (frame opcWriteReg 5 erase) { session with recovery := true } ∧
    rcvFrame (frame opcWriteReg 5 erase) 0 = true ∧ rcvFrame (frame opcWriteReg 5 reboot) 1 = true ∧ keyOf 0xC701 = 0xC7 := by
  have h := fun d hd => (frame_fields opcWriteReg 5 d (by decide) (by decide) hd).2.2.2.2.2.1
  refine ⟨by decide, recovery_performs _ _ (by decide) (by decide) (by decide), ?_, ?_, by decide⟩ <;>
    (unfold rcvFrame; rw [h _ (by decide)]; decide)
theorem test_meets_recovery_window :
    let f := frame opcWinWrite 5 [7, 7, 7, 7]
    recovering.performs opcWinWrite f { session with recovery := true } ∧ winStart f session = (0, [7, 7, 7, 7]) ∧
    burstSize 0 4 = 4 ∧ 0 + 4 ≤ 0x200000 := by
  refine ⟨recovery_performs _ _ (by decide) (by decide) (by decide), ?_, by decide⟩
  obtain ⟨p, o, fl, g, q, d, tg, dc⟩ := frame_fields opcWinWrite 5 [7, 7, 7, 7] (by decide) (by decide) (by decide)
  rw [winStart, fl, d]; rfl

/-- An erased sector may be programmed; a sector with one byte written may not. -/
theorem test_meets_erased_sectors :
    { Nonvolatile.reset with erased := [0] }.mayProgram 0 4 = true ∧
    { Nonvolatile.reset with nvm := { Nvm.erased with bytes := [(4095, 0)] }, erased := [] }.mayProgram 0 4 = false := by
  decide +kernel

/-- Port 0's receive buffer lies in a pool, and gable 0 has a session there. -/
def messaging : State :=
  { held true 8 0 with
    regs := (regs [(.purPcfg 0, 1)] (held true 8 0)).regs
    purlin := (opened session).purlin }

theorem test_meets_messages :
    messaging.performs opcMsgSend (frame opcMsgSend 5 [1]) session ∧ (messaging.port 0).empty = [0x140] ∧
    (messaging.purlin.msgq[0]).length < 8 ∧
    { messaging.purlin with msgq := Vector.replicate 8 [1, 2, 3, 4, 5, 6, 7, 8] }.msgq[0].length = 8 ∧
    ((opened session).deviceAccess 0).admits 0 (.purReply 0) 1 ∧ messaging.reachable .link = true ∧
    messaging.domOn dPOOL = true := by
  refine ⟨frame_performs _ _ _ _ (by decide) (by decide) (by decide) (by decide) (by decide) (by decide) rfl rfl rfl (by decide)
    rfl (by decide) (by decide), by decide, by decide, by decide, ?_, by decide⟩
  unfold State.admits; decide

/-- The hand-over of the buffer passes its checks. -/
theorem test_meets_hand_over : ((messaging.putBytes 0x148 [1, 0, 0, 0, 0, 0, 0, 0]).bufOp 8 0x140 (.transfer (holderOf 0))).1 = E_OK := by
  decide

/-- Gable 0 replies from a buffer with one byte. -/
def replying : State := (regs [(.purReplyH 0, 0x140)] ((held true 0 0).putBytes 0x148 [1, 0, 0, 0, 0, 0, 0, 0])).deviceAccess 0

theorem test_meets_reply : (replying.replyCheck 0 0x140).1 = none ∧ (held true 0 0).replyCheck 0 0x100 ≠ (none, 0, held true 0 0) ∧
    ((held true 0 0).replyCheck 0 0x140).1 = some E_RANGE := by decide

end Sys2Proof.Tests
end

section
/-! PROOFS. The reset state, and register writes: what the masks of a register's fields are, what each outcome of a
REGISTER_WRITE leaves, and the statements of the two. -/

namespace Sys2Proof.Machine

/-! ## The reset state (spec/00 R3) -/

theorem regFind_reset {r : Reg} (h1 : r ≠ .supStat) (h2 : r ≠ .clkStat) : regFind State.reset.regs r = none := by
  simp [State.reset, regFind, h1.symm, h2.symm]

theorem Cfg.reset_absent (g : Gable) : (Cfg.reset.desc[g.val]).present = false := by
  simp [Cfg.reset, Desc.absent]

theorem Cfg.exclusive_of_absent {c : Cfg} (h : ∀ g : Gable, (c.desc[g.val]).present = false) : c.exclusive := by
  refine ⟨fun g _ _ hg _ => ?_, fun g hg => ?_⟩ <;> exact absurd hg (by simp [h g])

/-- Settles O2: no gable has a descriptor at reset, and a register that the reset file does not list shows its Reset. -/
theorem resetLeavesRegistersAtReset : Obligations.ResetLeavesRegistersAtReset := by
  unfold Obligations.ResetLeavesRegistersAtReset
  refine ⟨fun r h1 h2 => ?_, rfl, rfl, rfl, rfl, rfl, Cfg.exclusive_of_absent Cfg.reset_absent, ?_, rfl, ?_⟩
  · rw [State.reg, regFind_reset h1 h2]; rfl
  · exact ⟨by decide, by decide⟩
  · exact ⟨rfl, rfl, rfl⟩

/-! ## Saturating counters -/

theorem bitsOf_satInc_same (w : Word) (hi lo : Nat) (h : lo ≤ hi) (h32 : hi < 32) :
    bitsOf (satInc w hi lo) hi lo = min (bitsOf w hi lo + 1) (2 ^ (hi - lo + 1) - 1) := by
  have hlt := bitsOf_lt w hi lo
  unfold satInc
  by_cases hmax : bitsOf w hi lo = 2 ^ (hi - lo + 1) - 1
  · simp only [if_pos hmax]; omega
  · simp only [if_neg hmax]
    rw [bitsOf_putBits_same _ _ _ _ h h32, Nat.mod_eq_of_lt (by omega)]
    omega

theorem bitsOf_satInc_ne (w : Word) (hi lo hi' lo' : Nat) (h : lo ≤ hi) (hd : hi < lo' ∨ hi' < lo) (h' : lo' ≤ hi') :
    bitsOf (satInc w hi lo) hi' lo' = bitsOf w hi' lo' := by
  unfold satInc
  simp only
  split
  · rfl
  · exact bitsOf_putBits_ne _ _ _ _ _ _ h hd h'

theorem bitsOf_whole (w : Word) : bitsOf w 31 0 = w.toNat := by
  simp [bitsOf, Nat.mod_eq_of_lt w.isLt]

/-! ## Masks of fields (spec/00 Table SCO-4) -/

theorem getLsbD_foldl_maskBits (l : List Field) (p : FieldType → Bool) (m : Word) (k : Nat) :
    (l.foldl (fun m f => if p f.ty then m ||| maskBits f.hi f.lo else m) m).getLsbD k =
      (m.getLsbD k || l.any (fun f => p f.ty && (maskBits f.hi f.lo).getLsbD k)) := by
  induction l generalizing m with
  | nil => simp
  | cons f l ih =>
    rw [List.foldl_cons, ih, List.any_cons]
    cases p f.ty <;> simp [Bool.or_assoc]

/-- A bit is in the mask of some field types when a field of such a type covers it. -/
theorem Reg.getLsbD_maskOf (r : Reg) (p : FieldType → Bool) (k : Nat) :
    (r.maskOf p).getLsbD k = r.fields.any (fun f => p f.ty && (maskBits f.hi f.lo).getLsbD k) := by
  unfold Reg.maskOf
  rw [getLsbD_foldl_maskBits]
  simp

/-- The bits of fields of any types are not reserved (R4). -/
theorem Reg.definedMask_and_maskOf (r : Reg) (p : FieldType → Bool) : r.definedMask &&& r.maskOf p = r.maskOf p := by
  apply BitVec.eq_of_getLsbD_eq
  intro k _
  unfold Reg.definedMask
  rw [BitVec.getLsbD_and, Bool.and_eq_right_iff_imp, Reg.getLsbD_maskOf, Reg.getLsbD_maskOf]
  simp only [List.any_eq_true, Bool.and_eq_true, Bool.true_and]
  rintro ⟨f, hf, _, hk⟩
  exact ⟨f, hf, hk⟩

/-- No register has a bit that is both RW and W1C. -/
theorem Reg.rwMask_and_w1cMask (r : Reg) : r.rwMask &&& r.w1cMask = 0 := by
  cases r <;> dsimp only [Reg.rwMask, Reg.w1cMask, Reg.maskOf, Reg.fields]
  case gabWin g i => split <;> rfl
  all_goals rfl

theorem Reg.w1cMask_of_rwMask {r : Reg} {k : Nat} (h : r.rwMask.getLsbD k = true) : r.w1cMask.getLsbD k = false := by
  have hk := congrArg (fun w => BitVec.getLsbD w k) r.rwMask_and_w1cMask
  simpa [h] using hk

/-! ## What a merged write leaves -/

/-- Reserved bits of a write do not matter to the merge. -/
theorem State.mergeWrite_definedMask (s : State) (r : Reg) (v : Word) :
    s.mergeWrite r (v &&& r.definedMask) = s.mergeWrite r v := by
  unfold State.mergeWrite Reg.rwMask Reg.w1cMask Reg.w1sMask
  simp only [BitVec.and_assoc, Reg.definedMask_and_maskOf]

/-- Each RW bit takes the bit written, a 1 clears a W1C bit and sets a W1S bit, and every other bit stays. -/
theorem State.bitOf_mergeWrite (s : State) (r : Reg) (v : Word) {k : Nat} (hk : k < 32) :
    (s.mergeWrite r v).bitOf r k =
      (if (Reg.rwMask r).getLsbD k then v.getLsbD k
      else s.bitOf r k && !((Reg.w1cMask r).getLsbD k && v.getLsbD k) || ((Reg.w1sMask r).getLsbD k && v.getLsbD k)) := by
  unfold State.mergeWrite
  rw [State.bitOf_setReg, if_pos rfl]
  simp only [BitVec.getLsbD_or, BitVec.getLsbD_and, BitVec.getLsbD_not, hk, decide_true, Bool.true_and]
  cases hrw : (Reg.rwMask r).getLsbD k
  · simp [State.bitOf, Bool.and_comm]
  · have hw1c := Reg.w1cMask_of_rwMask hrw
    cases hv : v.getLsbD k <;> simp [hw1c]

theorem State.reg_mergeWrite_ne (s : State) {r q : Reg} (v : Word) (h : r ≠ q) : (s.mergeWrite r v).reg q = s.reg q :=
  State.reg_setReg_ne s _ h

/-- In a register with neither RW nor W1S fields a merge clears the bits written as 1 in W1C fields (R12). -/
theorem State.reg_mergeWrite_w1c (s : State) {r : Reg} (v : Word) (hrw : r.rwMask = 0#32) (hw1s : r.w1sMask = 0#32) :
    (s.mergeWrite r v).reg r = s.reg r &&& ~~~ (v &&& r.w1cMask) := by
  unfold State.mergeWrite
  rw [State.reg_setReg_same, hrw, hw1s, BitVec.and_zero, BitVec.or_zero, BitVec.or_zero, BitVec.not_zero,
    BitVec.and_allOnes]

/-- A write of a register whose writes only store is a merge. -/
theorem State.regTake_plain (s : State) (g : Gable) {r : Reg} (v : Word) (h : r.plain = true) :
    s.regTake g r v = s.mergeWrite r v := by
  unfold State.regTake
  split
  case h_45 => rfl
  all_goals cases h

/-! ## Which registers a write touches -/

theorem State.onlyRegs_refl (s : State) (p : Reg → Prop) : s.onlyRegs p s := ⟨rfl, fun _ _ => rfl⟩

theorem State.onlyRegs_trans {s t u : State} {p : Reg → Prop} (h : s.onlyRegs p t) (k : t.onlyRegs p u) :
    s.onlyRegs p u := by
  obtain ⟨hs, hr⟩ := h
  obtain ⟨ks, kr⟩ := k
  refine ⟨?_, fun q hq => (kr q hq).trans (hr q hq)⟩
  rw [ks, hs]

theorem State.onlyRegs_setReg (s : State) {p : Reg → Prop} {r : Reg} (v : Word) (h : p r) :
    s.onlyRegs p (s.setReg r v) :=
  ⟨rfl, fun _ hq => State.reg_setReg_ne s v (fun e => hq (e ▸ h))⟩

theorem State.onlyRegs_mergeWrite (s : State) {p : Reg → Prop} {r : Reg} (v : Word) (h : p r) :
    s.onlyRegs p (s.mergeWrite r v) := State.onlyRegs_setReg s _ h

theorem State.onlyRegs_recordFault (s : State) (g : Gable) (c : Byte) (a : Word) {p : Reg → Prop}
    (h1 : p (.gabFault g)) (h2 : p (.gabFaultAddr g)) : s.onlyRegs p (s.recordFault g c a) :=
  State.onlyRegs_trans (State.onlyRegs_setReg s _ h1) (State.onlyRegs_setReg _ _ h2)

/-- A command that changes registers alone after what precedes its access keeps what every command keeps. -/
theorem State.commit_accessedOnly {s t : State} {g : Gable} {p : Reg → Prop} (h : s.accessedOnly g p t) :
    s.commit t = t := by
  have hd := State.drainOnly_deviceAccess s g
  obtain ⟨ht, _⟩ := h
  refine State.commit_eq s t ?_ ?_ ?_ ?_
  · rw [ht]; exact hd.cfg
  · rw [ht]; exact hd.root
  · rw [ht]; exact hd.now
  · rw [ht]; exact hd.pending

/-! ## Fault records -/

theorem State.reg_gabFault_recordFault (s : State) (g : Gable) (c : Byte) (a : Word) :
    (s.recordFault g c a).reg (.gabFault g) = satInc (putBits (s.reg (.gabFault g)) 7 0 c.toNat) 15 8 := by
  simp [State.recordFault]

/-- A record takes the code. -/
theorem State.faultCode_recordFault (s : State) (g : Gable) (c : Byte) (a : Word) :
    bitsOf ((s.recordFault g c a).reg (.gabFault g)) 7 0 = c.toNat := by
  rw [State.reg_gabFault_recordFault, bitsOf_satInc_ne _ _ _ _ _ (by decide) (by decide) (by decide),
    bitsOf_putBits_same _ _ _ _ (by decide) (by decide)]
  exact Nat.mod_eq_of_lt c.isLt

/-- A record counts, up to 255. -/
theorem State.faultCount_recordFault (s : State) (g : Gable) (c : Byte) (a : Word) :
    bitsOf ((s.recordFault g c a).reg (.gabFault g)) 15 8 = min (bitsOf (s.reg (.gabFault g)) 15 8 + 1) 255 := by
  have hmax : 2 ^ (15 - 8 + 1) - 1 = 255 := by decide
  rw [State.reg_gabFault_recordFault, bitsOf_satInc_same _ _ _ (by decide) (by decide),
    bitsOf_putBits_ne _ _ _ _ _ _ (by decide) (by decide) (by decide), hmax]

/-- A record takes the address. -/
theorem State.faultAddr_recordFault (s : State) (g : Gable) (c : Byte) (a : Word) :
    (s.recordFault g c a).reg (.gabFaultAddr g) = a := by
  simp [State.recordFault]

theorem State.rsvdCnt_recordFault (s : State) (g : Gable) (c : Byte) (a : Word) :
    (s.recordFault g c a).reg (.gabRsvdCnt g) = s.reg (.gabRsvdCnt g) := by
  simp [State.recordFault]

/-! ## The count of reserved bits (R4) -/

/-- The state once a write's reserved bits have been counted. -/
def State.countRsvd (s : State) (g : Gable) (r : Reg) (v : Word) : State :=
  if v &&& ~~~ (r.definedMask) ≠ 0 then s.satField (.gabRsvdCnt g) 31 0 else s

theorem State.onlyRegs_countRsvd (s : State) (g : Gable) (r : Reg) (v : Word) {p : Reg → Prop} (h : p (.gabRsvdCnt g)) :
    s.onlyRegs p (s.countRsvd g r v) := by
  unfold State.countRsvd
  split
  · exact State.onlyRegs_setReg s _ h
  · exact State.onlyRegs_refl s p

theorem State.rsvdCnt_countRsvd (s : State) (g : Gable) (r : Reg) (v : Word) :
    ((s.countRsvd g r v).reg (.gabRsvdCnt g)).toNat =
      (if v &&& ~~~ (r.definedMask) = 0 then (s.reg (.gabRsvdCnt g)).toNat
        else min ((s.reg (.gabRsvdCnt g)).toNat + 1) 4294967295) := by
  unfold State.countRsvd
  by_cases h : v &&& ~~~ (r.definedMask) = 0
  · rw [if_pos h, if_neg (not_not_intro h)]
  · have hmax : 2 ^ (31 - 0 + 1) - 1 = 4294967295 := by decide
    rw [if_neg h, if_pos h, State.reg_satField, if_pos rfl, ← bitsOf_whole,
      bitsOf_satInc_same _ _ _ (by decide) (by decide), bitsOf_whole, hmax]

theorem State.bitOf_countRsvd_ne (s : State) (g : Gable) {r : Reg} (v : Word) (k : Nat) (h : r ≠ .gabRsvdCnt g) :
    (s.countRsvd g r v).bitOf r k = s.bitOf r k := by
  unfold State.countRsvd State.bitOf
  split
  · rw [State.reg_satField, if_neg h.symm]
  · rfl

/-- The count itself can be written by nobody. -/
theorem State.writeRefused_gabRsvdCnt (s : State) (g h : Gable) (v : Word) :
    s.writeRefused g (.gabRsvdCnt h) v = true := rfl

theorem State.ne_gabRsvdCnt_of_granted {s : State} {g : Gable} {r : Reg} {v : Word} (h : s.writeRefused g r v = false) :
    r ≠ .gabRsvdCnt g := by
  rintro rfl
  rw [State.writeRefused_gabRsvdCnt] at h
  cases h

/-! ## The outcomes of a register write (R14) -/

theorem State.regWrite_refused {s : State} {g : Gable} {r : Reg} {v : Word} (h : s.writeRefused g r v = true) :
    s.regWrite g r v = s.recordFault g E_WINDOW (BitVec.ofNat 32 r.addr) := by
  unfold State.regWrite
  rw [if_pos h]

theorem State.regWrite_reserved {s : State} {g : Gable} {r : Reg} {v : Word} (h : s.writeRefused g r v = false)
    (he : r.reservedEncoding v = true) :
    s.regWrite g r v = (s.countRsvd g r v).recordFault g E_RSVD (BitVec.ofNat 32 r.addr) := by
  unfold State.regWrite State.countRsvd
  simp only [h, he, Bool.false_eq_true, if_false, if_true]

theorem State.regWrite_plain {s : State} {g : Gable} {r : Reg} {v : Word} (h : s.writeRefused g r v = false)
    (he : r.reservedEncoding v = false) (hp : r.plain = true) :
    s.regWrite g r v = (s.countRsvd g r v).mergeWrite r v := by
  rw [← State.mergeWrite_definedMask, ← State.regTake_plain _ g _ hp]
  unfold State.regWrite State.countRsvd
  simp only [h, he, Bool.false_eq_true, if_false]

theorem State.regWrite_admits_plain {s : State} {g : Gable} {r : Reg} {v : Word} (h : s.admits g r v)
    (hp : r.plain = true) : s.regWrite g r v = s.mergeWrite r v := by
  rw [State.regWrite_admits h, State.regTake_plain s g v hp]

/-! ## The command REGISTER_WRITE -/

theorem State.place_register (s : State) (g : Gable) {a : Nat} (h1 : 0x40000000 ≤ a) (h2 : a < 0x400C0000) :
    s.place g a = .register a := by
  unfold State.place
  rw [if_neg (by omega), if_neg (by simp; omega), if_neg (by simp; omega), if_neg (by simp; omega),
    if_neg (by simp; omega), if_pos (by simp; omega)]

/-- A store of a whole word writes that word. -/
theorem State.laneWrite_whole (s : State) (r : Reg) {a : Nat} (v : Word) (h : a % 4 = 0) :
    s.laneWrite r a 4 v.toNat = v := by
  have hd : laneData a 4 v.toNat = v := by
    unfold laneData
    rw [h, Nat.pow_zero, Nat.mul_one, Nat.mod_eq_of_lt (show v.toNat < 256 ^ 4 from v.isLt), BitVec.ofNat_toNat,
      BitVec.setWidth_eq]
  have hm : ~~~ laneMask a 4 = 0#32 := by
    unfold laneMask
    rw [h]; rfl
  unfold State.laneWrite
  rw [hd, hm, BitVec.and_zero, BitVec.or_zero]

/-- A word stored at a reachable register is a write of that register. -/
theorem State.devWrite_register {s : State} {g : Gable} {a : Nat} {r : Reg} (v : Word) (h4 : a % 4 = 0)
    (h1 : 0x40000000 ≤ a) (h2 : a < 0x400C0000) (hap : inAperture a = false) (hr : Reg.atAddr? g a = some r)
    (hre : s.reachable r.domain = true) : s.devWrite g a 4 v.toNat = (none, s.regWrite g r v) := by
  have ha : a / 4 * 4 = a := by omega
  unfold State.devWrite
  simp only [State.place_register s g h1 h2, hap, ha, hr, hre, State.laneWrite_whole s r v h4, Bool.false_eq_true, if_false,
    if_true]

/-- An address, with the register that gable `g` reaches there in a running warden. -/
def State.reachesReg (s : State) (g : Gable) (addr : Word) (r : Reg) : Prop :=
  s.up = true ∧ addr.toNat % 4 = 0 ∧ 0x40000000 ≤ addr.toNat ∧ addr.toNat < 0x400C0000 ∧ inAperture addr.toNat = false ∧
    Reg.atAddr? g addr.toNat = some r ∧ s.reachable r.domain = true

/-- An admitted write at a register's address reaches it: what precedes the access bears neither on the warden's running
nor on what can be reached. -/
theorem State.reachesReg_of_admits {s : State} {g : Gable} {addr v : Word} {r : Reg} {a : Nat} (ha : addr.toNat = a)
    (h4 : a % 4 = 0) (h1 : 0x40000000 ≤ a) (h2 : a < 0x400C0000) (hap : inAperture a = false)
    (hr : Reg.atAddr? g a = some r) (h : (s.deviceAccess g).admits g r v) : s.reachesReg g addr r := by
  subst ha
  obtain ⟨hup, hre, _⟩ := h
  rw [State.up_deviceAccess] at hup
  rw [(State.drainOnly_deviceAccess s g).reachable] at hre
  exact ⟨hup, h4, h1, h2, hap, hr, hre⟩

/-- A REGISTER_WRITE to a register that is reached writes it, after what precedes the access (R146). -/
theorem exec_registerWrite {s : State} {g : Gable} {addr : Word} {r : Reg} (h : s.reachesReg g addr r) (v : Word) :
    exec (.registerWrite g addr v) s = done s ((s.deviceAccess g).regWrite g r v) := by
  obtain ⟨hup, h4, h1, h2, hap, hr, hre⟩ := h
  have hre' : (s.deviceAccess g).reachable r.domain = true := by
    rw [(State.drainOnly_deviceAccess s g).reachable, hre]
  show execRegisterWrite g addr v s = _
  unfold execRegisterWrite
  rw [State.place_register s g h1 h2, State.when_pos _ _ (by rw [hup]; rfl), if_neg (not_not_intro h4),
    State.devWrite_register v h4 h1 h2 hap hr hre']

/-- A REGISTER_WRITE whose effect is on registers alone completes with that effect. -/
theorem exec_registerWrite_next {s : State} {g : Gable} {addr v : Word} {r : Reg} {p : Reg → Prop} {t : State}
    (h : s.reachesReg g addr r) (ht : (s.deviceAccess g).regWrite g r v = t) (hp : s.accessedOnly g p t) :
    exec (.registerWrite g addr v) s = .next t := by
  rw [exec_registerWrite h, ht, done, State.commit_accessedOnly hp]

theorem State.core_deviceAccess (s : State) (g : Gable) : (s.deviceAccess g).core = { s.core with sb := [] } := by
  rw [(State.drainOnly_deviceAccess s g).1, State.sb_deviceAccess]

theorem State.reg_deviceAccess (s : State) (g : Gable) {q : Reg} (h : Reg.isCount q = false) :
    (s.deviceAccess g).reg q = s.reg q := (State.drainOnly_deviceAccess s g).2 q h

/-- One that the access line does not grant is recorded and changes nothing else (R6). -/
theorem registerWrite_refused {s : State} {g : Gable} {addr v : Word} {r : Reg} (h : s.reachesReg g addr r)
    (hw : (s.deviceAccess g).writeRefused g r v = true) :
    ∃ t, exec (.registerWrite g addr v) s = .next t ∧
      s.accessedOnly g (fun q => q = .gabFault g ∨ q = .gabFaultAddr g) t ∧
      bitsOf (t.reg (.gabFault g)) 7 0 = E_WINDOW.toNat ∧
      bitsOf (t.reg (.gabFault g)) 15 8 = min (bitsOf (s.reg (.gabFault g)) 15 8 + 1) 255 ∧
      t.reg (.gabFaultAddr g) = BitVec.ofNat 32 r.addr := by
  have hp : s.accessedOnly g (fun q => q = .gabFault g ∨ q = .gabFaultAddr g)
      ((s.deviceAccess g).recordFault g E_WINDOW (BitVec.ofNat 32 r.addr)) :=
    State.onlyRegs_recordFault _ g _ _ (.inl rfl) (.inr rfl)
  refine ⟨_, exec_registerWrite_next h (State.regWrite_refused hw) hp, hp, State.faultCode_recordFault _ _ _ _, ?_,
    State.faultAddr_recordFault _ _ _ _⟩
  rw [State.faultCount_recordFault, State.reg_deviceAccess s g rfl]

/-- The count of reserved bits after an access and a write, from the state before both (R4). -/
theorem State.rsvdCnt_countRsvd_deviceAccess (s : State) (g : Gable) (r : Reg) (v : Word) :
    (((s.deviceAccess g).countRsvd g r v).reg (.gabRsvdCnt g)).toNat =
      (if v &&& ~~~ (r.definedMask) = 0 then (s.reg (.gabRsvdCnt g)).toNat
        else min ((s.reg (.gabRsvdCnt g)).toNat + 1) 4294967295) := by
  rw [State.rsvdCnt_countRsvd, State.reg_deviceAccess s g rfl]

/-- One with a reserved encoding is discarded, its reserved bits counted (R4, R5). -/
theorem registerWrite_reserved {s : State} {g : Gable} {addr v : Word} {r : Reg} (h : s.reachesReg g addr r)
    (hw : (s.deviceAccess g).writeRefused g r v = false) (he : r.reservedEncoding v = true) :
    ∃ t, exec (.registerWrite g addr v) s = .next t ∧
      s.accessedOnly g (fun q => q = .gabFault g ∨ q = .gabFaultAddr g ∨ q = .gabRsvdCnt g) t ∧
      bitsOf (t.reg (.gabFault g)) 7 0 = E_RSVD.toNat ∧
      (t.reg (.gabRsvdCnt g)).toNat = (if v &&& ~~~ (r.definedMask) = 0 then (s.reg (.gabRsvdCnt g)).toNat
        else min ((s.reg (.gabRsvdCnt g)).toNat + 1) 4294967295) := by
  have hp : s.accessedOnly g (fun q => q = .gabFault g ∨ q = .gabFaultAddr g ∨ q = .gabRsvdCnt g)
      (((s.deviceAccess g).countRsvd g r v).recordFault g E_RSVD (BitVec.ofNat 32 r.addr)) :=
    State.onlyRegs_trans (State.onlyRegs_countRsvd _ g r v (.inr (.inr rfl)))
      (State.onlyRegs_recordFault _ g _ _ (.inl rfl) (.inr (.inl rfl)))
  refine ⟨_, exec_registerWrite_next h (State.regWrite_reserved hw he) hp, hp, State.faultCode_recordFault _ _ _ _, ?_⟩
  rw [State.rsvdCnt_recordFault, State.rsvdCnt_countRsvd_deviceAccess]

/-- Any other, to a register whose writes only store, takes effect by the types of its fields (R14, Table SCO-4). -/
theorem registerWrite_plain {s : State} {g : Gable} {addr v : Word} {r : Reg} (h : s.reachesReg g addr r)
    (hw : (s.deviceAccess g).writeRefused g r v = false) (he : r.reservedEncoding v = false) (hr : r.plain = true) :
    ∃ t, exec (.registerWrite g addr v) s = .next t ∧
      s.accessedOnly g (fun q => q = r ∨ q = .gabRsvdCnt g) t ∧
      (∀ k, k < 32 → t.bitOf r k =
        (if (Reg.rwMask r).getLsbD k then v.getLsbD k
        else (s.deviceAccess g).bitOf r k && !((Reg.w1cMask r).getLsbD k && v.getLsbD k) ||
          ((Reg.w1sMask r).getLsbD k && v.getLsbD k))) ∧
      (t.reg (.gabRsvdCnt g)).toNat = (if v &&& ~~~ (r.definedMask) = 0 then (s.reg (.gabRsvdCnt g)).toNat
        else min ((s.reg (.gabRsvdCnt g)).toNat + 1) 4294967295) := by
  have hne := State.ne_gabRsvdCnt_of_granted hw
  have hp : s.accessedOnly g (fun q => q = r ∨ q = .gabRsvdCnt g) (((s.deviceAccess g).countRsvd g r v).mergeWrite r v) :=
    State.onlyRegs_trans (State.onlyRegs_countRsvd _ g r v (.inr rfl)) (State.onlyRegs_mergeWrite _ v (.inl rfl))
  refine ⟨_, exec_registerWrite_next h (State.regWrite_plain hw he hr) hp, hp, fun k hk => ?_, ?_⟩
  · rw [State.bitOf_mergeWrite _ r v hk, State.bitOf_countRsvd_ne _ g v k hne]
  · rw [State.reg_mergeWrite_ne _ v hne, State.rsvdCnt_countRsvd_deviceAccess]

/-- One that is admitted to a register of W1C fields clears the bits written as 1 and changes nothing else (R12). -/
theorem registerWrite_w1c {s : State} {g : Gable} {addr v : Word} {r : Reg} (h : s.reachesReg g addr r)
    (ha : (s.deviceAccess g).admits g r v) (hr : r.plain = true) (hc : Reg.isCount r = false)
    (hrw : r.rwMask = 0#32) (hw1s : r.w1sMask = 0#32) :
    ∃ t, exec (.registerWrite g addr v) s = .next t ∧ s.accessedOnly g (fun q => q = r) t ∧
      t.reg r = s.reg r &&& ~~~ (v &&& r.w1cMask) := by
  have hp : s.accessedOnly g (fun q => q = r) ((s.deviceAccess g).mergeWrite r v) := State.onlyRegs_mergeWrite _ v rfl
  refine ⟨_, exec_registerWrite_next h (State.regWrite_admits_plain ha hr) hp, hp, ?_⟩
  rw [State.reg_mergeWrite_w1c _ v hrw hw1s, State.reg_deviceAccess s g hc]

/-! ## The three event registers -/

theorem atAddr_supEvt : Reg.atAddr? 0 0x40010004 = some .supEvt := by decide

theorem atAddr_clkEvt : Reg.atAddr? 0 0x40020004 = some .clkEvt := by decide

theorem atAddr_gabEvtPendHi (g : Gable) : Reg.atAddr? g 0x4005082C = some (.gabEvtPendHi g) := by
  revert g; decide

/-- Every bit of GAB_EVT_PEND_HI is W1C. -/
theorem masks_gabEvtPendHi (g : Gable) : Reg.rwMask (.gabEvtPendHi g) = 0#32 ∧ Reg.w1sMask (.gabEvtPendHi g) = 0#32 ∧
    Reg.w1cMask (.gabEvtPendHi g) = BitVec.allOnes 32 := by
  revert g; decide

/-- Settles O7: the outcomes of a write by the checks of R14 in turn, and the merge of W1C fields for the event registers. -/
theorem registerWritesAreCheckedAndTaken : Obligations.RegisterWritesAreCheckedAndTaken := by
  unfold Obligations.RegisterWritesAreCheckedAndTaken
  refine ⟨fun s g addr v r hup h4 h1 h2 hap hr hre => ?_, fun s addr v haddr ha => ?_, fun s addr v haddr ha => ?_,
    fun s g addr v haddr ha => ?_⟩
  · have h : s.reachesReg g addr r := ⟨hup, h4, h1, h2, hap, hr, hre⟩
    exact ⟨State.core_deviceAccess s g, fun q hq => State.reg_deviceAccess s g hq, registerWrite_refused h,
      registerWrite_reserved h, registerWrite_plain h⟩
  · have h := State.reachesReg_of_admits haddr (by decide) (by decide) (by decide) (by decide) atAddr_supEvt ha
    exact registerWrite_w1c h ha rfl rfl rfl rfl
  · have h := State.reachesReg_of_admits haddr (by decide) (by decide) (by decide) (by decide) atAddr_clkEvt ha
    exact registerWrite_w1c h ha rfl rfl rfl rfl
  · have h := State.reachesReg_of_admits haddr (by decide) (by decide) (by decide) (by decide) (atAddr_gabEvtPendHi g) ha
    obtain ⟨hrw, hw1s, hw1c⟩ := masks_gabEvtPendHi g
    have hw := registerWrite_w1c h ha rfl rfl hrw hw1s
    rwa [hw1c, BitVec.and_allOnes] at hw

end Sys2Proof.Machine
end

section
/-! PROOFS. What every command hands back, and what a cold start puts in place of the Plate's configuration: the one of a
slot that passed every check, or BARE's. The statements on the Plate and on ownership rest on the two. -/

namespace Sys2Proof.Machine

/-! ## What a command hands back (spec/01 R17) -/

/-- Every command but COLD_START completes, with a state that `done` hands back. -/
theorem exec_eq_done {c : Instr} (h : ∀ b, c ≠ .coldStart b) (s : State) : ∃ t, exec c s = done s t := by
  cases c
  case coldStart b => exact absurd rfl (h b)
  all_goals exact ⟨_, rfl⟩

/-- A cold start that begins finds the warden waiting for it and the TEST ball low (R308); otherwise nothing happens. -/
theorem execColdStart_cases (b : Board) (s : State) :
    execColdStart b s = .next s ∨
      ∃ cause, s.life.coldCause = some cause ∧ b.testHigh = false ∧
        execColdStart b s = .next { s.coldStart b cause with pending := s.pending, now := s.now } := by
  unfold execColdStart
  cases hc : s.life.coldCause with
  | none => exact .inl rfl
  | some cause =>
    by_cases hl : s.ladleStarts b = true
    · have ht : b.testHigh = false := by
        rw [State.ladleStarts, Bool.and_eq_true, Bool.not_eq_true'] at hl
        exact hl.2
      exact .inr ⟨cause, rfl, ht, if_pos hl⟩
    · exact .inl (if_neg hl)

/-- Settles O6: `done` keeps the Plate, the root, the time and the queue, and COLD_START is taken apart by its cases. -/
theorem onlyColdStartReadsThePlate : Obligations.OnlyColdStartReadsThePlate := by
  unfold Obligations.OnlyColdStartReadsThePlate
  refine ⟨fun c s h => ?_, fun b s => ?_⟩
  · obtain ⟨t, ht⟩ := exec_eq_done h s
    exact ⟨s.commit t, ht, rfl, rfl, rfl, rfl⟩
  · rcases execColdStart_cases b s with hs | ⟨cause, hc, hb, hs⟩
    · exact ⟨s, hs, rfl, rfl, fun _ => rfl⟩
    · refine ⟨_, hs, rfl, rfl, fun h => ?_⟩
      simp [hc, hb] at h

/-! ## Operations that keep the configuration -/

theorem State.foldl_cfg {α : Type} {f : State → α → State} (hf : ∀ (t : State) (x : α), (f t x).cfg = t.cfg)
    (l : List α) (s : State) : (l.foldl f s).cfg = s.cfg :=
  List.foldlRecOn (motive := fun t => t.cfg = s.cfg) l f rfl (fun t ht x _ => (hf t x).trans ht)

theorem State.memOnly.cfg {s t : State} (h : s.memOnly t) : t.cfg = s.cfg := by rw [h.1]

@[simp] theorem State.bankRead_cfg (s : State) (req w : Nat) : (s.bankRead req w).2.2.cfg = s.cfg :=
  (State.memOnly_bankRead s req w).cfg

@[simp] theorem State.bankWrite_cfg (s : State) (a : Nat) (bs : List Byte) : (s.bankWrite a bs).cfg = s.cfg :=
  (State.memOnly_bankWrite s a bs).cfg

@[simp] theorem State.evictHolder_cfg (s : State) (l : Nat) : (s.evictHolder l).cfg = s.cfg :=
  (State.memOnly_evictHolder s l).cfg

/-! ### Wake sources and permits (spec/05, spec/03) -/

@[simp] theorem State.countWake_cfg (s : State) (n : Fin 16) : (s.countWake n).2.cfg = s.cfg := by
  unfold State.countWake
  simp only
  split
  · rfl
  · split <;> rfl

@[simp] theorem State.noteWake_cfg (s : State) : s.noteWake.cfg = s.cfg := by
  unfold State.noteWake
  simp only
  split <;> rfl

@[simp] theorem State.deliverSource_cfg (s : State) (n : Fin 16) (g : Gable) : (s.deliverSource n g).cfg = s.cfg := by
  have hc := s.countWake_cfg n
  unfold State.deliverSource
  split
  · revert hc
    rcases s.countWake n with ⟨_ | _, t⟩ <;> intro hc
    · exact hc
    · simp only [State.pendLine_cfg, State.noteWake_cfg]
      split <;> exact hc
  · exact State.pendLine_cfg s g n.val

@[simp] theorem State.accept_cfg (s : State) (n : Fin 16) : (s.accept n).cfg = s.cfg := by
  unfold State.accept
  simp only
  split
  · rfl
  · split
    case h_2 =>
      cases h : (s.orReg .pwrWakePend (bitMask n.val)).cfg.wakeOwner n.val with
      | none => rfl
      | some g => exact State.deliverSource_cfg _ n g
    all_goals rfl

@[simp] theorem State.gutterLine_cfg (s : State) (line : Nat) : (s.gutterLine line).cfg = s.cfg := by
  unfold State.gutterLine
  split
  · exact State.foldl_cfg (fun t g => State.pendLine_cfg t g line) _ s
  · rfl

@[simp] theorem State.permitFollow_cfg (s : State) (p : Permit) : (s.permitFollow p).cfg = s.cfg := by
  unfold State.permitFollow State.permitRise State.permitFall
  split
  · simp
  · split <;> simp

/-! ### Thatch (spec/12) -/

@[simp] theorem State.readHeader_cfg (s : State) (a : Nat) : (s.readHeader a).2.cfg = s.cfg := by
  simp [State.readHeader]

@[simp] theorem State.writeHeader_cfg (s : State) (a low : Nat) (p : Fin 4) (holder st : Nat) :
    (s.writeHeader a low p holder st).cfg = s.cfg := by
  simp [State.writeHeader]

@[simp] theorem State.takeFree_cfg (s : State) (h : Holder) (p : Fin 4) (a : Nat) : (s.takeFree h p a).cfg = s.cfg := by
  simp [State.takeFree, State.setCharge]

@[simp] theorem State.alloc_cfg (s : State) (h : Holder) (bytes : Nat) (wait : Bool) (limit : Nat) :
    (s.alloc h bytes wait limit).2.cfg = s.cfg := by
  unfold State.alloc
  simp only
  split
  · rfl
  · split
    · split
      · exact State.takeFree_cfg s h _ _
      · rfl
    · split <;> rfl

@[simp] theorem State.giveLink_cfg (s : State) (a : Nat) : (s.giveLink a).cfg = s.cfg := by
  unfold State.giveLink
  simp only
  split <;> rfl

@[simp] theorem State.replenish_cfg (s : State) : s.replenish.cfg = s.cfg := by
  unfold State.replenish
  split
  · refine State.foldl_cfg (fun t _ => ?_) _ s
    simp only
    split
    · have ha := t.alloc_cfg 8 (t.poolPayload ⟨t.fieldOf .thtCfg 2 1 % 4, by omega⟩) true (1000 * t.fieldOf .thtCfg 15 8)
      split
      next hr =>
        rw [hr] at ha
        exact (State.giveLink_cfg _ _).trans ha
      all_goals
        next hr =>
          rw [hr] at ha
          exact ha
    · rfl
  · rfl

@[simp] theorem State.relink_cfg (s : State) : s.relink.cfg = s.cfg := by
  unfold State.relink
  simp only
  rw [State.foldl_cfg (fun t p => State.setPort_cfg t p _), State.replenish_cfg,
    State.foldl_cfg (fun t p => State.setPort_cfg t p _)]

@[simp] theorem State.rebuildPool_cfg (s : State) (p : Fin 4) : (s.rebuildPool p).cfg = s.cfg := by
  unfold State.rebuildPool
  split
  · exact State.foldl_cfg (fun t k => State.bankWrite_cfg t _ _) _ s
  · rfl

@[simp] theorem State.thtRebuild_cfg (s : State) : s.thtRebuild.cfg = s.cfg :=
  State.foldl_cfg State.rebuildPool_cfg _ _

/-! ## The ladle (spec/15) -/

@[simp] theorem State.repairTake_cfg (s : State) (f : FuseRecord) : (s.repairTake f).cfg = s.cfg := by
  unfold State.repairTake
  split <;> rfl

/-- The register file of a cold start stands beside the configuration that it was made from. -/
@[simp] theorem State.coldRegs_cfg (s : State) (c : Cfg) (b : Board) (cause : BitVec 3) : (s.coldRegs c b cause).cfg = c := by
  unfold State.coldRegs
  simp only [State.setReg_cfg, State.setField_cfg]
  rw [State.foldl_cfg State.repairTake_cfg, State.setReg_cfg]
  split <;> rfl

@[simp] theorem State.warnFollow_cfg (s : State) : s.warnFollow.cfg = s.cfg := by
  unfold State.warnFollow
  split <;> rfl

@[simp] theorem State.resumeRecord_cfg (s : State) (dark shelter : Bool) : (s.resumeRecord dark shelter).cfg = s.cfg := by
  unfold State.resumeRecord
  split <;> rfl

@[simp] theorem State.ladle_cfg (s : State) (n : Nvm) (c : Cfg) (b : Board) (cause : BitVec 3) :
    (s.ladle n c b cause).cfg = c := by
  simp [State.ladle]

@[simp] theorem State.coldRest_cfg (s : State) (doms : Vector DomState 24) (life : Life) : (s.coldRest doms life).cfg = s.cfg :=
  rfl

@[simp] theorem State.coldStores_cfg (s : State) (rd : Rd) : (s.coldStores rd).cfg = s.cfg := by
  simp [State.coldStores]

@[simp] theorem State.coldBanks_cfg (s : State) : s.coldBanks.cfg = s.cfg := by
  unfold State.coldBanks
  refine State.foldl_cfg (fun t b => ?_) _ s
  split <;> rfl

@[simp] theorem State.bankLoad_cfg (s : State) (a : Nat) (bs : List Byte) : (s.bankLoad a bs).cfg = s.cfg := by
  unfold State.bankLoad
  refine State.foldl_cfg (fun t k => ?_) _ s
  simp only
  split
  · exact State.bankWrite_cfg t _ _
  · rfl

@[simp] theorem State.coldImages_cfg (s : State) (rd : Rd) : (s.coldImages rd).cfg = s.cfg := by
  unfold State.coldImages
  exact State.foldl_cfg (fun t (r : Nat × List Byte) => State.bankLoad_cfg t r.1 r.2) _ s

@[simp] theorem State.roundDiv_cfg (s : State) (n d : Nat) : (s.roundDiv n d).2.cfg = s.cfg := by
  unfold State.roundDiv
  split <;> rfl

@[simp] theorem State.islandTake_cfg (s : State) : s.islandTake.cfg = s.cfg := by
  unfold State.islandTake
  split <;> rfl

/-- A slot that boots leaves its own configuration, with the vendor keys of the part. -/
theorem State.bootSlot_cfg (s : State) (b : Board) (cause : BitVec 3) (x : Boot) (slotB : Bool) :
    (s.bootSlot b cause x slotB).cfg =
      { plateCfg (nvmSlot (Board.nvmOr b s.nv.nvm) slotB) slotB with vendorKeys := b.vendorKeys } := by
  unfold State.bootSlot
  extract_lets n rd plate c root moved s₁ s₂ s₃ doms s₄ s₅ s₆ r s₇ time
  have h₃ : s₃.cfg = c := by rw [State.setNv_cfg, State.ladle_cfg]
  have h₄ : s₄.cfg = c := by
    rw [State.coldImages_cfg, State.coldBanks_cfg, State.coldStores_cfg, State.coldRest_cfg, h₃]
  have h₅ : s₅.cfg = c := by
    rw [apply_ite State.cfg, State.relink_cfg, State.thtRebuild_cfg, ite_self, h₄]
  have h₇ : s₇.cfg = c := by simp only [s₇, s₆, State.setReg_cfg, h₅]
  clear_value s₇ time
  split
  next us t ht =>
    have h : t.cfg = c := by
      rw [← h₇, show t = (us, t).2 from rfl, ← ht]
      split
      · exact State.roundDiv_cfg _ _ _
      · exact State.roundDiv_cfg _ _ _
    simp only [apply_ite State.cfg, State.accept_cfg, State.permitFollow_cfg, State.islandTake_cfg, State.setReg_cfg,
      ite_self, h]
    rfl

/-- BARE leaves the configuration of a Plate that lists nothing (R286). -/
theorem State.bootBare_cfg (s : State) (b : Board) (cause : BitVec 3) (x : Boot) :
    (s.bootBare b cause x).cfg = { Cfg.reset with vendorKeys := b.vendorKeys } := by
  simp [State.bootBare]

/-! ## What check 10 ensures (spec/15 Table PLT-5) -/

/-- `noPair` holds where the relation fails for each two entries of the list. -/
theorem noPair_iff {α : Type} (p : α → α → Bool) (l : List α) :
    noPair p l = true ↔ l.Pairwise (fun x y => p x y = false) := by
  induction l with
  | nil => simp [noPair]
  | cons x l ih => simp [noPair, ih]

theorem disjoint_iff (ms : List Nat) : disjoint ms = true ↔ ms.Pairwise (fun x y => x &&& y = 0) := by
  simp [disjoint, noPair_iff]

/-- The descriptors of the present gables, by their numbers. -/
theorem Cfg.present_eq_map (c : Cfg) :
    c.present = ((List.finRange 8).filter (fun g : Gable => (c.desc[g.val]).present)).map (fun g => c.desc[g.val]) := by
  have h : c.desc.toList = (List.finRange 8).map (fun g : Gable => c.desc[g.val]) := by
    apply List.ext_getElem <;> simp
  rw [Cfg.present, h, List.filter_map]
  rfl

/-- Two numbers that share no bit are words that share none. -/
theorem and_eq_zero_of_toNat {w : Nat} {x y : BitVec w} (h : x.toNat &&& y.toNat = 0) : x &&& y = 0 :=
  BitVec.eq_of_toNat_eq (by rw [BitVec.toNat_and, h]; rfl)

/-- A relation that holds along the numbers below `n` holds of a smaller and a greater one. -/
theorem of_pairwise_finRange {n : Nat} {R : Fin n → Fin n → Prop} (h : (List.finRange n).Pairwise R) {a b : Fin n}
    (hab : a.val < b.val) : R a b := by
  have hr := List.pairwise_iff_getElem.mp h a.val b.val (by simp) (by simp) hab
  rwa [List.getElem_finRange, List.getElem_finRange] at hr

/-- A mask field that is disjoint over the present descriptors gives nothing to two gables. -/
theorem Cfg.and_eq_zero_of_disjoint {c : Cfg} {w : Nat} {f : Desc → BitVec w}
    (hd : disjoint (c.present.map (fun d => (f d).toNat)) = true) {g h : Gable} (hgh : g ≠ h)
    (hg : (c.desc[g.val]).present = true) (hh : (c.desc[h.val]).present = true) :
    f c.desc[g.val] &&& f c.desc[h.val] = 0 := by
  rw [disjoint_iff, Cfg.present_eq_map, List.map_map, List.pairwise_map, List.pairwise_filter] at hd
  rcases Nat.lt_or_gt_of_ne (fun e => hgh (Fin.ext e)) with hlt | hlt
  · exact and_eq_zero_of_toNat (of_pairwise_finRange hd hlt hg hh)
  · rw [BitVec.and_comm]
    exact and_eq_zero_of_toNat (of_pairwise_finRange hd hlt hh hg)

theorem Cfg.exclusive_of_cfgOwners {c : Cfg} (h : cfgOwners c = true) : c.exclusive := by
  simp only [cfgOwners, Bool.and_eq_true] at h
  obtain ⟨⟨⟨⟨hbanks, hengines⟩, hgroups⟩, hwakes⟩, hains⟩ := h
  rw [disjoint_iff, List.pairwise_cons, ← disjoint_iff] at hbanks
  obtain ⟨htht, hbanks⟩ := hbanks
  refine ⟨fun g h hgh hg hh => ⟨?_, ?_, ?_, ?_, ?_⟩, fun g hg => ?_⟩
  · exact Cfg.and_eq_zero_of_disjoint hbanks hgh hg hh
  · exact Cfg.and_eq_zero_of_disjoint hengines hgh hg hh
  · exact Cfg.and_eq_zero_of_disjoint hgroups hgh hg hh
  · exact Cfg.and_eq_zero_of_disjoint hwakes hgh hg hh
  · exact Cfg.and_eq_zero_of_disjoint hains hgh hg hh
  · have hmem : c.desc[g.val] ∈ c.present := by simp [Cfg.present, hg]
    rw [BitVec.and_comm]
    exact and_eq_zero_of_toNat (htht _ (List.mem_map_of_mem hmem))

/-- A sum over the entries that pass a test is one in which the others count 0. -/
theorem sum_map_filter {α : Type} (p : α → Bool) (f : α → Nat) (l : List α) :
    ((l.filter p).map f).sum = (l.map (fun x => if p x then f x else 0)).sum := by
  induction l with
  | nil => rfl
  | cons x l ih => cases h : p x <;> simp [h, ih]

theorem Cfg.budgeted_of_checks {c : Cfg} (hr : cfgRanges c = true) (hb : cfgBudgets c = true) : c.budgeted := by
  simp only [cfgRanges, cfgBudgets, Bool.and_eq_true, decide_eq_true_eq] at hr hb
  obtain ⟨⟨⟨⟨_, hquantum⟩, _⟩, _⟩, _⟩ := hr
  obtain ⟨⟨hsum, _⟩, _⟩ := hb
  rw [Cfg.present_eq_map, List.map_map, sum_map_filter] at hsum
  exact ⟨hsum, hquantum⟩

/-! ## The choice of a slot (spec/15 R276) -/

theorem firstCause_eq_zero {l : List (Bool × Nat)} (hl : ∀ x ∈ l, x.2 ≠ 0) (h : firstCause l = 0) :
    ∀ x ∈ l, x.1 = true := by
  induction l with
  | nil => simp
  | cons x l ih =>
    rw [List.forall_mem_cons] at hl ⊢
    rw [firstCause] at h
    split at h
    next hx => exact ⟨hx, ih hl.2 h⟩
    next => exact absurd h hl.1

/-- A slot without a cause passes check 10. -/
theorem check10_of_slotCause {n : Nvm} {slotB readOk : Bool} {keys : List VendorKey} {root : Option RootCopy}
    {failed : BitVec 16} (h : slotCause n slotB readOk keys root failed = 0) :
    check10 (nvmSlot n slotB) (plateCfg (nvmSlot n slotB) slotB) failed = true :=
  firstCause_eq_zero (by simp [checks3to8]) h (check10 _ _ failed, 10)
    (List.mem_append_right _ (List.mem_cons_of_mem _ (List.mem_singleton_self _)))

theorem Cfg.exclusive_and_budgeted_of_check10 {rd : Rd} {c : Cfg} {failed : BitVec 16} (h : check10 rd c failed = true) :
    c.exclusive ∧ c.budgeted := by
  simp only [check10, Bool.and_eq_true] at h
  obtain ⟨⟨⟨⟨⟨⟨⟨⟨⟨howners, hranges⟩, hbudgets⟩, _⟩, _⟩, _⟩, _⟩, _⟩, _⟩, _⟩ := h
  exact ⟨Cfg.exclusive_of_cfgOwners howners, Cfg.budgeted_of_checks hranges hbudgets⟩

/-- The slot that is chosen has no cause. -/
theorem bootChoice_slot {present : Bool → Bool} {cause : Bool → Nat} {order : List Bool} {slotB : Bool}
    (h : (bootChoice present cause order).slot = some slotB) : cause slotB = 0 :=
  of_decide_eq_true (List.find?_some (p := fun x => decide (cause x = 0)) h)

/-- A slot that the ladle chooses passes check 10. -/
theorem State.check10_of_bootOf {s : State} {b : Board} {slotB : Bool} (h : (s.bootOf b).slot = some slotB) :
    check10 (nvmSlot (Board.nvmOr b s.nv.nvm) slotB) (plateCfg (nvmSlot (Board.nvmOr b s.nv.nvm) slotB) slotB)
      (Board.failedBanks b) = true :=
  check10_of_slotCause (bootChoice_slot h)

/-! ## Every step -/

/-- A cold start boots the slot that the ladle chose, or enters BARE where it chose none. -/
theorem State.coldStart_cases (s : State) (b : Board) (cause : BitVec 3) :
    (∃ slotB, (s.bootOf b).slot = some slotB ∧ s.coldStart b cause = s.bootSlot b cause (s.bootOf b) slotB) ∨
      s.coldStart b cause = s.bootBare b cause (s.bootOf b) := by
  unfold State.coldStart
  simp only
  split
  next slotB h => exact .inl ⟨slotB, h, rfl⟩
  next => exact .inr rfl

theorem Cfg.exclusive_vendorKeys (c : Cfg) (keys : List VendorKey) :
    { c with vendorKeys := keys }.exclusive ↔ c.exclusive := Iff.rfl

theorem Cfg.budgeted_vendorKeys (c : Cfg) (keys : List VendorKey) :
    { c with vendorKeys := keys }.budgeted ↔ c.budgeted := Iff.rfl

theorem Cfg.budgeted_reset : Cfg.reset.budgeted := ⟨by decide, by decide⟩

/-- The configuration that a cold start leaves is one that passed check 10, or BARE's. -/
theorem State.coldStart_exclusive_and_budgeted (s : State) (b : Board) (cause : BitVec 3) :
    (s.coldStart b cause).cfg.exclusive ∧ (s.coldStart b cause).cfg.budgeted := by
  rcases s.coldStart_cases b cause with ⟨slotB, hslot, h⟩ | h
  · rw [h, State.bootSlot_cfg, Cfg.exclusive_vendorKeys, Cfg.budgeted_vendorKeys]
    exact Cfg.exclusive_and_budgeted_of_check10 (State.check10_of_bootOf hslot)
  · rw [h, State.bootBare_cfg, Cfg.exclusive_vendorKeys, Cfg.budgeted_vendorKeys]
    exact ⟨Cfg.exclusive_of_absent Cfg.reset_absent, Cfg.budgeted_reset⟩

/-- A command keeps the configuration, or is a cold start that begins. -/
theorem exec_cfg_cases {c : Instr} {s t : State} (h : exec c s = .next t) :
    t.cfg = s.cfg ∨ ∃ b cause, t.cfg = (s.coldStart b cause).cfg := by
  by_cases hc : ∃ b, c = .coldStart b
  · obtain ⟨b, rfl⟩ := hc
    rcases execColdStart_cases b s with hs | ⟨cause, _, _, hs⟩
    · cases hs.symm.trans h
      exact .inl rfl
    · cases hs.symm.trans h
      exact .inr ⟨b, cause, rfl⟩
  · obtain ⟨u, hu⟩ := exec_eq_done (not_exists.mp hc) s
    cases hu.symm.trans h
    exact .inl rfl

/-- Settles O3: a step keeps the configuration, or is a cold start, and check 10 holds of what that leaves. -/
theorem everyStepKeepsOwnershipExclusive : Obligations.EveryStepKeepsOwnershipExclusive := by
  unfold Obligations.EveryStepKeepsOwnershipExclusive
  intro s t he hb h
  unfold step at h
  split at h
  next =>
    cases h
    exact ⟨he, hb⟩
  next c rest _ =>
    rcases exec_cfg_cases h with ht | ⟨b, cause, ht⟩
    · rw [ht]
      exact ⟨he, hb⟩
    · rw [ht]
      exact State.coldStart_exclusive_and_budgeted _ b cause

end Sys2Proof.Machine
end
